-- ==== Sys2Proof/Word.lean ====
section
/-! DEFINITION. The word types of the CJ1204: what its data book gives as bytes, half-words, words and stamps. -/

namespace Sys2Proof

/-- One byte of frame memory, of host memory or of a camera line. -/
abbrev Byte := BitVec 8

/-- A 16-bit field: a frame count, an edition. -/
abbrev Half := BitVec 16

/-- A 32-bit register or counter. -/
abbrev Word := BitVec 32

/-- A reading of the vision clock (section 2.3 of the introduction): microseconds, modulo 2^32. -/
abbrev Stamp := BitVec 32

/-- A camera port, 0 to 11 (section 2.1). -/
abbrev PortId := Fin 12

/-- A display, 0 to 3: screens A1, A2, B1, B2 (section 2.1). -/
abbrev DisplayId := Fin 4

/-- A door; the data book's door number is this value plus 1 (section 2.1). -/
abbrev DoorId := Fin 8

/-- A lane: 0 control, 1 export (section 2.1). -/
abbrev LaneId := Fin 2

/-- One of the six frame slots of a port (R23). -/
abbrev SlotId := Fin 6

/-- One of the sixteen layout slots (R69). -/
abbrev LayoutId := Fin 16

end Sys2Proof
end

