-- ==== Sys2Proof/Syntax.lean ====
section
/-! DEFINITION. The commands of the CJ1204: one constructor for each row of spec/opcode_table.json. A row's operands are
what arrives from outside with the event; what the part already holds (the captured attention word, the block in hand, the
export in flight) is read from the state. -/

namespace Sys2Proof

/-- The cab-relative sides (section 2.1). -/
inductive CabSide
  | left
  | right
deriving DecidableEq, Repr

/-- The eight registers of the window (R157). -/
inductive HostRegister
  | ident
  | areaLo
  | areaHi
  | areaSize
  | command
  | attention
  | status
  | resetCause
deriving DecidableEq, Repr

/-- One command or event of the part, in the order of spec/opcode_table.json. -/
inductive Instr
  /-- POWER_ON (R171): the power-on reset input; the door lines are sampled as they stand. -/
  | powerOn
  /-- LINK_RESET (R171). -/
  | linkReset
  /-- FRAME_OPEN (R1, R13): a packet with its frame count, width and height. -/
  | frameOpen (port : PortId) (count width height : Half)
  /-- LINE (R1, R14): a packet with its line number, sample payload and check. -/
  | line (port : PortId) (number : Half) (payload : List Byte) (check : Half)
  /-- FRAME_CLOSE (R1, R17): a packet with its frame count. -/
  | frameClose (port : PortId) (count : Half)
  /-- UNKNOWN_PACKET (R1): a packet of no recognised kind. -/
  | unknownPacket (port : PortId)
  /-- SILENCE_TIMER_EXPIRY (R9). -/
  | silenceTimerExpiry (port : PortId)
  /-- EVALUATION_SERVICE (R47): the oldest entry of the evaluation queue is served. -/
  | evaluationService
  /-- FRAME_START (R92). -/
  | frameStart (display : DisplayId)
  /-- FRAME_END (R107). -/
  | frameEnd (display : DisplayId)
  /-- HOLD_EXPIRY (R120): the hold of one side of one display. -/
  | holdExpiry (display : DisplayId) (side : CabSide)
  /-- DOOR_LINE_EDGE (R126): the raw level of the line becomes `level` (true: active). -/
  | doorLineEdge (door : DoorId) (level : Bool)
  /-- DEBOUNCE_EXPIRY (R127). -/
  | debounceExpiry (door : DoorId)
  /-- AREA_LO_WRITE (R158). -/
  | areaLoWrite (value : Word)
  /-- AREA_HI_WRITE (R158). -/
  | areaHiWrite (value : Word)
  /-- AREA_SIZE_WRITE (R158). -/
  | areaSizeWrite (value : Word)
  /-- STATUS_READ (R159). -/
  | statusRead
  /-- RESET_CAUSE_WRITE (R160). -/
  | resetCauseWrite (value : Word)
  /-- REGISTER_WRITE (R157): a write of COMMAND or of a read-only register. -/
  | registerWrite (register : HostRegister) (value : Word)
  /-- RUN_CHAIN (R162): the captured word is taken. -/
  | runChain
  /-- HALT_LANE (R163): the captured word is taken. -/
  | haltLane
  /-- ACKNOWLEDGE (R165): the captured word is taken. -/
  | acknowledge
  /-- RESTART (R164, R21): the captured word is taken. -/
  | restart
  /-- WAKE (R165): the captured word is taken. -/
  | wake
  /-- HEADER_READ (R168): a lane reaches a block. -/
  | headerRead (lane : LaneId)
  /-- SKIP_WALK (R169): a lane reaches a block in a skip walk. -/
  | skipWalk (lane : LaneId)
  /-- DEFINE_CAMERA (R4). -/
  | defineCamera
  /-- PARK_CAMERA (R5). -/
  | parkCamera
  /-- UNPARK_CAMERA (R6). -/
  | unparkCamera
  /-- LOAD_LAYOUT (R76). -/
  | loadLayout
  /-- CLEAR_LAYOUT (R78). -/
  | clearLayout
  /-- SELECT_LAYOUT (R91). -/
  | selectLayout
  /-- SET_DISPLAY (R90). -/
  | setDisplay
  /-- SET_CAB (R113). -/
  | setCab
  /-- LEARN_REFERENCE (R59). -/
  | learnReference
  /-- SET_REFERENCE (R65). -/
  | setReference
  /-- MEASURE_ONCE (R42). -/
  | measureOnce
  /-- SET_SOIL_LIMITS (R40). -/
  | setSoilLimits
  /-- SET_DOOR_POLICY (R129). -/
  | setDoorPolicy
  /-- ENTER_STABLING (R182). -/
  | enterStabling
  /-- EXPORT_FRAME (R146). -/
  | exportFrame
  /-- EXPORT_SCREEN (R149). -/
  | exportScreen
  /-- EXPORT_FRAME_ROW (R147). -/
  | exportFrameRow
  /-- EXPORT_SCREEN_ROW (R151). -/
  | exportScreenRow
  /-- ATTENTION_WRITE (R161). -/
  | attentionWrite (value : Word)
  /-- BAD_CODE (R161): the captured word names nothing the part can do. -/
  | badCode
deriving DecidableEq, Repr

end Sys2Proof
end

