-- ==== Sys2Proof/Config.lean ====
section
/-! DEFINITION. The values the data book leaves open for a given part: constants without a body, so that no proof can
see what they are. -/

namespace Sys2Proof

/-- The family code in bits 31:24 of IDENT. Section 12.1 gives its place and no value (assumption 5). -/
opaque Config.identFamily : BitVec 8

/-- The revision in bits 7:0 of IDENT. Section 12.1 gives its place and no value (assumption 5). -/
opaque Config.identRevision : BitVec 8

end Sys2Proof
end

