-- ==== Sys2Proof/WellFormed.lean ====
section
/-! DEFINITION. Which command terms stand for a row of the opcode table. Ports, displays, doors, sides and lanes are bounded
by their types; the one check left is on the register that a plain register write names. -/

namespace Sys2Proof

/-- A REGISTER_WRITE names COMMAND or a read-only register (R157). A write of any other register is a row of its own:
AREA_LO_WRITE, AREA_HI_WRITE, AREA_SIZE_WRITE, ATTENTION_WRITE, RESET_CAUSE_WRITE. -/
def HostRegister.plain : HostRegister → Bool
  | .ident => true
  | .command => true
  | .status => true
  | .areaLo => false
  | .areaHi => false
  | .areaSize => false
  | .attention => false
  | .resetCause => false

/-- The command is one the opcode table has a row for, with operands that row admits. -/
def Instr.wellFormed : Instr → Bool
  | .registerWrite register _ => register.plain
  | .powerOn | .linkReset => true
  | .frameOpen _ _ _ _ | .line _ _ _ _ | .frameClose _ _ | .unknownPacket _ | .silenceTimerExpiry _ => true
  | .evaluationService | .frameStart _ | .frameEnd _ | .holdExpiry _ _ | .doorLineEdge _ _ | .debounceExpiry _ => true
  | .areaLoWrite _ | .areaHiWrite _ | .areaSizeWrite _ | .statusRead | .resetCauseWrite _ => true
  | .runChain | .haltLane | .acknowledge | .restart | .wake | .headerRead _ | .skipWalk _ => true
  | .defineCamera | .parkCamera | .unparkCamera | .loadLayout | .clearLayout | .selectLayout | .setDisplay => true
  | .setCab | .learnReference | .setReference | .measureOnce | .setSoilLimits | .setDoorPolicy => true
  | .enterStabling | .exportFrame | .exportScreen | .exportFrameRow | .exportScreenRow => true
  | .attentionWrite _ | .badCode => true

end Sys2Proof
end

