-- ==== Sys2Proof/Machine/State.lean ====
section
/-! DEFINITION. The state of the CJ1204, block by block as section 1.3 of the introduction lists it, and its value right
after power-on. INVENTORY.md lists every field with the rule that names it. -/

namespace Sys2Proof.Machine

/-! ## Cabs, sides and cameras -/

/-- The two ends of the tram, its two cabs and its two physical sides are each called A and B (section 2.1). -/
inductive AB
  | a
  | b
deriving DecidableEq, Repr

/-- The role of a camera (section 1.2 of chapter 1). -/
inductive Role
  | door
  | endCamera
  | flank
  | other
deriving DecidableEq, Repr

/-- A camera record (section 1.2 of chapter 1), its defaults those of an UNDEFINED port. -/
structure CameraRecord where
  role : Role := .other
  /-- The end of the tram the camera stands at; kept for END and FLANK only. -/
  tip : Option AB := none
  /-- The physical side; kept for FLANK only. -/
  side : Option AB := none
  /-- The covered doors, each at most once, at most two. -/
  coverage : List DoorId := []
  width : Nat := 0
  height : Nat := 0
  /-- The silence timeout in microseconds. -/
  silence : Nat := 200000
  patchLimit : Nat := 8
  /-- The soil interval in frames. -/
  interval : Nat := 4
deriving DecidableEq, Repr

/-- The four states of a port (section 1.3 of chapter 1). -/
inductive PortState
  | parked
  | seeking
  | live
  | lost
deriving DecidableEq, Repr

/-- The frame-in-progress record of a port (R10). -/
structure FrameInProgress where
  /-- The opening frame count. -/
  count : Half
  slot : SlotId
  /-- The next expected line. -/
  next : Nat
  /-- The patched count. -/
  patched : Nat
  due : Bool
deriving DecidableEq, Repr

/-- The seven health counters of a port (R20). -/
structure Health where
  good : Word := 0
  bad : Word := 0
  aborted : Word := 0
  mismatched : Word := 0
  patched : Word := 0
  disorder : Word := 0
  losses : Word := 0
deriving DecidableEq, Repr

/-- One accumulator pair of a soil cell: the gradient sum G and the luma sum L (R44). -/
structure CellSums where
  g : Nat := 0
  l : Nat := 0
deriving DecidableEq, Repr

/-- A port of the Camera Receiver (chapter 1) with its soil accumulators (R44). -/
structure CapturePort where
  /-- The UNDEFINED flag. -/
  undefined : Bool := true
  camera : CameraRecord := {}
  state : PortState := .parked
  /-- The frame-in-progress record, present while a frame is being received (R10). -/
  frame : Option FrameInProgress := none
  /-- The silence timer: the stamp it runs from, or `none` while it is stopped (R8). -/
  silence : Option Stamp := none
  health : Health := {}
  /-- The 48 accumulator pairs of the frame in progress (R44). -/
  sums : Vector CellSums 48 := Vector.replicate 48 {}
deriving DecidableEq, Repr

/-! ## The frame store -/

/-- The three states of a frame slot (R24). -/
inductive SlotState
  | empty
  | filling
  | ready
deriving DecidableEq, Repr

/-- A holder of a slot lock (R30): a display pipe or the Export Mover. -/
inductive Holder
  | display (d : DisplayId)
  | mover
deriving DecidableEq, Repr

/-- A lock set (R24): for each possible holder, whether it is a member. -/
structure LockSet where
  displays : Vector Bool 4 := Vector.replicate 4 false
  mover : Bool := false
deriving DecidableEq, Repr

/-- A slot record (R24). -/
structure Slot where
  state : SlotState := .empty
  count : Half := 0
  /-- The capture stamp. -/
  stamp : Stamp := 0
  width : Nat := 0
  height : Nat := 0
  locks : LockSet := {}
  /-- The discard mark (R34). -/
  discard : Bool := false
deriving DecidableEq, Repr

/-- The part of the Frame Store that belongs to one port (R24). -/
structure StorePort where
  slots : Vector Slot 6 := Vector.replicate 6 {}
  /-- The ready order, oldest capture first. -/
  order : List SlotId := []
deriving DecidableEq, Repr

/-! ## The soil monitor -/

/-- The nine soil limits of a camera with their defaults (R39). -/
structure SoilLimits where
  dark : Nat := 24
  bright : Nat := 232
  minReference : Nat := 32
  minMeasurable : Nat := 8
  ratio : Nat := 102
  low : Nat := 16
  high : Nat := 48
  warn : Nat := 25
  blind : Nat := 60
deriving DecidableEq, Repr

/-- The five soil states (R57). -/
inductive SoilState
  | unlearned
  | learning
  | clean
  | smeared
  | blinded
deriving DecidableEq, Repr

/-- The learning record (R59): K, k, the 48 learn sums and the state saved at entry. -/
structure Learning where
  target : Nat
  taken : Nat
  sums : Vector Nat 48
  saved : SoilState
deriving DecidableEq, Repr

/-- The Soil Monitor's state of one camera and port (chapter 3). -/
structure Soil where
  limits : SoilLimits := {}
  reference : Vector Nat 48 := Vector.replicate 48 0
  /-- The informative map; the informative count I is the number of its members (R50). -/
  informative : Vector Bool 48 := Vector.replicate 48 false
  counters : Vector Nat 48 := Vector.replicate 48 0
  blocked : Vector Bool 48 := Vector.replicate 48 false
  state : SoilState := .unlearned
  /-- The score P as last derived; R57 says in which states it is present. -/
  score : Nat := 0
  suspended : Bool := false
  learning : Option Learning := none
  /-- The learn-abandoned flag (R63). -/
  abandoned : Bool := false
  /-- The soil skips counter (R46). -/
  skips : Word := 0
  /-- The interval count of the port (R43). -/
  intervalCount : Nat := 0
  /-- The one-shot flag of the port (R42). -/
  oneShot : Bool := false
deriving DecidableEq, Repr

/-- An entry of the evaluation queue (R46). -/
structure EvalEntry where
  port : PortId
  stamp : Stamp
  cellWidth : Nat
  cellHeight : Nat
  sums : Vector CellSums 48
deriving DecidableEq, Repr

/-! ## Layouts -/

/-- A rectangle: the column and line of its top left pixel, its width and its height. -/
structure Rect where
  x : Nat
  y : Nat
  w : Nat
  h : Nat
deriving DecidableEq, Repr

/-- The four symbolic sources (section 2.2). -/
inductive Symbol
  | front
  | rear
  | leftFlank
  | rightFlank
deriving DecidableEq, Repr

/-- A tile's source as it is named (R71). -/
inductive Source
  | port (p : PortId)
  | symbol (y : Symbol)
deriving DecidableEq, Repr

/-- A colour as the displays receive it (section 2.4). -/
structure Rgb where
  r : Byte
  g : Byte
  b : Byte
deriving DecidableEq, Repr

/-- A tile record (R70). -/
structure Tile where
  dest : Rect
  primary : Source
  primaryRect : Rect
  alternate : Option Source
  alternateRect : Rect
  mirror : Bool
  border : Nat
  colour : Rgb
  /-- The maximum age in microseconds (R74). -/
  maxAge : Nat
deriving DecidableEq, Repr

/-- A tile of a LOADED slot with its hidden mark (R69). -/
structure LaidTile where
  tile : Tile
  hidden : Bool
deriving DecidableEq, Repr

/-- A layout slot (R69): `none` is EMPTY, `some` the tile list of a LOADED slot. -/
abbrev Layout := Option (List LaidTile)

/-! ## Displays -/

/-- The settings of SET DISPLAY with their values at power-on (R89); a width, height or period of 0 stands for none. -/
structure DisplaySettings where
  width : Nat := 0
  height : Nat := 0
  /-- The frame period in microseconds. -/
  period : Nat := 0
  doorScreen : Bool := false
  doorLeft : Option LayoutId := none
  doorRight : Option LayoutId := none
  doorBoth : Option LayoutId := none
  /-- The override hold in microseconds. -/
  hold : Nat := 2000000
  /-- The blink exponent N. -/
  blinkN : Nat := 4
  /-- The blink on-count D. -/
  blinkD : Nat := 8
  minWidth : Nat := 320
  minHeight : Nat := 180
deriving DecidableEq, Repr

/-- The status of one side of a display's override (R117); HELD carries the expiry stamp of its hold. -/
inductive SideStatus
  | idle
  | called
  | held (expiry : Stamp)
deriving DecidableEq, Repr

/-- The override state of a display (R117). -/
inductive Override
  | none
  | left
  | right
  | both
deriving DecidableEq, Repr

/-- The fill of a drawn tile without a shown source (R96). -/
inductive Fill
  | none
  | striped
  | black
deriving DecidableEq, Repr

/-- The soil badge of a drawn tile (R98). -/
inductive Badge
  | none
  | blinded
  | smeared
deriving DecidableEq, Repr

/-- The shown source of a tile for one frame (R94, R95): the port, whether it is the alternate, the locked slot with its
dimensions, and the age in microseconds. -/
structure Shown where
  port : PortId
  alternate : Bool
  slot : SlotId
  width : Nat
  height : Nat
  age : Nat
deriving DecidableEq, Repr

/-- A tile of a frame tile list with the decisions of the frame start (R92). -/
structure FrameTile where
  tile : Tile
  hidden : Bool
  drawn : Bool
  shown : Option Shown
  fill : Fill
  stale : Bool
  badge : Badge
deriving DecidableEq, Repr

/-- The frame timing of a configured display (R87): the frame-start stamp and the period in force at it, and whether the
frame's end has been taken. -/
structure Timing where
  start : Stamp
  period : Nat
  ended : Bool
deriving DecidableEq, Repr

/-- A display pipe (chapters 5 and 6). The slots it has locked are those whose lock set holds it (R24). -/
structure Display where
  configured : Bool := false
  settings : DisplaySettings := {}
  /-- The selected layout (R91). -/
  selected : LayoutId := 0
  /-- The side status of LEFT (R117). -/
  left : SideStatus := .idle
  /-- The side status of RIGHT (R117). -/
  right : SideStatus := .idle
  /-- The mode of the last frame start: LIVE or DARK (R88). -/
  live : Bool := false
  timing : Option Timing := none
  frameCount : Word := 0
  /-- The frame tile list (R92). -/
  tiles : List FrameTile := []
  /-- The width and height of the frame in progress (R90). -/
  frameWidth : Nat := 0
  frameHeight : Nat := 0
  /-- Whether the blink phase of the frame is on (R98). -/
  blinkOn : Bool := false
  /-- The verdict vector (R100). -/
  verdicts : Vector Bool 8 := Vector.replicate 8 false
  /-- The effective slot of the last LIVE frame start (R109). -/
  effective : LayoutId := 0
  /-- The override state at the last frame start (R109, R123). -/
  startOverride : Override := .none
deriving DecidableEq, Repr

/-! ## Doors -/

/-- The four states of a door (R130); VIEWING and ASSURED carry the viewing-since stamp. -/
inductive DoorState
  | shut
  | opened
  | viewing (since : Stamp)
  | assured (since : Stamp)
deriving DecidableEq, Repr

/-- A door's line input and door record (R126, R130). -/
structure Door where
  /-- The raw level of the line; true is active. -/
  raw : Bool := false
  /-- The debounce timer: its expiry stamp while it runs (R126). -/
  timer : Option Stamp := none
  /-- The debounced level. -/
  level : Bool := false
  state : DoorState := .shut
  isolated : Bool := false
  /-- The dwell in microseconds. -/
  dwell : Nat := 1500000
  /-- The opened stamp. -/
  opened : Option Stamp := none
  lapses : Nat := 0
  /-- The last qualifying view: display and tile index (R139). -/
  lastView : Option (DisplayId × Nat) := none
deriving DecidableEq, Repr

/-- One truth value for each cab-relative side. -/
structure Sides where
  left : Bool := false
  right : Bool := false
deriving DecidableEq, Repr

/-! ## Mode -/

/-- The part's mode (chapter 11). -/
inductive Mode
  | run
  | stabled
deriving DecidableEq, Repr

/-- The cause of the last wake (chapter 11). -/
inductive WakeCause
  | none
  | door (d : DoorId)
  | wake
  | runChain
deriving DecidableEq, Repr

/-! ## Lanes and the register window -/

/-- A block in hand whose header and body have been read (R168). -/
structure InHand where
  kind : Nat
  notify : Bool
  haltOnFail : Bool
  target : Nat
  next : Word
  body : List Byte
deriving DecidableEq, Repr

/-- Where a RUNNING lane stands in its chain: before a block it is to reach, before a block of a skip walk, or with a
block in hand that it has read and written TAKEN (R168, R169). -/
inductive LanePhase
  | reach
  | skip
  | taken (block : InHand)
deriving DecidableEq, Repr

/-- The chain in hand of a RUNNING lane (R166): its head, the offset of the block the lane is at, the chain position. -/
structure Chain where
  head : Word
  block : Word
  position : Nat
  phase : LanePhase
deriving DecidableEq, Repr

/-- The lane state (R166). -/
inductive LaneState
  | idle
  | running (chain : Chain)
  | faulted
deriving DecidableEq, Repr

/-- A halt whose safe point is still ahead (R163, R164): whether the stop raises LANE_HALTED and whether it clears the
lane's counters. -/
structure Halt where
  announce : Bool
  zero : Bool
deriving DecidableEq, Repr

/-- A command lane (R166). -/
structure Lane where
  /-- The queued chain heads, oldest first. -/
  queue : List Word := []
  state : LaneState := .idle
  done : Word := 0
  failed : Word := 0
  skipped : Word := 0
  halting : Option Halt := none
deriving DecidableEq, Repr

/-- The last drop reason (R159). -/
inductive DropReason
  | none
  | busy
  | reject
  | full
  | badCode
  | areaInUse
deriving DecidableEq, Repr

/-- The register window (R157 to R161). -/
structure Window where
  areaLo : Word := 0
  areaHi : Word := 0
  areaSize : BitVec 9 := 0
  areaValid : Bool := false
  command : Word := 0
  /-- The captured attention word with the COMMAND value captured beside it; BUSY is its presence (R161). -/
  attention : Option (Word × Word) := none
  dropped : Bool := false
  dropReason : DropReason := .none
  /-- RESET_CAUSE: bit 0 POWER, bit 1 LINK, bit 2 RESTART (R160). -/
  resetCause : BitVec 3 := 1
  /-- The model's own: the value the last STATUS read returned (assumption 6). -/
  readData : Word := 0
deriving DecidableEq, Repr

/-! ## The Export Mover -/

/-- The operands of an export block (R146). -/
structure ExportOperands where
  dest : Nat
  stride : Nat
  room : Nat
deriving DecidableEq, Repr

/-- The export record (R145). -/
inductive Export
  | idle
  | moving (port : PortId) (ops : ExportOperands) (slot : SlotId) (width height : Nat) (count : Half) (stamp : Stamp)
      (rows : Nat)
  | waiting (display : DisplayId) (ops : ExportOperands)
  | copying (display : DisplayId) (ops : ExportOperands) (width height : Nat) (stamp : Stamp) (count : Word) (rows : Nat)
deriving DecidableEq, Repr

/-! ## The Report Writer and the link -/

/-- The eleven notice bits (R174, section 12.1). -/
inductive Notice
  | lane0Done
  | lane1Done
  | laneHalted
  | camera
  | soil
  | door
  | clear
  | cab
  | fault
  | reset
  | wake
deriving DecidableEq, Repr

/-- The causes of the fault record (R177). -/
inductive FaultCause
  | placement
  | areaRead
  | hostWrite
  | reportWrite
deriving DecidableEq, Repr

/-- The entry of the fault record (R177). -/
structure FaultEntry where
  cause : FaultCause
  lane : Option LaneId
  offset : Nat
  stamp : Stamp
  further : Nat
deriving DecidableEq, Repr

/-- The records of the report region (section 10.1). -/
inductive Record
  | fault
  | camera (p : PortId)
  | soil (p : PortId)
  | door (d : DoorId)
  | display (d : DisplayId)
  | lane (l : LaneId)
  | reference (p : PortId)
  | part
deriving DecidableEq, Repr

/-- The Report Writer (chapter 10). -/
structure Reports where
  /-- The master notice word. -/
  notice : BitVec 11 := 0
  iv : Bool := false
  fault : Option FaultEntry := none
  /-- One edition per record, at the record's index. -/
  editions : Vector Half 52 := Vector.replicate 52 0
  suspended : Bool := false
  /-- The reset announcement: pending or clear (R179). -/
  announce : Bool := true
  /-- For each display, the override state in the last display record written (R109). -/
  lastOverride : Vector Override 4 := Vector.replicate 4 .none
  /-- The model's own: the records the event in hand is still to write; empty between events (assumption 7). -/
  due : List Record := []
deriving DecidableEq, Repr

/-- What the link reports of one transaction (R153, R168, R178): completed, or failed after `landed` bytes of it reached
host memory. -/
inductive LinkOutcome
  | completed
  | failed (landed : Nat)
deriving DecidableEq, Repr

/-- A memory: its cells in strictly rising order of address, none of them holding what an unlisted address reads as. -/
abbrev Memory := List Host.Cell

/-- Host memory as the part sees it over the link. -/
structure Bus where
  /-- Host memory: the report region, the control blocks, the export destinations. -/
  mem : Memory := []
  /-- The environment's: the outcomes of the link transactions to come, first in front; past its end every transaction
  completes (assumption 4). -/
  fate : List LinkOutcome := []
  /-- The model's own: how many interrupt messages have been sent (assumption 6). -/
  interrupts : Nat := 0
deriving DecidableEq, Repr

/-! ## The whole part -/

/-- The state of the CJ1204 and of the host memory it reaches, with the queue of commands that wait. -/
structure State where
  /-- The vision clock (section 2.3). -/
  clock : Stamp := 0
  ports : Vector CapturePort 12 := Vector.replicate 12 {}
  store : Vector StorePort 12 := Vector.replicate 12 {}
  soil : Vector Soil 12 := Vector.replicate 12 {}
  /-- The evaluation queue, oldest first (R46). -/
  evalQueue : List EvalEntry := []
  layouts : Vector Layout 16 := Vector.replicate 16 none
  displays : Vector Display 4 := Vector.replicate 4 {}
  /-- The active cab (R111). -/
  cab : Option AB := none
  doors : Vector Door 8 := Vector.replicate 8 {}
  /-- The debounce time in microseconds (R128). -/
  debounce : Nat := 30000
  /-- The stored vectors (R132): for each display and door, the qualifying tile of a true verdict. -/
  stored : Vector (Vector (Option Nat) 8) 4 := Vector.replicate 4 (Vector.replicate 8 none)
  /-- The calling set last handed to the pipes (R116). -/
  calling : Sides := {}
  /-- The clear-view lines LEFT CLEAR and RIGHT CLEAR (R141). -/
  clear : Sides := {}
  mode : Mode := .run
  /-- The wake record: for each port, whether it is in the set (chapter 11). -/
  wakeRecord : Vector Bool 12 := Vector.replicate 12 false
  wakeCause : WakeCause := .none
  window : Window := {}
  lanes : Vector Lane 2 := Vector.replicate 2 {}
  mover : Export := .idle
  reports : Reports := {}
  /-- Frame memory: the 256 MiB of in-package DRAM (R23). -/
  frameMem : Memory := []
  bus : Bus := {}
  /-- The model's own: the commands that wait, first in first out. -/
  pending : List Instr := []
deriving DecidableEq, Repr

/-- Why the machine stops with a fault. -/
inductive Fault
  /-- LINE, FRAME_CLOSE, EXPORT_FRAME_ROW or EXPORT_SCREEN_ROW would reach a byte of a slot at or above 268,435,456, where
  R23 gives frame memory no byte. No run from reset gets there (R3 bounds the frame sizes). Safe: the model stops where the
  data book describes no state. -/
  | frameMemoryAddress
deriving DecidableEq, Repr

/-- Why a command has no meaning. -/
inductive Refusal
  /-- Raised by an arm of `exec` whose command has no meaning yet; none is left. Safe: nothing is said of that command. -/
  | notModelled (mnemonic : String)
deriving DecidableEq, Repr

/-- The part right after power-on, every door line inactive, with nothing listed in either memory (R22, R37, R68, R86, R110,
R125, R144, R156, R171, R180, R185). -/
def State.reset : State := {}

end Sys2Proof.Machine
end

