-- ==== Sys2Proof/Machine/Ops.lean ====
section
/-! DEFINITION. The named operations the meanings share: stamps, little-endian fields, memory, the link, the CRC of the camera
link, and one update for each block of the state. -/

namespace Sys2Proof.Machine

/-! ## Stamps (section 2.3) -/

/-- The difference of two stamps, taken modulo 2^32 and read as a value below 2^31 (section 2.3; assumption 8). -/
def since (later earlier : Stamp) : Nat := (later - earlier).toNat % 2147483648

/-- The vision clock has reached an expiry stamp (R120, R127; assumption 9). -/
def reached (clock expiry : Stamp) : Bool := decide ((clock - expiry).toNat < 2147483648)

/-- The stamp a number of microseconds after another. -/
def stampAfter (s : Stamp) (micros : Nat) : Stamp := s + BitVec.ofNat 32 micros

/-! ## Bytes and fields (section 2.5) -/

/-- The `n` low bytes of a number, little-endian. -/
def leBytes : Nat → Nat → List Byte
  | 0, _ => []
  | n + 1, v => BitVec.ofNat 8 v :: leBytes n (v / 256)

/-- The number that a list of bytes spells, little-endian. -/
def leNat : List Byte → Nat
  | [] => 0
  | b :: bs => b.toNat + 256 * leNat bs

/-- The little-endian field of `n` bytes at offset `off`. -/
def field (bs : List Byte) (off n : Nat) : Nat := leNat ((bs.drop off).take n)

/-- A byte of the value 0 or 1. -/
def flagByte (b : Bool) : Byte := if b then 1 else 0

/-- `n` reserved bytes (R187). -/
def zeros (n : Nat) : List Byte := List.replicate n 0

/-- Apply a function a number of times. -/
def iterate {α : Type} (f : α → α) : Nat → α → α
  | 0, x => x
  | n + 1, x => iterate f n (f x)

/-! ## Memory -/

/-- What the byte at an address reads as: 0 where nothing is listed (assumption 2 for frame memory, 3 for host memory). -/
def Memory.read : Memory → Nat → Byte
  | [], _ => 0
  | c :: m, a => if c.1 = a then c.2 else Memory.read m a

/-- The bytes at `n` addresses from one on, each as it reads. -/
def Memory.readRun (m : Memory) : Nat → Nat → List Byte
  | _, 0 => []
  | a, n + 1 => m.read a :: Memory.readRun m (a + 1) n

/-- The `n` bytes from an address on; only the cells at those addresses are looked at. -/
def Memory.readBytes (m : Memory) (a n : Nat) : List Byte :=
  Memory.readRun (m.filter fun c => decide (a ≤ c.1) && decide (c.1 < a + n)) a n

/-- The cells that hold a run of bytes from an address on, those of the value 0 left out. -/
def Memory.cells : Nat → List Byte → Memory
  | _, [] => []
  | a, b :: bs => if b = 0 then Memory.cells (a + 1) bs else (a, b) :: Memory.cells (a + 1) bs

/-- A memory after a run of bytes has been written from an address on. -/
def Memory.write (m : Memory) (a : Nat) (bs : List Byte) : Memory :=
  m.filter (fun c => decide (c.1 < a)) ++ Memory.cells a bs ++ m.filter (fun c => decide (a + bs.length ≤ c.1))

/-- The canonical form: addresses strictly rising, no cell of the value 0. -/
abbrev Memory.wf (m : Memory) : Prop := m.Pairwise (fun c d => c.1 < d.1) ∧ ∀ c ∈ m, c.2 ≠ 0

/-! ## The link to host memory -/

/-- One write transaction: a failed one leaves the bytes that landed before the failure (R153, R170; assumption 4). -/
def Bus.write (b : Bus) (a : Nat) (bs : List Byte) : Bus × Bool :=
  match b.fate with
  | [] => ({ b with mem := b.mem.write a bs }, true)
  | .completed :: rest => ({ b with mem := b.mem.write a bs, fate := rest }, true)
  | .failed landed :: rest => ({ b with mem := b.mem.write a (bs.take landed), fate := rest }, false)

/-- Write transactions one after another, the first failure ending them (R153, R178). -/
def Bus.writeAll (b : Bus) : List (Nat × List Byte) → Bus × Bool
  | [] => (b, true)
  | (a, bs) :: rest =>
    match b.write a bs with
    | (b', true) => Bus.writeAll b' rest
    | (b', false) => (b', false)

/-- One write transaction of which a failure lands nothing: the one that seals a sequence of writes, see `Bus.writeSealed`. -/
def Bus.writeWhole (b : Bus) (a : Nat) (bs : List Byte) : Bus × Bool :=
  match b.fate with
  | [] => b.write a bs
  | .completed :: _ => b.write a bs
  | .failed _ :: rest => ({ b with fate := rest }, false)

/-- Write transactions one after another, the first failure ending them, the last of which seals what the others wrote and lands
nothing where it fails: the final status of a block, which one whose ending failed does not hold (R170), and the tail edition of a
record, which stays behind the head edition where the record's write failed (R173). -/
def Bus.writeSealed (b : Bus) : List (Nat × List Byte) → Bus × Bool
  | [] => (b, true)
  | [(a, bs)] => b.writeWhole a bs
  | (a, bs) :: w :: rest =>
    match b.write a bs with
    | (b', true) => Bus.writeSealed b' (w :: rest)
    | (b', false) => (b', false)

/-- One read transaction of `n` bytes; `none` where the link reports it failed (R168). -/
def Bus.read (b : Bus) (a n : Nat) : Bus × Option (List Byte) :=
  match b.fate with
  | [] => (b, some (b.mem.readBytes a n))
  | .completed :: rest => ({ b with fate := rest }, some (b.mem.readBytes a n))
  | .failed _ :: rest => ({ b with fate := rest }, none)

/-! ## The CRC of the camera link (R2) -/

/-- One bit of the CRC: shift left, the polynomial x^16 + x^12 + x^5 + 1 taken in where a 1 leaves at the top. -/
def crcBit (c : Half) : Half := if c.msb then (c <<< 1) ^^^ 0x1021 else c <<< 1

/-- One byte of the CRC, most significant bit first. -/
def crcByte (c : Half) (b : Byte) : Half := iterate crcBit 8 (c ^^^ (b.zeroExtend 16 <<< 8))

/-- The CRC-16 of a payload: start value 0xFFFF, no inversion of the result (R2). -/
def crc16 (bs : List Byte) : Half := bs.foldl crcByte 0xFFFF

/-! ## Cabs and sides (R111) -/

/-- The other of the two ends, cabs or sides. -/
def AB.other : AB → AB
  | .a => .b
  | .b => .a

/-- The cab a display belongs to (section 2.1). -/
def cabOf (d : DisplayId) : AB := if d.val < 2 then .a else .b

/-- The physical side of a door (section 2.1). -/
def doorSide (d : DoorId) : AB := if d.val < 4 then .a else .b

/-- The cab-relative side of a physical side while a cab is active (R111). -/
def sideOf (cab physical : AB) : CabSide := if physical = cab then .right else .left

/-- The physical side of a cab-relative side while a cab is active (R111). -/
def physicalOf (cab : AB) : CabSide → AB
  | .right => cab
  | .left => cab.other

/-! ## Updates, one for each block of the state -/

def State.setPort (s : State) (p : PortId) (v : CapturePort) : State := { s with ports := s.ports.set p v }

def State.setStore (s : State) (p : PortId) (v : StorePort) : State := { s with store := s.store.set p v }

def State.setSoil (s : State) (p : PortId) (v : Soil) : State := { s with soil := s.soil.set p v }

def State.setDisplay (s : State) (d : DisplayId) (v : Display) : State := { s with displays := s.displays.set d v }

def State.setDoor (s : State) (d : DoorId) (v : Door) : State := { s with doors := s.doors.set d v }

def State.setLane (s : State) (l : LaneId) (v : Lane) : State := { s with lanes := s.lanes.set l v }

def State.setReports (s : State) (v : Reports) : State := { s with reports := v }

def State.setBus (s : State) (v : Bus) : State := { s with bus := v }

def State.setWindow (s : State) (v : Window) : State := { s with window := v }

end Sys2Proof.Machine
end

