-- ==== Sys2Proof/Machine/Clock.lean ====
section
/-! DEFINITION. The tick of the vision clock (section 2.3). -/

namespace Sys2Proof.Machine

/-- One microsecond passes: the vision clock counts, and wraps (section 2.3; assumption 1). -/
def tick (s : State) : State := { s with clock := s.clock + 1 }

end Sys2Proof.Machine
end

