-- ==== Sys2Proof/Machine/Flags.lean ====
section
/-! DEFINITION. The flags of the host interface: the notice word and its bits, the fault record, the words that STATUS, IDENT
and RESET_CAUSE read as. -/

namespace Sys2Proof.Machine

/-! ## Notices (R174) -/

/-- The position of a notice bit (section 12.1). -/
def Notice.bit : Notice → Nat
  | .lane0Done => 0
  | .lane1Done => 1
  | .laneHalted => 2
  | .camera => 3
  | .soil => 4
  | .door => 5
  | .clear => 6
  | .cab => 7
  | .fault => 8
  | .reset => 9
  | .wake => 10

/-- The notice word with one bit set. -/
def Notice.mask (n : Notice) : BitVec 11 := 1#11 <<< n.bit

/-- The notice word has the bit of a notice. -/
def hasNotice (w : BitVec 11) (n : Notice) : Bool := w.getLsbD n.bit

/-- The event in hand is to write a record (R172). -/
def mark (r : Record) (s : State) : State := s.setReports { s.reports with due := r :: s.reports.due }

/-- Raise a notice: its bit is set in the master copy while the area is valid, and discarded otherwise; a changed word has
the part record written (R174). -/
def raise (n : Notice) (s : State) : State :=
  if s.window.areaValid then
    if hasNotice s.reports.notice n then s
    else mark .part (s.setReports { s.reports with notice := s.reports.notice ||| n.mask })
  else s

/-- Reports flow while the area is valid and the suspension is clear (R172). -/
def reportsFlow (s : State) : Bool := s.window.areaValid && !s.reports.suspended

/-! ## The fault record (R177) -/

/-- The fault record after a fault: an empty record takes the entry, an occupied one counts it (R177). -/
def nextFault (cause : FaultCause) (lane : Option LaneId) (offset : Nat) (stamp : Stamp) :
    Option FaultEntry → FaultEntry
  | none => { cause, lane, offset, stamp, further := 0 }
  | some e => { e with further := min (e.further + 1) 65535 }

/-- A lane fault or report write error reaches the fault record and raises FAULT (R177). -/
def recordFault (cause : FaultCause) (lane : Option LaneId) (offset : Nat) (s : State) : State :=
  raise .fault (mark .fault
    (s.setReports { s.reports with fault := some (nextFault cause lane offset s.clock s.reports.fault) }))

/-! ## Drops (R159) -/

/-- A register write or attention word is dropped: DROPPED and the last drop reason (R159). -/
def dropWord (reason : DropReason) (s : State) : State :=
  s.setWindow { s.window with dropped := true, dropReason := reason }

/-! ## The registers as they read (R157, section 12.1) -/

/-- REJECT: the area is invalid, or a report write fault is outstanding (R159). -/
def reject (s : State) : Bool := !s.window.areaValid || s.reports.suspended

/-- The code of the last drop reason in STATUS (section 12.1). -/
def DropReason.code : DropReason → Nat
  | .none => 0
  | .busy => 1
  | .reject => 2
  | .full => 3
  | .badCode => 4
  | .areaInUse => 5

/-- The code of a lane state in STATUS and in the lane record (section 12.1). -/
def LaneState.code : LaneState → Nat
  | .idle => 0
  | .running _ => 1
  | .faulted => 2

/-- The code of the mode in STATUS and in the part record (section 12.1). -/
def Mode.code : Mode → Nat
  | .run => 0
  | .stabled => 1

/-- The word a read of STATUS returns (R159, section 12.1). -/
def statusWord (s : State) : Word :=
  BitVec.ofNat 32
    (s.window.attention.isSome.toNat + 2 * (reject s).toNat + 4 * s.reports.iv.toNat + 8 * s.window.dropped.toNat
      + 16 * s.window.dropReason.code + 256 * s.lanes[(0 : LaneId)].state.code + 1024 * s.lanes[(1 : LaneId)].state.code
      + 4096 * s.lanes[(0 : LaneId)].queue.length + 32768 * s.lanes[(1 : LaneId)].queue.length
      + 262144 * s.mode.code + 524288 * s.window.areaValid.toNat)

/-- The word a read of a register returns (R157, section 12.1). -/
def readRegister (s : State) : HostRegister → Word
  | .ident => Config.identFamily ++ 0x1204#16 ++ Config.identRevision
  | .areaLo => s.window.areaLo
  | .areaHi => s.window.areaHi
  | .areaSize => s.window.areaSize.zeroExtend 32
  | .command => s.window.command
  | .attention => 0
  | .status => statusWord s
  | .resetCause => s.window.resetCause.zeroExtend 32

end Sys2Proof.Machine
end

