-- ==== Sys2Proof/Machine/Reports.lean ====
section
/-! DEFINITION. The Report Writer: the records of the report region byte by byte (chapter 12), the write of one record with its
editions, and what an event does at its end: the records it rewrites, the part record last, IV and the interrupt. -/

namespace Sys2Proof.Machine

/-! ## Places (section 10.1) -/

/-- The place of a record among the editions. -/
def Record.index : Record → Fin 52
  | .fault => 0
  | .camera p => ⟨1 + p.val, by omega⟩
  | .soil p => ⟨13 + p.val, by omega⟩
  | .door d => ⟨25 + d.val, by omega⟩
  | .display d => ⟨33 + d.val, by omega⟩
  | .lane l => ⟨37 + l.val, by omega⟩
  | .reference p => ⟨39 + p.val, by omega⟩
  | .part => 51

/-- The offset of a record in the report region (section 10.1). -/
def Record.offset : Record → Nat
  | .part => 0
  | .fault => 0x40
  | .camera p => 0x100 + 64 * p.val
  | .soil p => 0x400 + 64 * p.val
  | .door d => 0x700 + 32 * d.val
  | .display d => 0x800 + 64 * d.val
  | .lane l => 0x900 + 32 * l.val
  | .reference p => 0x1000 + 128 * p.val

/-- The size of a record in bytes (section 10.1). -/
def Record.size : Record → Nat
  | .part => 64
  | .fault => 64
  | .camera _ => 64
  | .soil _ => 64
  | .door _ => 32
  | .display _ => 64
  | .lane _ => 32
  | .reference _ => 128

/-- Every record but the part record, in ascending order of offset (R172, R179). -/
def recordsBeforePart : List Record :=
  .fault :: (List.finRange 12).map .camera ++ (List.finRange 12).map .soil ++ (List.finRange 8).map .door
    ++ (List.finRange 4).map .display ++ (List.finRange 2).map .lane ++ (List.finRange 12).map .reference

/-- The base of the work area: AREA_HI : AREA_LO (R158). -/
def areaBase (s : State) : Nat := 4294967296 * s.window.areaHi.toNat + s.window.areaLo.toNat

/-- The size of the work area in bytes (R158). -/
def areaBytes (s : State) : Nat := 65536 * s.window.areaSize.toNat

/-! ## Codes (chapter 12) -/

/-- An end, side or cab: 0 absent, 1 A, 2 B. -/
def abCode : Option AB → Nat
  | none => 0
  | some .a => 1
  | some .b => 2

def Role.code : Role → Nat
  | .door => 0
  | .endCamera => 1
  | .flank => 2
  | .other => 3

def PortState.code : PortState → Nat
  | .parked => 0
  | .seeking => 1
  | .live => 2
  | .lost => 3

def SoilState.code : SoilState → Nat
  | .unlearned => 0
  | .learning => 1
  | .clean => 2
  | .smeared => 3
  | .blinded => 4

def DoorState.code : DoorState → Nat
  | .shut => 0
  | .opened => 1
  | .viewing _ => 2
  | .assured _ => 3

def Override.code : Override → Nat
  | .none => 0
  | .left => 1
  | .right => 2
  | .both => 3

def WakeCause.code : WakeCause → Nat
  | .none => 0
  | .door _ => 1
  | .wake => 2
  | .runChain => 3

/-- The wake door, 1 to 8, or 0. -/
def WakeCause.doorNumber : WakeCause → Nat
  | .door d => d.val + 1
  | .none => 0
  | .wake => 0
  | .runChain => 0

def FaultCause.code : FaultCause → Nat
  | .placement => 1
  | .areaRead => 2
  | .hostWrite => 3
  | .reportWrite => 4

/-- A byte from a number. -/
def byte (n : Nat) : Byte := BitVec.ofNat 8 n

/-- A map of cells as a number: cell n at bit n (section 12.5). -/
def mapNat (m : Vector Bool 48) : Nat := (List.finRange 48).foldl (fun n i => n + m[i].toNat * 2 ^ i.val) 0

/-- The score is present in CLEAN, SMEARED and BLINDED only (R57). -/
def Soil.shownScore (m : Soil) : Option Nat :=
  match m.state with
  | .unlearned => none
  | .learning => none
  | .clean => some m.score
  | .smeared => some m.score
  | .blinded => some m.score

/-- The viewing-since stamp, present in VIEWING and ASSURED (R130). -/
def DoorState.viewingSince : DoorState → Option Stamp
  | .shut => none
  | .opened => none
  | .viewing since => some since
  | .assured since => some since

/-- The covered door at a place of the coverage list as DEFINE CAMERA codes it: 0 absent (assumption 10). -/
def coverageCode (c : CameraRecord) (i : Nat) : Nat :=
  match c.coverage[i]? with
  | some d => d.val + 1
  | none => 0

/-! ## The contents of each record, between its two editions (section 12.5) -/

/-- The part record; its stamp of writing is the clock (section 12.5). -/
def partContents (s : State) : List Byte :=
  leBytes 2 s.reports.notice.toNat
    ++ [byte s.mode.code, byte (abCode s.cab), byte (s.clear.left.toNat + 2 * s.clear.right.toNat),
        byte s.wakeCause.code, byte s.wakeCause.doorNumber]
    ++ zeros 3 ++ leBytes 4 s.clock.toNat ++ zeros 46

/-- The fault record; an empty one shows cause 0 and the lane code for none (assumption 11). -/
def faultContents (s : State) : List Byte :=
  match s.reports.fault with
  | none => [0, 255] ++ zeros 58
  | some e =>
    [byte e.cause.code, byte (match e.lane with | some l => l.val | none => 255)]
      ++ leBytes 4 e.offset ++ leBytes 4 e.stamp.toNat ++ leBytes 2 e.further ++ zeros 48

/-- A camera record (R7). -/
def cameraContents (s : State) (p : PortId) : List Byte :=
  let q := s.ports[p]
  let c := q.camera
  [byte p.val, flagByte q.undefined, byte q.state.code,
    byte c.role.code, byte (abCode c.tip), byte (abCode c.side), byte (coverageCode c 0), byte (coverageCode c 1)]
    ++ leBytes 2 c.width ++ leBytes 2 c.height ++ leBytes 2 (c.silence / 1000)
    ++ [byte c.patchLimit, byte c.interval] ++ zeros 2
    ++ leBytes 4 q.health.good.toNat ++ leBytes 4 q.health.bad.toNat ++ leBytes 4 q.health.aborted.toNat
    ++ leBytes 4 q.health.mismatched.toNat ++ leBytes 4 q.health.patched.toNat ++ leBytes 4 q.health.disorder.toNat
    ++ leBytes 4 q.health.losses.toNat ++ zeros 14

/-- A soil record (R58). -/
def soilContents (s : State) (p : PortId) : List Byte :=
  let m := s.soil[p]
  [byte m.state.code, (match m.shownScore with | some n => byte n | none => 255),
    byte (m.suspended.toNat + 2 * m.abandoned.toNat)]
    ++ (match m.learning with | some r => [1, byte r.target, byte r.taken] | none => zeros 3)
    ++ leBytes 6 (mapNat m.blocked) ++ leBytes 6 (mapNat m.informative) ++ leBytes 4 m.skips.toNat ++ zeros 38

/-- A stamp whose presence a flag shows: 0 while absent (R187). -/
def stampBytes : Option Stamp → List Byte
  | some t => leBytes 4 t.toNat
  | none => zeros 4

/-- A door record (R143). -/
def doorContents (s : State) (d : DoorId) : List Byte :=
  let r := s.doors[d]
  [byte (d.val + 1), byte (abCode (some (doorSide d))), flagByte r.level, byte r.state.code, flagByte r.isolated,
    byte (r.opened.isSome.toNat + 2 * r.state.viewingSince.isSome.toNat + 4 * r.lastView.isSome.toNat)]
    ++ stampBytes r.opened ++ stampBytes r.state.viewingSince ++ leBytes 2 r.lapses
    ++ (match r.lastView with | some v => [byte v.1.val, byte v.2] | none => zeros 2)
    ++ leBytes 2 (r.dwell / 1000) ++ zeros 8

/-- The tile entry of a display record (section 12.5); a tile that is not present shows no port (assumption 12). -/
def tileEntry : Option FrameTile → List Byte
  | none => [0, 255, 0, 0, 0, 0]
  | some t =>
    let marks := (decide (t.fill = .striped)).toNat + 2 * (decide (t.fill = .black)).toNat + 4 * t.stale.toNat
      + 8 * (decide (t.badge = .blinded)).toNat + 16 * (decide (t.badge = .smeared)).toNat
    match t.shown with
    | none => [byte (1 + 2 * t.drawn.toNat), 255, byte marks, 0, 0, 0]
    | some v =>
      [byte (1 + 2 * t.drawn.toNat + 4 * v.alternate.toNat + 8), byte v.port.val, byte (marks + 32 * v.alternate.toNat), 0]
        ++ leBytes 2 (min (v.age / 1000) 65535)

/-- A display record: the contents of the last frame start (R109). -/
def displayContents (s : State) (d : DisplayId) : List Byte :=
  let r := s.displays[d]
  [byte (if r.configured then (if r.live then 2 else 1) else 0), byte r.effective.val, byte r.startOverride.code]
    ++ zeros 3 ++ leBytes 4 r.frameCount.toNat
    ++ ((List.range 8).flatMap fun i => tileEntry r.tiles[i]?) ++ zeros 2

/-- A head or block offset as the lane record shows it: divided by 32, or 0 where R187 says so. -/
def shownOffset (w : Word) : Nat := if w.toNat % 32 = 0 ∧ w.toNat < 2 ^ 24 then w.toNat / 32 else 0

/-- The queued head at a place of the queue as the lane record shows it. -/
def shownHead (q : List Word) (i : Nat) : Nat :=
  match q[i]? with
  | some w => shownOffset w
  | none => 0

/-- The chain position, chain head and block in hand that the lane record shows (assumption 13). -/
def LaneState.shown : LaneState → Nat × Nat × Nat
  | .idle => (0, 0, 0)
  | .faulted => (0, 0, 0)
  | .running c =>
    (c.position, shownOffset c.head, match c.phase with | .taken _ => shownOffset c.block | .reach => 0 | .skip => 0)

/-- The contents a lane gives its record: one field of 224 bits (section 12.5). -/
def Lane.contents (r : Lane) : List Byte :=
  let (position, head, block) := r.state.shown
  leBytes 28
    (r.state.code + 2 ^ 2 * r.queue.length + 2 ^ 5 * position + 2 ^ 14 * r.done.toNat + 2 ^ 46 * r.failed.toNat
      + 2 ^ 78 * r.skipped.toNat + 2 ^ 110 * head + 2 ^ 129 * block + 2 ^ 148 * shownHead r.queue 0
      + 2 ^ 167 * shownHead r.queue 1 + 2 ^ 186 * shownHead r.queue 2 + 2 ^ 205 * shownHead r.queue 3)

/-- A lane record (R166). -/
def laneContents (s : State) (l : LaneId) : List Byte := (s.lanes[l]).contents

/-- A reference record (R67). -/
def referenceContents (s : State) (p : PortId) : List Byte :=
  [byte p.val, 0] ++ (s.soil[p].reference.toList.flatMap fun r => leBytes 2 r) ++ zeros 26

/-- The contents of a record (R187). -/
def recordContents (s : State) : Record → List Byte
  | .part => partContents s
  | .fault => faultContents s
  | .camera p => cameraContents s p
  | .soil p => soilContents s p
  | .door d => doorContents s d
  | .display d => displayContents s d
  | .lane l => laneContents s l
  | .reference p => referenceContents s p

/-! ## Writing -/

/-- The override state a display record carries is noted when the record is written (R109). -/
def noteOverride (s : State) (r : Record) : Vector Override 4 :=
  match r with
  | .display d => s.reports.lastOverride.set d s.displays[d].startOverride
  | .part => s.reports.lastOverride
  | .fault => s.reports.lastOverride
  | .camera _ => s.reports.lastOverride
  | .soil _ => s.reports.lastOverride
  | .door _ => s.reports.lastOverride
  | .lane _ => s.reports.lastOverride
  | .reference _ => s.reports.lastOverride

/-- The three writes of a record: the head edition, the contents, the tail edition (R173). -/
def recordWrites (s : State) (r : Record) (edition : Half) : List (Nat × List Byte) :=
  let a := areaBase s + r.offset
  [(a, leBytes 2 edition.toNat), (a + 2, recordContents s r), (a + r.size - 2, leBytes 2 edition.toNat)]

/-- A report write error (R178). -/
def reportError (r : Record) (s : State) : State :=
  recordFault .reportWrite none r.offset (s.setReports { s.reports with suspended := true })

/-- A record is written while reports flow, by the steps of R173; a failed write is a report write error and
leaves the tail edition as it was (R172, R178). DEDUCED: of a head edition that fails, the bytes that landed stand (assumption 33). -/
def writeRecord (r : Record) (s : State) : State :=
  if reportsFlow s then
    let edition := s.reports.editions[r.index] + 1
    let s1 := s.setReports
      { s.reports with editions := s.reports.editions.set r.index edition, lastOverride := noteOverride s r }
    match s.bus.writeSealed (recordWrites s r edition) with
    | (bus, true) => s1.setBus bus
    | (bus, false) => reportError r (s1.setBus bus)
  else s

/-- The records marked by the event, in ascending order of offset (R172). -/
def dueRecords (s : State) : List Record := recordsBeforePart.filter fun r => s.reports.due.contains r

/-- IV is set and one interrupt message sent where R175 allows. -/
def settleIv (s : State) : State :=
  if s.reports.notice ≠ 0 ∧ reportsFlow s ∧ s.reports.iv = false then
    (s.setReports { s.reports with iv := true }).setBus { s.bus with interrupts := s.bus.interrupts + 1 }
  else s

/-- The end of an event: its records are written, the part record last, and IV is settled (R172, R175). -/
def finishEvent (s : State) : State :=
  let s1 := (dueRecords s).foldl (fun t r => writeRecord r t) s
  let s2 := if s1.reports.due.contains .part then writeRecord .part s1 else s1
  settleIv (s2.setReports { s2.reports with due := [] })

/-- Every record of the region is to be written (R179). -/
def markAll (s : State) : State := s.setReports { s.reports with due := .part :: recordsBeforePart }

/-- The full report write of R179, up to the writes themselves, which end the event: the suspension ends, RESET is raised
where it is pending or `always`, every record is to be written. -/
def fullReport (always : Bool) (s : State) : State :=
  let s1 := s.setReports { s.reports with suspended := false }
  let s2 := if s1.reports.announce || always then
      raise .reset (s1.setReports { s1.reports with announce := false })
    else s1
  markAll s2

end Sys2Proof.Machine
end

