-- ==== Sys2Proof/Machine/FrameStore.lean ====
section
/-! DEFINITION. The Frame Store (chapter 2): where a slot lies, slot choice, the newest READY slot, lock sets and their release,
what a park does to the slots of a port. -/

namespace Sys2Proof.Machine

/-! ## Frame memory (R23) -/

/-- The size of frame memory in bytes (R23). -/
def frameMemoryBytes : Nat := 268435456

/-- The first byte of a slot (R23). -/
def slotBase (p : PortId) (i : SlotId) : Nat := (6 * p.val + i.val) * 1966080

/-- The first byte of line `n` of a frame of width `width` in a slot (R23). -/
def lineBase (p : PortId) (i : SlotId) (width n : Nat) : Nat := slotBase p i + n * (2 * width)

/-- A frame of these dimensions in a slot ends within frame memory. -/
def frameFits (p : PortId) (i : SlotId) (width height : Nat) : Bool :=
  decide (lineBase p i width height ≤ frameMemoryBytes)

/-! ## Lock sets (R30) -/

def LockSet.isEmpty (l : LockSet) : Bool :=
  !l.mover && (List.finRange 4).all fun d => !l.displays[d]

def LockSet.mem (l : LockSet) : Holder → Bool
  | .display d => l.displays[d]
  | .mover => l.mover

/-- The lock set with a holder added, or unchanged if it is a member (R30). -/
def LockSet.add (l : LockSet) : Holder → LockSet
  | .display d => { l with displays := l.displays.set d true }
  | .mover => { l with mover := true }

def LockSet.remove (l : LockSet) : Holder → LockSet
  | .display d => { l with displays := l.displays.set d false }
  | .mover => { l with mover := false }

/-! ## One slot -/

/-- The slot becomes EMPTY: its discard mark is cleared, its other fields keep their last values (R24). -/
def Slot.toEmpty (t : Slot) : Slot := { t with state := .empty, discard := false }

/-- A holder leaves a slot; a slot left unlocked becomes EMPTY if it carries the discard mark (R33). -/
def Slot.release (t : Slot) (h : Holder) : Slot :=
  if t.locks.mem h then
    let t1 := { t with locks := t.locks.remove h }
    if t1.locks.isEmpty && t1.discard then t1.toEmpty else t1
  else t

/-- What a park or restart of the port does to a slot (R34). -/
def Slot.withdraw (t : Slot) : Slot :=
  match t.state with
  | .empty => t
  | .filling => t.toEmpty
  | .ready => if t.locks.isEmpty then t.toEmpty else { t with discard := true }

/-! ## The slots of one port -/

/-- The newest READY slot: the newest end of the ready order (R29). -/
def StorePort.newest (q : StorePort) : Option SlotId := q.order.getLast?

/-- The slot chosen for a FRAME OPEN: the lowest EMPTY unlocked slot, or else the oldest unlocked READY one (R26). -/
def StorePort.choose (q : StorePort) : Option SlotId :=
  match (List.finRange 6).find? (fun i => decide (q.slots[i].state = .empty) && q.slots[i].locks.isEmpty) with
  | some i => some i
  | none => q.order.find? fun i => decide (q.slots[i].state = .ready) && q.slots[i].locks.isEmpty

/-- The chosen slot becomes FILLING and leaves the ready order (R26). -/
def StorePort.fill (q : StorePort) (i : SlotId) (count : Half) (stamp : Stamp) (width height : Nat) : StorePort :=
  { slots := q.slots.set i { q.slots[i] with state := .filling, count, stamp, width, height, discard := false }
    order := q.order.filter (· ≠ i) }

/-- A good frame: the slot becomes READY at the newest end of the ready order (R28). -/
def StorePort.complete (q : StorePort) (i : SlotId) : StorePort :=
  { slots := q.slots.set i { q.slots[i] with state := .ready }, order := q.order ++ [i] }

/-- A frame that is not good, aborted or discarded: the slot goes from FILLING to EMPTY (R28). -/
def StorePort.drop (q : StorePort) (i : SlotId) : StorePort := { q with slots := q.slots.set i q.slots[i].toEmpty }

/-- A holder joins the lock set of a slot (R30). -/
def StorePort.lock (q : StorePort) (i : SlotId) (h : Holder) : StorePort :=
  { q with slots := q.slots.set i { q.slots[i] with locks := q.slots[i].locks.add h } }

/-- A holder leaves the lock set of every slot of the port (R31, R33). -/
def StorePort.release (q : StorePort) (h : Holder) : StorePort :=
  { q with slots := Vector.ofFn fun i => (q.slots[i]).release h }

/-- PARK CAMERA, RESTART of the port or entry to stabling: every slot is withdrawn and the ready order is empty (R34). -/
def StorePort.withdraw (q : StorePort) : StorePort :=
  { slots := Vector.ofFn fun i => (q.slots[i]).withdraw, order := [] }

/-! ## The whole store -/

/-- A holder leaves the lock set of every slot that holds it, all in one event (R31, R32). -/
def releaseHolder (h : Holder) (s : State) : State := { s with store := Vector.ofFn fun p => (s.store[p]).release h }

end Sys2Proof.Machine
end

