-- ==== Sys2Proof/Machine/SoilMonitor.lean ====
section
/-! DEFINITION. The Soil Monitor (chapter 3): the cell grid, due frames, accumulation, the evaluation queue and its service,
learning, the discard of a reference. -/

namespace Sys2Proof.Machine

/-! ## Soil state (R55, R56) -/

/-- The informative count I (R50). -/
def Soil.informativeCount (m : Soil) : Nat := (List.finRange 48).countP fun i => m.informative[i]

/-- The number of cells that are both informative and blocked (R55). -/
def Soil.blockedCount (m : Soil) : Nat := (List.finRange 48).countP fun i => m.informative[i] && m.blocked[i]

/-- The soil state a score gives (R56). -/
def SoilLimits.derive (limits : SoilLimits) (score : Nat) : SoilState :=
  if score < limits.warn then .clean else if score < limits.blind then .smeared else .blinded

/-- A state that carries a score: CLEAN, SMEARED or BLINDED (R57). -/
def SoilState.rated : SoilState → Bool
  | .unlearned => false
  | .learning => false
  | .clean => true
  | .smeared => true
  | .blinded => true

/-- The informative map counted afresh: the cells whose reference is at least the minimum reference (R62, R65). -/
def informativeMap (reference : Vector Nat 48) (limits : SoilLimits) : Vector Bool 48 :=
  Vector.ofFn fun i => decide (limits.minReference ≤ reference[i])

/-- A reference is learned or set: the map is counted afresh, counters and flags are cleared, the score is 0 and the state is
CLEAN, or UNLEARNED where no cell is informative (R62, R65). -/
def Soil.adopt (m : Soil) (reference : Vector Nat 48) : Soil :=
  let m1 := { m with
    reference
    informative := informativeMap reference m.limits
    counters := Vector.replicate 48 0
    blocked := Vector.replicate 48 false
    suspended := false
    learning := none
    score := 0 }
  { m1 with state := if m1.informativeCount = 0 then .unlearned else .clean }

/-- The soil record of a camera takes a value: it is rewritten, and SOIL is raised where the state changed or `always`
(R58). -/
def updateSoil (p : PortId) (always : Bool) (m : Soil) (s : State) : State :=
  let s1 := mark (.soil p) (s.setSoil p m)
  if always || decide (m.state ≠ s.soil[p].state) then raise .soil s1 else s1

/-! ## Due frames (R41) and accumulation (R44) -/

/-- A frame opened now at the port is due (R41). -/
def isDue (s : State) (p : PortId) : Bool :=
  let m := s.soil[p]
  let n := s.ports[p].camera.interval
  decide (m.state = .learning) || m.oneShot || (decide (1 ≤ n) && decide (n - 1 ≤ m.intervalCount))

/-- The luma of a line in the sample order of R1: the second and fourth byte of each group (R44). -/
def lumas : List Byte → List Nat
  | _ :: y0 :: _ :: y1 :: rest => y0.toNat :: y1.toNat :: lumas rest
  | _ => []

/-- The difference of two numbers without sign. -/
def absDiff (a b : Nat) : Nat := if a ≤ b then b - a else a - b

/-- The sum of the differences between neighbours of a list (R44). -/
def gradient : List Nat → Nat
  | a :: b :: rest => absDiff b a + gradient (b :: rest)
  | _ => 0

/-- The accumulators after line `n` of a frame of `width` by `height` (R38, R44). -/
def accumulate (width height n : Nat) (line : List Byte) (sums : Vector CellSums 48) : Vector CellSums 48 :=
  let ys := lumas line
  let cw := width / 8
  let ch := height / 6
  Vector.ofFn fun i =>
    if i.val / 8 = n / ch then
      let cell := (ys.drop (i.val % 8 * cw)).take cw
      { g := sums[i].g + gradient cell, l := sums[i].l + cell.sum }
    else sums[i]

/-- All 48 accumulator pairs at 0 (R45). -/
def noSums : Vector CellSums 48 := Vector.replicate 48 {}

/-! ## The handover of a clean frame (R43, R46) -/

/-- A good frame has closed: a clean due frame hands its sums over or is skipped, a clean frame that was not due counts
towards the interval (R43, R46). The sums are those of the port before they are cleared. -/
def soilClose (p : PortId) (clean due : Bool) (stamp : Stamp) (sums : Vector CellSums 48) (s : State) : State :=
  let m := s.soil[p]
  let c := s.ports[p].camera
  if !clean then s
  else if !due then s.setSoil p { m with intervalCount := min (m.intervalCount + 1) 254 }
  else if s.evalQueue.length < 4 then
    { s.setSoil p { m with intervalCount := 0, oneShot := false } with
      evalQueue := s.evalQueue ++ [{ port := p, stamp, cellWidth := c.width / 8, cellHeight := c.height / 6, sums }] }
  else mark (.soil p) (s.setSoil p { m with skips := m.skips + 1 })

/-! ## Learning (R60, R62, R63) -/

/-- A learning in progress is abandoned: the saved state returns, derived again where it carries a score (R63). -/
def abandonLearning (p : PortId) (s : State) : State :=
  let m := s.soil[p]
  match m.learning with
  | none => s
  | some r =>
    updateSoil p true
      { m with
        learning := none
        abandoned := true
        state := if r.saved.rated then m.limits.derive m.score else r.saved } s

/-- Stage S1: the sharpness of a cell (R49). -/
def sharpness (e : EvalEntry) (i : Fin 48) : Nat :=
  min (e.sums[i].g * 16 / (e.cellHeight * (e.cellWidth - 1))) 4080

/-- Stage S2: the mean luma of a cell (R49). -/
def meanLuma (e : EvalEntry) (i : Fin 48) : Nat := e.sums[i].l / (e.cellHeight * e.cellWidth)

/-- A learn sample: each sharpness joins its learn sum, and the learning completes when k reaches K (R60, R62). -/
def learnSample (e : EvalEntry) (r : Learning) (s : State) : State :=
  let m := s.soil[e.port]
  let sums : Vector Nat 48 := Vector.ofFn fun i => r.sums[i] + sharpness e i
  if r.taken + 1 = r.target then
    mark (.reference e.port) (updateSoil e.port true (m.adopt (Vector.ofFn fun i => sums[i] / r.target)) s)
  else updateSoil e.port false { m with learning := some { r with taken := r.taken + 1, sums } } s

/-! ## Evaluation (R49 to R56) -/

/-- Stage S3: the cell is measurable in this frame (R50). -/
def measurable (m : Soil) (e : EvalEntry) (i : Fin 48) : Bool :=
  decide (m.limits.dark ≤ meanLuma e i) && decide (meanLuma e i ≤ m.limits.bright) && m.informative[i]

/-- Stage S5: the cell is dull (R52). -/
def dull (m : Soil) (e : EvalEntry) (i : Fin 48) : Bool :=
  decide (sharpness e i * 256 < m.reference[i] * m.limits.ratio)

/-- Stage S6: the counter of a cell after the frame (R53). -/
def nextCounter (m : Soil) (e : EvalEntry) (i : Fin 48) : Nat :=
  if measurable m e i then
    if dull m e i then min (m.counters[i] + 1) 63 else m.counters[i] - 1
  else m.counters[i]

/-- Stage S7: the blocked flag of a cell after the frame (R54). -/
def nextBlocked (m : Soil) (e : EvalEntry) (i : Fin 48) : Bool :=
  if measurable m e i then
    if m.limits.high ≤ nextCounter m e i then true
    else if nextCounter m e i ≤ m.limits.low then false
    else m.blocked[i]
  else m.blocked[i]

/-- The number of measurable cells of the frame (R50). -/
def measurableCount (m : Soil) (e : EvalEntry) : Nat := (List.finRange 48).countP fun i => measurable m e i

/-- Stages S4 to S7: an insufficient frame changes the SUSPENDED flag only (R51 to R54). -/
def applyFrame (m : Soil) (e : EvalEntry) : Soil :=
  if m.limits.minMeasurable ≤ measurableCount m e then
    { m with
      suspended := false
      counters := Vector.ofFn (nextCounter m e)
      blocked := Vector.ofFn (nextBlocked m e) }
  else { m with suspended := true }

/-- Stages S8 and S9: the score and the state it gives (R55, R56). -/
def rate (m : Soil) : Soil :=
  let score := 100 * m.blockedCount / m.informativeCount
  { m with score, state := m.limits.derive score }

/-- An entry is evaluated through stages S1 to S9. The soil record is rewritten where a flag, the score, the state or
SUSPENDED changed (R56, R58). -/
def evaluate (e : EvalEntry) (s : State) : State :=
  let m := s.soil[e.port]
  let m1 := rate (applyFrame m e)
  if m1.suspended = m.suspended ∧ m1.blocked = m.blocked ∧ m1.score = m.score ∧ m1.state = m.state then
    s.setSoil e.port m1
  else updateSoil e.port false m1 s

/-- The service of one entry, by the soil state as it stands (R47). -/
def serveEntry (e : EvalEntry) (s : State) : State :=
  let m := s.soil[e.port]
  if m.state.rated then evaluate e s
  else match m.state, m.learning with
    | .learning, some r => learnSample e r s
    | _, _ => s

/-! ## The discard of a reference (R66) -/

/-- A DEFINE CAMERA of another size, or of an UNDEFINED port, discards the reference (R66). -/
def discardReference (p : PortId) (s : State) : State :=
  let m := s.soil[p]
  mark (.reference p) (updateSoil p false
    { m with
      reference := Vector.replicate 48 0
      informative := Vector.replicate 48 false
      counters := Vector.replicate 48 0
      blocked := Vector.replicate 48 false
      suspended := false
      learning := none
      score := 0
      state := .unlearned } s)

/-! ## The commands -/

/-- EVALUATION_SERVICE: the oldest entry leaves the queue and is served; an empty queue has nothing to serve (R47). -/
def execEvaluationService (s : State) : Host.Outcome State Fault Refusal :=
  match s.evalQueue with
  | [] => .next s
  | e :: rest => .next (finishEvent (serveEntry e { s with evalQueue := rest }))

end Sys2Proof.Machine
end

