-- ==== Sys2Proof/Machine/Capture.lean ====
section
/-! DEFINITION. Camera ports (chapter 1): the packets of the camera link, the silence timer, and what a park and a RESTART do to
a port. -/

namespace Sys2Proof.Machine

/-! ## Reports of a port (R7) -/

/-- The CAMERA notice is raised and the camera record rewritten (R7). -/
def announceCamera (p : PortId) (s : State) : State := raise .camera (mark (.camera p) s)

/-! ## The end of a frame without a picture -/

/-- The frame in progress is discarded: its slot becomes EMPTY, the record is removed and the sums are cleared; nothing is
counted (R5, R11, R21, R28). -/
def discardFrame (p : PortId) (s : State) : State :=
  let q := s.ports[p]
  match q.frame with
  | none => s.setPort p { q with sums := noSums }
  | some f => (s.setPort p { q with frame := none, sums := noSums }).setStore p (s.store[p].drop f.slot)

/-- A FRAME OPEN aborts a frame still in progress (R11). -/
def abortFrame (p : PortId) (s : State) : State :=
  match s.ports[p].frame with
  | none => s
  | some _ =>
    let s1 := discardFrame p s
    let q := s1.ports[p]
    mark (.camera p) (s1.setPort p { q with health := { q.health with aborted := q.health.aborted + 1 } })

/-! ## Parking (R5, R34, R43, R48) -/

/-- What a park, a RESTART of the port and entry to stabling have in common: the frame in progress is discarded, the timer
stops, the sums are cleared, the slots are withdrawn, the port's queue entries leave and the interval count is 0. -/
def stopPort (p : PortId) (s : State) : State :=
  let s1 := discardFrame p s
  let s2 := (s1.setPort p { s1.ports[p] with silence := none }).setStore p s1.store[p].withdraw
  { s2.setSoil p { s2.soil[p] with intervalCount := 0 } with
    evalQueue := s2.evalQueue.filter fun e => decide (e.port ≠ p) }

/-- A port that is not PARKED is parked (R5): any learning on it is abandoned. -/
def parkPort (p : PortId) (s : State) : State :=
  let s1 := stopPort p s
  announceCamera p (abandonLearning p (s1.setPort p { s1.ports[p] with state := .parked }))

/-- A PARKED port enters SEEKING with no frame in progress and its timer stopped (R6). -/
def seekPort (p : PortId) (s : State) : State :=
  announceCamera p (s.setPort p { s.ports[p] with state := .seeking, frame := none, silence := none })

/-- A RESTART of the port (R21). -/
def restartPort (p : PortId) (s : State) : State :=
  let s1 := stopPort p s
  let q := s1.ports[p]
  announceCamera p (s1.setPort p
    { q with
      health := {}
      state := if q.undefined then .parked else match s.mode with | .run => .seeking | .stabled => .parked })

/-! ## Lines (R14 to R16) -/

/-- The line expected next is stored at its place; a due frame adds its sums, and the next line is expected (R14, R44). -/
def storeLine (p : PortId) (f : FrameInProgress) (bytes : List Byte) (s : State) : State :=
  let q := s.ports[p]
  let c := q.camera
  { s.setPort p
      { q with
        frame := some { f with next := f.next + 1 }
        sums := if f.due then accumulate c.width c.height f.next bytes q.sums else q.sums } with
    frameMem := s.frameMem.write (lineBase p f.slot c.width f.next) bytes }

/-- The patch for the line expected next: mid-grey for line 0, else a copy of the line above (R14). -/
def patchBytes (p : PortId) (f : FrameInProgress) (s : State) : List Byte :=
  let w := s.ports[p].camera.width
  if f.next = 0 then List.replicate (2 * w) 128
  else s.frameMem.readBytes (lineBase p f.slot w (f.next - 1)) (2 * w)

/-- The line expected next is stored as a patch and counted (R14). -/
def patchLine (p : PortId) (s : State) : State :=
  match s.ports[p].frame with
  | none => s
  | some f =>
    let s1 := storeLine p { f with patched := f.patched + 1 } (patchBytes p f s) s
    let q := s1.ports[p]
    s1.setPort p { q with health := { q.health with patched := q.health.patched + 1 } }

/-- A number of lines are stored as patches, in ascending order (R15, R17). -/
def patchLines (p : PortId) (n : Nat) (s : State) : State := iterate (patchLine p) n s

/-- The payload of a LINE can be stored as it came: its length is 2W and its check is good (R2, R14). -/
def lineGood (width : Nat) (payload : List Byte) (check : Half) : Bool :=
  decide (payload.length = 2 * width) && decide (crc16 payload = check)

/-- A LINE taken while a frame is in progress (R14 to R16). -/
def takeLine (p : PortId) (f : FrameInProgress) (n : Nat) (payload : List Byte) (check : Half) (s : State) : State :=
  let q := s.ports[p]
  if q.camera.height ≤ n ∨ n < f.next then
    mark (.camera p) (s.setPort p { q with health := { q.health with disorder := q.health.disorder + 1 } })
  else
    let s1 := patchLines p (n - f.next) s
    match s1.ports[p].frame with
    | none => s1
    | some f1 => if lineGood q.camera.width payload check then storeLine p f1 payload s1 else patchLine p s1

/-! ## Close (R17 to R19) -/

/-- A frame that is not good at its close (R18). -/
def closeBad (p : PortId) (f : FrameInProgress) (s : State) : State :=
  let q := s.ports[p]
  mark (.camera p)
    ((s.setPort p { q with frame := none, sums := noSums, health := { q.health with bad := q.health.bad + 1 } }).setStore p
      (s.store[p].drop f.slot))

/-- A good frame at its close (R19). -/
def closeGood (p : PortId) (f : FrameInProgress) (s : State) : State :=
  let q := s.ports[p]
  let s1 := soilClose p (decide (f.patched = 0)) f.due s.store[p].slots[f.slot].stamp q.sums s
  let s2 := (s1.setPort p
      { q with
        frame := none
        sums := noSums
        silence := some s.clock
        state := .live
        health := { q.health with good := q.health.good + 1 } }).setStore p (s.store[p].complete f.slot)
  if q.state = .live then s2 else announceCamera p s2

/-- A FRAME CLOSE taken while a frame is in progress: the missing lines are patched, then the frame is good or not (R17). -/
def takeClose (p : PortId) (f : FrameInProgress) (count : Half) (s : State) : State :=
  let c := s.ports[p].camera
  let s1 := patchLines p (c.height - f.next) s
  match s1.ports[p].frame with
  | none => s1
  | some f1 => if count = f1.count ∧ f1.patched ≤ c.patchLimit then closeGood p f1 s1 else closeBad p f1 s1

/-! ## Open (R11 to R13) -/

/-- A FRAME OPEN with matching dimensions: the chosen slot is filled, the due flag decided, the sums cleared (R13, R26). -/
def openFrame (p : PortId) (count : Half) (s : State) : State :=
  let q := s.ports[p]
  match s.store[p].choose with
  | none => s
  | some i =>
    (s.setPort p
      { q with
        frame := some { count, slot := i, next := 0, patched := 0, due := isDue s p }
        sums := noSums }).setStore p (s.store[p].fill i count s.clock q.camera.width q.camera.height)

/-- A FRAME OPEN at a port that is not PARKED (R11, R12, R13). -/
def takeOpen (p : PortId) (count width height : Half) (s : State) : State :=
  let s1 := abortFrame p s
  let q := s1.ports[p]
  if width.toNat = q.camera.width ∧ height.toNat = q.camera.height then openFrame p count s1
  else mark (.camera p) (s1.setPort p { q with health := { q.health with mismatched := q.health.mismatched + 1 } })

/-! ## The commands -/

/-- FRAME_OPEN: a PARKED port discards the packet (R1), any other takes it (R11 to R13). -/
def execFrameOpen (p : PortId) (count width height : Half) (s : State) : Host.Outcome State Fault Refusal :=
  if s.ports[p].state = .parked then .next s else .next (finishEvent (takeOpen p count width height s))

/-- LINE: discarded at a PARKED port and while no frame is in progress (R1, R10), else taken (R14 to R16). -/
def execLine (p : PortId) (number : Half) (payload : List Byte) (check : Half) (s : State) :
    Host.Outcome State Fault Refusal :=
  if s.ports[p].state = .parked then .next s
  else match s.ports[p].frame with
    | none => .next s
    | some f =>
      if frameFits p f.slot s.ports[p].camera.width s.ports[p].camera.height then
        .next (finishEvent (takeLine p f number.toNat payload check s))
      else .fault .frameMemoryAddress

/-- FRAME_CLOSE: discarded at a PARKED port and while no frame is in progress (R1, R10), else taken (R17 to R19). -/
def execFrameClose (p : PortId) (count : Half) (s : State) : Host.Outcome State Fault Refusal :=
  if s.ports[p].state = .parked then .next s
  else match s.ports[p].frame with
    | none => .next s
    | some f =>
      if frameFits p f.slot s.ports[p].camera.width s.ports[p].camera.height then
        .next (finishEvent (takeClose p f count s))
      else .fault .frameMemoryAddress

/-- UNKNOWN_PACKET: a packet of no recognised kind is discarded in every port state, with no effect (R1). -/
def execUnknownPacket (_p : PortId) (s : State) : Host.Outcome State Fault Refusal := .next s

/-- The silence timer of a LIVE port has run for its timeout (R9). -/
def silenceExpired (s : State) (p : PortId) : Bool :=
  match s.ports[p].silence with
  | none => false
  | some t => decide (s.ports[p].state = .live) && decide (s.ports[p].camera.silence ≤ since s.clock t)

/-- The port goes LOST and a learning on its camera is abandoned (R9, R63). -/
def losePort (p : PortId) (s : State) : State :=
  let q := s.ports[p]
  announceCamera p (abandonLearning p
    (s.setPort p { q with state := .lost, silence := none, health := { q.health with losses := q.health.losses + 1 } }))

/-- SILENCE_TIMER_EXPIRY: the timer of a LIVE port that has run for its timeout expires (R9); no other timer does
(assumption 9). -/
def execSilenceTimerExpiry (p : PortId) (s : State) : Host.Outcome State Fault Refusal :=
  if silenceExpired s p then .next (finishEvent (losePort p s)) else .next s

end Sys2Proof.Machine
end

