-- ==== Sys2Proof/Machine/Doors.lean ====
section
/-! DEFINITION. Door lines, door records, calling sides, the override side statuses, the clear-view lines (chapters 6 and 7) and
the wake from STABLED (chapter 11). -/

namespace Sys2Proof.Machine

/-! ## Doors and sides -/

/-- The door is SHUT (R130). -/
def DoorState.isShut : DoorState → Bool
  | .shut => true
  | .opened => false
  | .viewing _ => false
  | .assured _ => false

/-- The door counts as clear: SHUT or ASSURED (R141). -/
def DoorState.isClear : DoorState → Bool
  | .shut => true
  | .opened => false
  | .viewing _ => false
  | .assured _ => true

/-- The door is on a cab-relative side under an active cab (R111). -/
def onSide (cab : AB) (side : CabSide) (d : DoorId) : Bool := decide (sideOf cab (doorSide d) = side)

/-- A side is calling: some door on it is not isolated and not SHUT (R116). -/
def sideCalls (s : State) (cab : AB) (side : CabSide) : Bool :=
  (List.finRange 8).any fun d => onSide cab side d && !s.doors[d].isolated && !s.doors[d].state.isShut

/-- The calling set (R116). -/
def callingSet (s : State) : Sides :=
  match s.cab with
  | none => {}
  | some cab => { left := sideCalls s cab .left, right := sideCalls s cab .right }

/-- A side's clear-view line: every non-isolated door on it is SHUT or ASSURED (R141). -/
def sideClear (s : State) (cab : AB) (side : CabSide) : Bool :=
  (List.finRange 8).all fun d => !onSide cab side d || s.doors[d].isolated || s.doors[d].state.isClear

/-- The levels R141 gives the two clear-view lines. DESIGN CHOICE: also at a wake by an isolated door, which leaves its side inactive
by R184, step 5, and does not count by R141 (assumption 31). -/
def clearLines (s : State) : Sides :=
  match s.mode, s.cab with
  | .run, some cab => { left := sideClear s cab .left, right := sideClear s cab .right }
  | _, _ => {}

/-- The clear-view lines are recomputed; a changed line raises CLEAR and has the part record rewritten (R141). -/
def recomputeLines (s : State) : State :=
  if clearLines s = s.clear then s
  else raise .clear (mark .part { s with clear := clearLines s })

/-! ## The override (R117 to R122) -/

/-- The override state of a display from its two side statuses (R117). -/
def Display.override (p : Display) : Override :=
  match p.left, p.right with
  | .idle, .idle => .none
  | .idle, _ => .right
  | _, .idle => .left
  | _, _ => .both

/-- An override display: configured, its door-screen flag set, of the active cab (R117). -/
def isOverrideDisplay (s : State) (d : DisplayId) : Bool :=
  s.displays[d].configured && s.displays[d].settings.doorScreen && decide (s.cab = some (cabOf d))

/-- A side starts or stops calling at an override display (R118, R119). -/
def SideStatus.step (was now : Bool) (clock : Stamp) (hold : Nat) (t : SideStatus) : SideStatus :=
  if was = now then t
  else if now then .called
  else match t with
    | .called => if hold = 0 then .idle else .held (stampAfter clock hold)
    | .idle => .idle
    | .held e => .held e

/-- The calling set is recomputed; where it differs from the set last handed, every override display handles each changed
side (R116, R118, R119). -/
def recomputeCalling (s : State) : State :=
  let now := callingSet s
  if now = s.calling then s
  else
    { s with
      calling := now
      displays := Vector.ofFn fun d =>
        let p := s.displays[d]
        if isOverrideDisplay s d then
          { p with
            left := p.left.step s.calling.left now.left s.clock p.settings.hold
            right := p.right.step s.calling.right now.right s.clock p.settings.hold }
        else p }

/-- The side statuses of one display recomputed without hold (R122). -/
def recomputedDisplay (s : State) (now : Sides) (d : DisplayId) : Display :=
  let p := s.displays[d]
  if isOverrideDisplay s d then
    { p with left := if now.left then .called else .idle, right := if now.right then .called else .idle }
  else { p with left := .idle, right := .idle }

/-- The override of every display is recomputed without hold, at a handover (R122). -/
def recomputeOverrides (s : State) : State :=
  let now := callingSet s
  { s with calling := now, displays := Vector.ofFn fun d => recomputedDisplay s now d }

/-! ## A change of doors (R142, R143) -/

/-- The fields of a door that its record carries (R143). -/
def Door.reported (d : Door) : Door := { d with raw := false, timer := none }

/-- One door's report of a change: its record is rewritten, and DOOR raised where its state changed (R143). -/
def reportDoor (before : Vector Door 8) (s : State) (d : DoorId) : State :=
  let s1 := if s.doors[d].reported = before[d].reported then s else mark (.door d) s
  if s.doors[d].state.code = before[d].state.code then s1 else raise .door s1

/-- The doors have changed in one event: the records and DOOR (R143), and the lines (R141). -/
def reportDoors (before : Vector Door 8) (s : State) : State := (List.finRange 8).foldl (reportDoor before) s

/-- The consequences of a change of doors, but at a handover: calling set, lines, records and notices (R142). -/
def doorsChanged (before : Vector Door 8) (s : State) : State :=
  reportDoors before (recomputeLines (recomputeCalling s))

/-- The door after its debounced level has become active (R133) or inactive (R137). -/
def Door.changeLevel (d : Door) (level : Bool) (clock : Stamp) : Door :=
  if level then { d with level := true, state := .opened, opened := some clock }
  else { d with level := false, state := .shut }

/-- A door's debounced level changes, in a part that is in RUN (R133, R137, R142). -/
def changeDoor (d : DoorId) (level : Bool) (s : State) : State :=
  doorsChanged s.doors (s.setDoor d (s.doors[d].changeLevel level s.clock))

/-! ## Wake (R184) -/

/-- A port of the wake record that is defined and PARKED enters SEEKING (R184, step 1). -/
def wakePort (s : State) (p : PortId) : State :=
  if s.wakeRecord[p] && !s.ports[p].undefined && decide (s.ports[p].state = .parked) then seekPort p s else s

/-- Steps 1 to 3 of a wake: the recorded ports, the mode, the cause (R184). -/
def leaveStabling (cause : WakeCause) (s : State) : State :=
  { (List.finRange 12).foldl wakePort s with
    wakeRecord := Vector.replicate 12 false
    mode := .run
    wakeCause := cause }

/-- The last step of a wake: WAKE is raised and the part record rewritten (R184, step 6). -/
def announceWake (s : State) : State := raise .wake (mark .part s)

/-- A wake by the WAKE attention or by RUN CHAIN; in RUN it is none (R184). -/
def wakePart (cause : WakeCause) (s : State) : State :=
  match s.mode with
  | .run => s
  | .stabled => announceWake (recomputeLines (leaveStabling cause s))

/-- A door's debounced level changes; in a STABLED part the change wakes it (R127, R133, R137, R184). DESIGN CHOICE: the lines then are
those of R141, also where the door is isolated (assumption 31). -/
def doorLevel (d : DoorId) (level : Bool) (s : State) : State :=
  match s.mode with
  | .run => changeDoor d level s
  | .stabled => announceWake (changeDoor d level (leaveStabling (.door d) s))

/-! ## The commands -/

/-- DOOR_LINE_EDGE: a level that differs from the debounced one starts the timer, or with a debounce time of 0 is handed at
once; a level that equals it stops the timer (R126, R127). A command that repeats the raw level is no edge (assumption 9). -/
def execDoorLineEdge (d : DoorId) (level : Bool) (s : State) : Host.Outcome State Fault Refusal :=
  let r := s.doors[d]
  if level = r.raw then .next s
  else if level = r.level then .next (s.setDoor d { r with raw := level, timer := none })
  else if s.debounce = 0 then
    .next (finishEvent (doorLevel d level (s.setDoor d { r with raw := level, timer := none })))
  else .next (s.setDoor d { r with raw := level, timer := some (stampAfter s.clock s.debounce) })

/-- DEBOUNCE_EXPIRY: a running timer whose stamp the clock has reached stops, and the debounced level takes the raw level
(R127). -/
def execDebounceExpiry (d : DoorId) (s : State) : Host.Outcome State Fault Refusal :=
  let r := s.doors[d]
  match r.timer with
  | none => .next s
  | some e =>
    if reached s.clock e then
      let s1 := s.setDoor d { r with timer := none }
      if r.raw = r.level then .next s1 else .next (finishEvent (doorLevel d r.raw s1))
    else .next s

/-- A hold of one side expires where its stamp is reached (R120). -/
def SideStatus.expire (clock : Stamp) : SideStatus → SideStatus
  | .idle => .idle
  | .called => .called
  | .held e => if reached clock e then .idle else .held e

/-- HOLD_EXPIRY: a HELD side whose expiry stamp the clock has reached becomes IDLE (R120). -/
def execHoldExpiry (d : DisplayId) (side : CabSide) (s : State) : Host.Outcome State Fault Refusal :=
  let p := s.displays[d]
  match side with
  | .left => .next (s.setDisplay d { p with left := p.left.expire s.clock })
  | .right => .next (s.setDisplay d { p with right := p.right.expire s.clock })

end Sys2Proof.Machine
end

