-- ==== Sys2Proof/Machine/Operands.lean ====
section
/-! DEFINITION. The operands of a control block: its header (section 12.2), the bodies of the kinds (section 12.3), the tile
record (section 12.4), and the range checks that read nothing but the block. -/

namespace Sys2Proof.Machine

/-! ## Kinds and reasons (section 12.2) -/

/-- The sixteen block kinds. -/
inductive Kind
  | defineCamera
  | parkCamera
  | unparkCamera
  | loadLayout
  | clearLayout
  | selectLayout
  | setDisplay
  | setCab
  | learnReference
  | setReference
  | measureOnce
  | setSoilLimits
  | setDoorPolicy
  | enterStabling
  | exportFrame
  | exportScreen
deriving DecidableEq, Repr

/-- The kind value in a block header. -/
def Kind.code : Kind → Nat
  | .defineCamera => 1
  | .parkCamera => 2
  | .unparkCamera => 3
  | .loadLayout => 4
  | .clearLayout => 5
  | .selectLayout => 6
  | .setDisplay => 7
  | .setCab => 8
  | .learnReference => 9
  | .setReference => 10
  | .measureOnce => 11
  | .setSoilLimits => 12
  | .setDoorPolicy => 13
  | .enterStabling => 14
  | .exportFrame => 15
  | .exportScreen => 16

/-- A kind value belongs to a lane: 1 to 14 to lane 0, 15 and 16 to lane 1 (section 9.4). -/
def kindOfLane (l : LaneId) (kind : Nat) : Bool :=
  if l = 0 then decide (1 ≤ kind) && decide (kind ≤ 14) else decide (15 ≤ kind) && decide (kind ≤ 16)

/-- The reason codes of a FAILED block (R167). -/
inductive Reason
  | badKind
  | badTarget
  | badValue
  | notAllowedNow
  | notPending
  | chainTooLong
  | aborted
  | noFrame
  | roomShort
  | displayDark
  | displayStopped
  | hostWrite
deriving DecidableEq, Repr

/-- The reason byte of a block header (section 12.2). -/
def Reason.code : Reason → Nat
  | .badKind => 1
  | .badTarget => 2
  | .badValue => 3
  | .notAllowedNow => 4
  | .notPending => 5
  | .chainTooLong => 6
  | .aborted => 7
  | .noFrame => 8
  | .roomShort => 9
  | .displayDark => 10
  | .displayStopped => 11
  | .hostWrite => 12

/-- How a block ends (R167): DONE, FAILED with a reason and a detail, or SKIPPED. -/
inductive Ending
  | done
  | failed (reason : Reason) (detail : Nat)
  | skipped
deriving DecidableEq, Repr

/-- A body-length failure (R186). -/
def badLength : Ending := .failed .badValue 255

/-- The status byte of an ending (section 12.2). -/
def Ending.status : Ending → Nat
  | .done => 2
  | .failed _ _ => 3
  | .skipped => 4

/-- The reason byte of an ending: NONE with DONE and SKIPPED (R167). -/
def Ending.reason : Ending → Nat
  | .done => 0
  | .failed r _ => r.code
  | .skipped => 0

/-- The reason detail of an ending (R167). -/
def Ending.detail : Ending → Nat
  | .done => 0
  | .failed _ d => d
  | .skipped => 0

/-! ## The header (section 12.2) -/

/-- The fields of a block header that a lane reads. -/
structure Header where
  status : Nat
  kind : Nat
  notify : Bool
  haltOnFail : Bool
  target : Nat
  bodyLength : Nat
  next : Word
deriving DecidableEq, Repr

/-- The header in 32 bytes (section 12.2); flag bits 7:2 are ignored (R186). -/
def headerOf (bs : List Byte) : Header :=
  { status := field bs 0 1
    kind := field bs 3 1
    notify := (field bs 4 1).testBit 0
    haltOnFail := (field bs 4 1).testBit 1
    target := field bs 5 1
    bodyLength := field bs 6 2
    next := BitVec.ofNat 32 (field bs 8 4) }

/-- A block in hand from its header and body. -/
def Header.inHand (h : Header) (body : List Byte) : InHand :=
  { kind := h.kind, notify := h.notify, haltOnFail := h.haltOnFail, target := h.target, next := h.next, body }

/-! ## Targets -/

/-- The target as a port, where it is one (0 to 11). -/
def portOf (target : Nat) : Option PortId := if h : target < 12 then some ⟨target, h⟩ else none

/-- The target as a display, where it is one (0 to 3). -/
def displayOf (target : Nat) : Option DisplayId := if h : target < 4 then some ⟨target, h⟩ else none

/-- A layout slot number, where it is one (0 to 15). -/
def layoutOf (target : Nat) : Option LayoutId := if h : target < 16 then some ⟨target, h⟩ else none

/-- A presence bit of a body's mask (section 12.3). -/
def given (mask bit : Nat) : Bool := mask.testBit bit

/-- A setting given by a body, or the value kept where it is absent. -/
def orKept {α : Type} (present : Bool) (new kept : α) : α := if present then new else kept

/-! ## DEFINE CAMERA (R3) -/

def roleOf : Nat → Option Role
  | 0 => some .door
  | 1 => some .endCamera
  | 2 => some .flank
  | 3 => some .other
  | _ => none

/-- An end or a side: 0 absent, 1 A, 2 B; the outer `none` is out of range. -/
def abOf : Nat → Option (Option AB)
  | 0 => some none
  | 1 => some (some .a)
  | 2 => some (some .b)
  | _ => none

/-- The doors that two coverage entries name, each once, absent entries left out (R3; assumption 10). -/
def coverageOf (c1 c2 : Nat) : Option (List DoorId) :=
  if h : c1 ≤ 8 ∧ c2 ≤ 8 then
    let first : List DoorId := if h1 : c1 = 0 then [] else [⟨c1 - 1, by omega⟩]
    let second : List DoorId := if h2 : c2 = 0 ∨ c2 = c1 then [] else [⟨c2 - 1, by omega⟩]
    some (first ++ second)
  else none

/-- An END camera has an end, a FLANK camera an end and a side (R3). -/
def placed (role : Role) (tip side : Option AB) : Bool :=
  match role with
  | .endCamera => tip.isSome
  | .flank => tip.isSome && side.isSome
  | .door => true
  | .other => true

/-- The end a record keeps: END and FLANK cameras only (R3). -/
def keptTip (role : Role) (tip : Option AB) : Option AB :=
  match role with
  | .endCamera => tip
  | .flank => tip
  | .door => none
  | .other => none

/-- The side a record keeps: FLANK cameras only (R3). -/
def keptSide (role : Role) (side : Option AB) : Option AB :=
  match role with
  | .flank => side
  | .endCamera => none
  | .door => none
  | .other => none

/-- The camera record a DEFINE CAMERA body gives, `none` where a field is out of range (R3, R186). -/
def cameraOf (body : List Byte) : Option CameraRecord :=
  let mask := field body 5 1
  let width := field body 6 2
  let height := field body 8 2
  let silence := orKept (given mask 0) (field body 10 2) 200
  let patchLimit := orKept (given mask 1) (field body 12 1) 8
  let interval := orKept (given mask 2) (field body 13 1) 4
  match roleOf (field body 0 1), abOf (field body 1 1), abOf (field body 2 1), coverageOf (field body 3 1) (field body 4 1)
  with
  | some role, some tip, some side, some coverage =>
    if 320 ≤ width ∧ width ≤ 1280 ∧ width % 32 = 0 ∧ 240 ≤ height ∧ height ≤ 768 ∧ height % 24 = 0
        ∧ 50 ≤ silence ∧ silence ≤ 1000 ∧ patchLimit ≤ 64 ∧ placed role tip side then
      some { role, tip := keptTip role tip, side := keptSide role side, coverage, width, height,
             silence := silence * 1000, patchLimit, interval }
    else none
  | _, _, _, _ => none

/-! ## SET SOIL LIMITS (R39, R40) -/

/-- The limits with those a body gives put in; an absent limit keeps its value (R40). -/
def limitsOf (body : List Byte) (kept : SoilLimits) : SoilLimits :=
  let mask := field body 0 2
  { dark := orKept (given mask 0) (field body 2 1) kept.dark
    bright := orKept (given mask 1) (field body 3 1) kept.bright
    minReference := orKept (given mask 2) (field body 4 2) kept.minReference
    minMeasurable := orKept (given mask 3) (field body 6 1) kept.minMeasurable
    ratio := orKept (given mask 4) (field body 7 1) kept.ratio
    low := orKept (given mask 5) (field body 8 1) kept.low
    high := orKept (given mask 6) (field body 9 1) kept.high
    warn := orKept (given mask 7) (field body 10 1) kept.warn
    blind := orKept (given mask 8) (field body 11 1) kept.blind }

/-- A set of limits is consistent: each in its range, dark no greater than bright, low below high, warn below blind
(R39). -/
def SoilLimits.consistent (l : SoilLimits) : Bool :=
  decide (l.dark ≤ 255 ∧ l.bright ≤ 255 ∧ l.minReference ≤ 4080 ∧ 1 ≤ l.minMeasurable ∧ l.minMeasurable ≤ 48
    ∧ 1 ≤ l.ratio ∧ l.ratio ≤ 255 ∧ l.low ≤ 63 ∧ l.high ≤ 63 ∧ 1 ≤ l.warn ∧ l.warn ≤ 100 ∧ 1 ≤ l.blind ∧ l.blind ≤ 100
    ∧ l.dark ≤ l.bright ∧ l.low < l.high ∧ l.warn < l.blind)

/-! ## SET REFERENCE (R64) -/

/-- The 48 values of a body, each clamped to 4080 (R64). -/
def referenceOf (body : List Byte) : Vector Nat 48 := Vector.ofFn fun i => min (field body (2 * i.val) 2) 4080

/-! ## SET DISPLAY (R89) -/

/-- A door layout: a slot 0 to 15 or 255 for none; the outer `none` is out of range (R186). -/
def doorLayoutOf (n : Nat) : Option (Option LayoutId) :=
  if n = 255 then some none else (layoutOf n).map some

/-- A door layout setting of a body, or the kept one; the outer `none` is out of range. -/
def doorLayoutGiven (present : Bool) (n : Nat) (kept : Option LayoutId) : Option (Option LayoutId) :=
  if present then doorLayoutOf n else some kept

/-- The settings given by a body lie in their ranges (R89, check 2), but for the door layouts. -/
def displayRanges (body : List Byte) : Bool :=
  let mask := field body 0 2
  let width := field body 2 2
  let height := field body 4 2
  let period := field body 8 4
  let n := field body 18 1
  let d := field body 19 1
  let minWidth := field body 20 2
  let minHeight := field body 22 2
  (!given mask 0 || decide (640 ≤ width ∧ width ≤ 1920 ∧ width % 16 = 0))
    && (!given mask 1 || decide (480 ≤ height ∧ height ≤ 1200))
    && (!given mask 2 || decide (12000 ≤ period ∧ period ≤ 40000))
    && (!given mask 3 || decide (field body 12 1 ≤ 1))
    && (!given mask 7 || decide (field body 16 2 ≤ 10000))
    && (!given mask 8 || decide (2 ≤ n ∧ n ≤ 6))
    && (!given mask 9 || decide (1 ≤ d ∧ d ≤ 63))
    && (!given mask 10 || decide (16 ≤ minWidth ∧ minWidth ≤ 1920 ∧ 16 ≤ minHeight ∧ minHeight ≤ 1200))

/-- The settings a SET DISPLAY body gives over the kept ones, `none` where one is out of range (R89, checks 2 and 4). -/
def settingsOf (body : List Byte) (kept : DisplaySettings) : Option DisplaySettings :=
  let mask := field body 0 2
  match doorLayoutGiven (given mask 4) (field body 13 1) kept.doorLeft,
    doorLayoutGiven (given mask 5) (field body 14 1) kept.doorRight,
    doorLayoutGiven (given mask 6) (field body 15 1) kept.doorBoth with
  | some doorLeft, some doorRight, some doorBoth =>
    let new : DisplaySettings :=
      { width := orKept (given mask 0) (field body 2 2) kept.width
        height := orKept (given mask 1) (field body 4 2) kept.height
        period := orKept (given mask 2) (field body 8 4) kept.period
        doorScreen := orKept (given mask 3) (decide (field body 12 1 = 1)) kept.doorScreen
        doorLeft, doorRight, doorBoth
        hold := orKept (given mask 7) (field body 16 2 * 1000) kept.hold
        blinkN := orKept (given mask 8) (field body 18 1) kept.blinkN
        blinkD := orKept (given mask 9) (field body 19 1) kept.blinkD
        minWidth := orKept (given mask 10) (field body 20 2) kept.minWidth
        minHeight := orKept (given mask 10) (field body 22 2) kept.minHeight }
    if displayRanges body && decide (new.blinkD ≤ 2 ^ new.blinkN - 1) then some new else none
  | _, _, _ => none

/-- A body gives the width, the height and the frame period (R89, check 3). -/
def givesFrame (body : List Byte) : Bool :=
  let mask := field body 0 2
  given mask 0 && given mask 1 && given mask 2

/-! ## SET CAB (R113) -/

/-- The cab a SET CAB body names; the outer `none` is out of range. -/
def cabOperand (body : List Byte) : Option (Option AB) := abOf (field body 0 1)

/-! ## SET DOOR POLICY (R128) -/

/-- The debounce time and every dwell that a body gives lie in their ranges (R128). -/
def policyRanges (body : List Byte) : Bool :=
  let mask := field body 0 4
  (!given mask 0 || decide (field body 4 1 ≤ 250))
    && (List.finRange 8).all fun d =>
      !given mask (9 + d.val) || decide (200 ≤ field body (8 + 2 * d.val) 2 ∧ field body (8 + 2 * d.val) 2 ≤ 5000)

/-- The debounce time a policy leaves, in microseconds. -/
def policyDebounce (body : List Byte) (kept : Nat) : Nat :=
  orKept (given (field body 0 4) 0) (field body 4 1 * 1000) kept

/-- The isolated flag a policy leaves a door. -/
def policyIsolated (body : List Byte) (d : DoorId) (kept : Bool) : Bool :=
  orKept (given (field body 0 4) (1 + d.val)) ((field body 5 1).testBit d.val) kept

/-- The dwell a policy leaves a door, in microseconds. -/
def policyDwell (body : List Byte) (d : DoorId) (kept : Nat) : Nat :=
  orKept (given (field body 0 4) (9 + d.val)) (field body (8 + 2 * d.val) 2 * 1000) kept

/-! ## Exports (R146) -/

/-- The operands of an export body. -/
def exportOperands (body : List Byte) : ExportOperands :=
  { dest := field body 0 8, stride := field body 8 4, room := field body 12 4 }

/-- The operand checks of R146, check 2. -/
def ExportOperands.valid (o : ExportOperands) : Bool :=
  decide (o.dest % 4 = 0 ∧ o.stride ≠ 0 ∧ o.stride % 4 = 0 ∧ o.dest + o.room ≤ 2 ^ 64)

/-! ## The tile record (section 12.4) -/

/-- A source code: ports 0 to 11, symbols 16 to 19. -/
def sourceOf (n : Nat) : Option Source :=
  if n = 16 then some (.symbol .front)
  else if n = 17 then some (.symbol .rear)
  else if n = 18 then some (.symbol .leftFlank)
  else if n = 19 then some (.symbol .rightFlank)
  else (portOf n).map .port

/-- An alternate source code: as for the primary, or 255 for absent; the outer `none` is out of range. -/
def alternateOf (n : Nat) : Option (Option Source) := if n = 255 then some none else (sourceOf n).map some

/-- A rectangle of eight bytes at an offset. -/
def rectOf (bs : List Byte) (off : Nat) : Rect :=
  { x := field bs off 2, y := field bs (off + 2) 2, w := field bs (off + 4) 2, h := field bs (off + 6) 2 }

/-- The destination rect lies on the canvas and is at least 16 by 16 (R70). -/
def Rect.onCanvas (r : Rect) : Bool := decide (16 ≤ r.w ∧ 16 ≤ r.h ∧ r.x + r.w ≤ 1920 ∧ r.y + r.h ≤ 1200)

/-- The scale ratio check of a source rect against a destination rect (R73). -/
def scaleOk (src dest : Rect) : Bool :=
  decide (dest.w ≤ 4 * src.w ∧ src.w ≤ 4 * dest.w ∧ dest.h ≤ 4 * src.h ∧ src.h ≤ 4 * dest.h)

/-- A source rect lies in the largest camera frame, is not empty and passes the scale ratio check (R70, R73). -/
def sourceRectOk (src dest : Rect) : Bool :=
  decide (1 ≤ src.w ∧ 1 ≤ src.h ∧ src.x + src.w ≤ 1280 ∧ src.y + src.h ≤ 768) && scaleOk src dest

/-- The maximum age field: 0 absent for 100 ms, else 20 to 2000 ms; in microseconds (R70, R74). -/
def maxAgeOf (ms : Nat) : Option Nat :=
  if ms = 0 then some 100000 else if 20 ≤ ms ∧ ms ≤ 2000 then some (ms * 1000) else none

/-- The tile that 32 bytes give, `none` where it breaks a range or condition of R70 to R74. -/
def tileOf (bs : List Byte) : Option Tile :=
  let dest := rectOf bs 0
  let primaryRect := rectOf bs 8
  let alternateRect := rectOf bs 16
  let b := field bs 26 1
  match sourceOf (field bs 24 1), alternateOf (field bs 25 1), maxAgeOf (field bs 30 2) with
  | some primary, some alternate, some maxAge =>
    if dest.onCanvas && sourceRectOk primaryRect dest
        && (alternate.isNone || sourceRectOk alternateRect dest)
        && decide (alternate ≠ some primary) && decide (b % 16 ≤ 8) then
      some
        { dest, primary, primaryRect, alternate, alternateRect
          mirror := b.testBit 7
          border := b % 16
          colour := { r := BitVec.ofNat 8 (field bs 27 1), g := BitVec.ofNat 8 (field bs 28 1),
                      b := BitVec.ofNat 8 (field bs 29 1) }
          maxAge }
    else none
  | _, _, _ => none

/-- The tiles of a body, in order: the list, or the index of the first tile that breaks a rule (R75). -/
def tilesFrom (body : List Byte) (i : Nat) : Nat → Except Nat (List Tile)
  | 0 => .ok []
  | n + 1 =>
    match tileOf ((body.drop (32 * i)).take 32) with
    | none => .error i
    | some t =>
      match tilesFrom body (i + 1) n with
      | .error j => .error j
      | .ok ts => .ok (t :: ts)

/-- The length of a LOAD LAYOUT body is 32 to 256 and a multiple of 32 (R75). -/
def layoutLengthOk (n : Nat) : Bool := decide (n ≠ 0 ∧ n ≤ 256 ∧ n % 32 = 0)

end Sys2Proof.Machine
end

