-- ==== Sys2Proof/Machine/Lanes.lean ====
section
/-! DEFINITION. The command lanes (chapter 9): endings, the walk along a chain, halts and stops, lane faults, and the end of an
export block of lane 1. -/

namespace Sys2Proof.Machine

/-! ## The lane's own state (R166) -/

/-- A lane takes a value, and its record is to be rewritten where its contents change (R166). -/
def updateLane (l : LaneId) (v : Lane) (s : State) : State :=
  if v.contents = (s.lanes[l]).contents then s.setLane l v else mark (.lane l) (s.setLane l v)

/-- An IDLE lane with a queued head takes up the oldest one at once (R166). -/
def takeUp (l : LaneId) (s : State) : State :=
  let v := s.lanes[l]
  match v.state, v.queue with
  | .idle, h :: rest =>
    updateLane l { v with queue := rest, state := .running { head := h, block := h, position := 0, phase := .reach } } s
  | _, _ => s

/-- The lane stops at a halt (R163, step 3; R164): IDLE, its counters cleared by a RESTART, LANE_HALTED where it is raised. -/
def stopLane (l : LaneId) (h : Halt) (s : State) : State :=
  let v := s.lanes[l]
  let v1 := { v with state := .idle, halting := none }
  let v2 := if h.zero then { v1 with done := 0, failed := 0, skipped := 0 } else v1
  let s1 := updateLane l v2 s
  takeUp l (if h.announce then raise .laneHalted s1 else s1)

/-- The lane leaves its chain: a pending halt stops it, or else it becomes IDLE and takes up its next head (R163, R169). -/
def leaveChain (l : LaneId) (s : State) : State :=
  match s.lanes[l].halting with
  | some h => stopLane l h s
  | none => takeUp l (updateLane l { s.lanes[l] with state := .idle } s)

/-- A lane fault: the fault record, FAULT, the lane FAULTED with its chain dropped; a pending halt finds it so (R163,
R170). -/
def laneFault (l : LaneId) (cause : FaultCause) (offset : Word) (s : State) : State :=
  let s1 := recordFault cause (some l) offset.toNat s
  let s2 := updateLane l { s1.lanes[l] with state := .faulted } s1
  match s2.lanes[l].halting with
  | some h => stopLane l h s2
  | none => s2

/-! ## The ending of a block (R167) -/

/-- The host address of a byte of a block (section 2.5; assumption 14). -/
def blockAddress (s : State) (block : Word) (off : Nat) : Nat := areaBase s + block.toNat + off

/-- The writes of an ending: reason, reason detail and completion stamp first, the status last (R167). -/
def endingWrites (s : State) (block : Word) (e : Ending) : List (Nat × List Byte) :=
  [(blockAddress s block 1, [byte e.reason]), (blockAddress s block 2, [byte e.detail]),
   (blockAddress s block 12, leBytes 4 s.clock.toNat), (blockAddress s block 0, [byte e.status])]

/-- An ending is written, the final status last; where a write fails the block holds no final status (R167, R170). -/
def writeEnding (s : State) (block : Word) (e : Ending) : Bus × Bool := s.bus.writeSealed (endingWrites s block e)

/-- The notice of a lane for a block with NOTIFY (R168). -/
def doneNotice (l : LaneId) : Notice := if l = 0 then .lane0Done else .lane1Done

/-- The lane's counters after a block has ended (R166). -/
def Lane.count (v : Lane) : Ending → Lane
  | .done => { v with done := v.done + 1 }
  | .failed _ _ => { v with failed := v.failed + 1 }
  | .skipped => { v with skipped := v.skipped + 1 }

/-- A block has reached its final status: the counters and the notice (R168). -/
def countEnding (l : LaneId) (notify : Bool) (e : Ending) (s : State) : State :=
  let s1 := updateLane l (s.lanes[l].count e) s
  if notify then raise (doneNotice l) s1 else s1

/-- A RUNNING lane goes on to a phase of its chain. -/
def setChain (l : LaneId) (c : Chain) (s : State) : State := updateLane l { s.lanes[l] with state := .running c } s

/-- Where the lane goes after a block has ended (R169): a pending halt stops it; CHAIN_TOO_LONG and a next field of 0 end
the chain; a failure with HALT_ON_FAIL begins the skip walk; else the next block is reached. -/
def advance (l : LaneId) (c : Chain) (haltOnFail : Bool) (next : Word) (e : Ending) (s : State) : State :=
  match s.lanes[l].halting with
  | some h => stopLane l h s
  | none =>
    match e with
    | .failed .chainTooLong _ => leaveChain l s
    | .failed _ _ =>
      if next = 0 then leaveChain l s
      else setChain l { c with block := next, phase := if haltOnFail then .skip else .reach } s
    | .done => if next = 0 then leaveChain l s else setChain l { c with block := next, phase := .reach } s
    | .skipped => if next = 0 then leaveChain l s else setChain l { c with block := next, phase := .skip } s

/-- The lane ends the block it is at: the ending is written, counted and notified, and the lane goes on; a failed write is
a lane fault (R167, R169, R170). -/
def endBlock (l : LaneId) (c : Chain) (notify haltOnFail : Bool) (next : Word) (e : Ending) (s : State) : State :=
  match writeEnding s c.block e with
  | (bus, true) => advance l c haltOnFail next e (countEnding l notify e (s.setBus bus))
  | (bus, false) => laneFault l .hostWrite c.block (s.setBus bus)

/-! ## The walk (R168, R169) -/

/-- The chain in hand of a lane in a phase of the walk. -/
def chainIn (s : State) (l : LaneId) (phase : LanePhase) : Option Chain :=
  match s.lanes[l].state with
  | .running c => if c.phase = phase then some c else none
  | .idle => none
  | .faulted => none

/-- The block in hand of a lane, with its chain, once the lane has written it TAKEN. -/
def inHand (s : State) (l : LaneId) : Option (Chain × InHand) :=
  match s.lanes[l].state with
  | .running c =>
    match c.phase with
    | .taken b => some (c, b)
    | .reach => none
    | .skip => none
  | .idle => none
  | .faulted => none

/-- Placement: a multiple of 32, no less than 8,192, the header within the area (R168, step 1). -/
def placedWell (s : State) (block : Word) : Bool :=
  decide (block.toNat % 32 = 0 ∧ 8192 ≤ block.toNat ∧ block.toNat + 32 ≤ areaBytes s)

/-- Steps 1 and 2 of R168: the placement is checked, the header read and the chain position increased, and then `rest` is
done with the chain and the header; a failure of either step is a lane fault. -/
def reachBlock (l : LaneId) (c : Chain) (rest : Chain → Header → State → State) (s : State) : State :=
  if placedWell s c.block then
    match s.bus.read (blockAddress s c.block 0) 32 with
    | (bus, none) => laneFault l .areaRead c.block (s.setBus bus)
    | (bus, some bs) =>
      let c1 := { c with position := c.position + 1 }
      rest c1 (headerOf bs) (setChain l c1 (s.setBus bus))
  else laneFault l .placement c.block s

/-- The body of a block is read; an empty body needs no read (R168, step 6; assumption 4). -/
def readBody (s : State) (block : Word) (n : Nat) : Bus × Option (List Byte) :=
  if n = 0 then (s.bus, some []) else s.bus.read (blockAddress s block 32) n

/-- Steps 6 and 7 of R168: the body is read and TAKEN written. -/
def takeBlock (l : LaneId) (c : Chain) (h : Header) (s : State) : State :=
  match readBody s c.block h.bodyLength with
  | (bus, none) => laneFault l .areaRead c.block (s.setBus bus)
  | (bus, some body) =>
    match bus.write (blockAddress s c.block 0) [1] with
    | (bus1, true) => setChain l { c with phase := .taken (h.inHand body) } (s.setBus bus1)
    | (bus1, false) => laneFault l .hostWrite c.block (s.setBus bus1)

/-- Steps 3 to 7 of R168 for a block whose header has been read. -/
def examineBlock (l : LaneId) (c : Chain) (h : Header) (s : State) : State :=
  let fail (r : Reason) (detail : Nat) := endBlock l c h.notify h.haltOnFail h.next (.failed r detail) s
  if c.position = 257 then fail .chainTooLong 0
  else if h.status ≠ 0 then fail .notPending 0
  else if 288 < h.bodyLength then fail .badValue 255
  else if areaBytes s < c.block.toNat + 32 + h.bodyLength then laneFault l .placement c.block s
  else if kindOfLane l h.kind then takeBlock l c h s
  else fail .badKind 0

/-- A block reached in a skip walk: CHAIN_TOO_LONG at position 257, SKIPPED where PENDING, else left as it stands (R169). -/
def skipBlock (l : LaneId) (c : Chain) (h : Header) (s : State) : State :=
  if c.position = 257 then endBlock l c h.notify h.haltOnFail h.next (.failed .chainTooLong 0) s
  else if h.status = 0 then endBlock l c h.notify h.haltOnFail h.next .skipped s
  else advance l c h.haltOnFail h.next .skipped s

/-- HEADER_READ: a RUNNING lane that walks reaches a block and takes it through steps 1 to 7 of R168 (assumption 15). -/
def execHeaderRead (l : LaneId) (s : State) : Host.Outcome State Fault Refusal :=
  match chainIn s l .reach with
  | none => .next s
  | some c => .next (finishEvent (reachBlock l c (examineBlock l) s))

/-- SKIP_WALK: a RUNNING lane in a skip walk reaches a block (R169). -/
def execSkipWalk (l : LaneId) (s : State) : Host.Outcome State Fault Refusal :=
  match chainIn s l .skip with
  | none => .next s
  | some c => .next (finishEvent (reachBlock l c (skipBlock l) s))

/-! ## Lane 0 blocks (R168, step 8) -/

/-- Step 8 for a block of lane 0: the owning block's checks and action, then the ending, in one event. A command whose kind
is not the one in hand does not occur (assumption 9). -/
def lane0Block (kind : Kind) (act : InHand → State → State × Ending) (s : State) : Host.Outcome State Fault Refusal :=
  match inHand s 0 with
  | none => .next s
  | some (c, b) =>
    if b.kind = kind.code then
      match act b s with
      | (s1, e) => .next (finishEvent (endBlock 0 c b.notify b.haltOnFail b.next e s1))
    else .next s

/-! ## Export blocks of lane 1 (R145, R153) -/

/-- The Export Mover lets go: it leaves the lock set of its slot and the export record becomes IDLE (R32, R145). -/
def dropExport (s : State) : State := { releaseHolder .mover s with mover := .idle }

/-- The export block of lane 1 ends (R32, R145). -/
def endExport (e : Ending) (s : State) : State :=
  match inHand s 1 with
  | none => dropExport s
  | some (c, b) => endBlock 1 c b.notify b.haltOnFail b.next e (dropExport s)

/-- A host write error of an export: the fault record, the ending FAILED HOST_WRITE, lane 1 FAULTED (R153, R170). -/
def exportWriteError (s : State) : State :=
  match inHand s 1 with
  | none => dropExport s
  | some (c, b) =>
    let s1 := recordFault .hostWrite (some 1) c.block.toNat (dropExport s)
    let s2 := match writeEnding s1 c.block (.failed .hostWrite 0) with
      | (bus, true) => countEnding 1 b.notify (.failed .hostWrite 0) (s1.setBus bus)
      | (bus, false) => recordFault .hostWrite (some 1) c.block.toNat (s1.setBus bus)
    let s3 := updateLane 1 { s2.lanes[(1 : LaneId)] with state := .faulted } s2
    match s3.lanes[(1 : LaneId)].halting with
    | some h => stopLane 1 h s3
    | none => s3

/-! ## Halts (R163, R164, R154) -/

/-- A second halt before the safe point of the first is absorbed into it; a RESTART still clears the counters at the stop
(R163, R164; assumption 16). -/
def Halt.merge (first : Option Halt) (h : Halt) : Halt :=
  match first with
  | none => h
  | some f => { announce := f.announce, zero := f.zero || h.zero }

/-- The export has written its last row and has no row boundary ahead (R154). -/
def Export.allRows : Export → Bool
  | .idle => false
  | .moving _ _ _ _ height _ _ rows => decide (height ≤ rows)
  | .waiting _ _ => false
  | .copying _ _ _ height _ _ rows => decide (height ≤ rows)

/-- HALT LANE on a lane: the queue is discarded, the block in hand ends at its safe point, the lane stops (R163). -/
def haltLane (l : LaneId) (h : Halt) (s : State) : State :=
  let v := s.lanes[l]
  let h1 := Halt.merge v.halting h
  let s1 := updateLane l { v with queue := [] } s
  match inHand s l with
  | none => stopLane l h1 s1
  | some (c, b) =>
    let s2 := updateLane l { s1.lanes[l] with halting := some h1 } s1
    if l = 1 ∧ s.mover.allRows then s2
    else if l = 1 ∧ s.mover ≠ .idle then endExport (.failed .aborted 0) s2
    else endBlock l c b.notify b.haltOnFail b.next (.failed .aborted 0) s2

end Sys2Proof.Machine
end

