-- ==== Sys2Proof/Machine/Window.lean ====
section
/-! DEFINITION. Reads and writes of the register window (sections 9.1 and 9.2): the area registers, STATUS, RESET_CAUSE, COMMAND
and ATTENTION. -/

namespace Sys2Proof.Machine

/-- A lane is not IDLE or holds a queued head (R158). -/
def laneBusy (s : State) (l : LaneId) : Bool :=
  match s.lanes[l].state with
  | .idle => !s.lanes[l].queue.isEmpty
  | .running _ => true
  | .faulted => true

/-- An area write is refused while either lane is busy (R158). -/
def areaInUse (s : State) : Bool := laneBusy s 0 || laneBusy s 1

/-- A write of AREA_LO: the low 12 bits are ignored, the area becomes invalid (R158). -/
def writeAreaLo (value : Word) (s : State) : State :=
  if areaInUse s then dropWord .areaInUse s
  else s.setWindow { s.window with areaLo := value &&& 0xFFFFF000#32, areaValid := false }

/-- A write of AREA_HI: the area becomes invalid (R158). -/
def writeAreaHi (value : Word) (s : State) : State :=
  if areaInUse s then dropWord .areaInUse s
  else s.setWindow { s.window with areaHi := value, areaValid := false }

/-- A write of AREA_SIZE: 1 to 256 validates the area, with a full report write; any other size invalidates it (R158,
R179). -/
def writeAreaSize (value : Word) (s : State) : State :=
  if areaInUse s then dropWord .areaInUse s
  else
    let size := value.truncate 9
    if 1 ≤ size.toNat ∧ size.toNat ≤ 256 then
      finishEvent (fullReport false (s.setWindow { s.window with areaSize := size, areaValid := true }))
    else s.setWindow { s.window with areaSize := size, areaValid := false }

/-- A write of RESET_CAUSE clears each bit written as 1 (R160). -/
def writeResetCause (value : Word) (s : State) : State :=
  s.setWindow { s.window with resetCause := s.window.resetCause &&& ~~~(value.truncate 3) }

/-- A write of ATTENTION: dropped while BUSY, else captured together with the value of COMMAND (R161). -/
def writeAttention (value : Word) (s : State) : State :=
  match s.window.attention with
  | some _ => dropWord .busy s
  | none => s.setWindow { s.window with attention := some (value, s.window.command) }

/-- A write of a register of the window (R157). -/
def writeRegister (value : Word) (s : State) : HostRegister → State
  | .ident => s
  | .areaLo => writeAreaLo value s
  | .areaHi => writeAreaHi value s
  | .areaSize => writeAreaSize value s
  | .command => s.setWindow { s.window with command := value }
  | .attention => writeAttention value s
  | .status => s
  | .resetCause => writeResetCause value s

/-! ## The commands -/

/-- AREA_LO_WRITE (R158). -/
def execAreaLoWrite (value : Word) (s : State) : Host.Outcome State Fault Refusal := .next (writeAreaLo value s)

/-- AREA_HI_WRITE (R158). -/
def execAreaHiWrite (value : Word) (s : State) : Host.Outcome State Fault Refusal := .next (writeAreaHi value s)

/-- AREA_SIZE_WRITE (R158). -/
def execAreaSizeWrite (value : Word) (s : State) : Host.Outcome State Fault Refusal := .next (writeAreaSize value s)

/-- STATUS_READ: the status word is returned, then DROPPED is cleared (R159). -/
def execStatusRead (s : State) : Host.Outcome State Fault Refusal :=
  .next (s.setWindow { s.window with readData := statusWord s, dropped := false })

/-- RESET_CAUSE_WRITE (R160). -/
def execResetCauseWrite (value : Word) (s : State) : Host.Outcome State Fault Refusal := .next (writeResetCause value s)

/-- REGISTER_WRITE (R157). -/
def execRegisterWrite (register : HostRegister) (value : Word) (s : State) : Host.Outcome State Fault Refusal :=
  .next (writeRegister value s register)

/-- ATTENTION_WRITE (R161). -/
def execAttentionWrite (value : Word) (s : State) : Host.Outcome State Fault Refusal := .next (writeAttention value s)

end Sys2Proof.Machine
end

