-- ==== Sys2Proof/Machine/Attention.lean ====
section
/-! DEFINITION. The take of a captured attention word (section 9.2): RUN CHAIN, HALT LANE, ACKNOWLEDGE, RESTART, WAKE and the
words that name nothing. -/

namespace Sys2Proof.Machine

/-! ## The word (section 12.1) -/

/-- The code of an attention word: bits 3:0. -/
def attentionCode (w : Word) : Nat := w.toNat % 16

/-- The target of an attention word: bits 7:4. -/
def attentionTarget (w : Word) : Nat := w.toNat / 16 % 16

/-- The argument of an attention word: bits 31:16. -/
def attentionArgument (w : Word) : Nat := w.toNat / 65536

/-- The target as a lane, where it is one (0 or 1). -/
def laneOf (target : Nat) : Option LaneId := if h : target < 2 then some ⟨target, h⟩ else none

/-- The word names something the part can do (R161). -/
def attentionValid (w : Word) : Bool :=
  match attentionCode w with
  | 1 => decide (attentionTarget w < 2)
  | 2 => decide (attentionTarget w < 2)
  | 3 => true
  | 4 => decide (attentionTarget w ≠ 14)
  | 5 => true
  | _ => false

/-- The captured word leaves ATTENTION: BUSY is clear (R161). -/
def clearBusy (s : State) : State := s.setWindow { s.window with attention := none }

/-- A captured word of a code is taken: BUSY is cleared in the event, and `effect` follows with the word and the captured
head. A command whose code is not the captured word's does not occur (assumption 9). -/
def takeWord (code : Nat) (effect : Word → Word → State → State) (s : State) : Host.Outcome State Fault Refusal :=
  match s.window.attention with
  | none => .next s
  | some (w, head) =>
    if attentionCode w = code then .next (finishEvent (effect w head (clearBusy s))) else .next s

/-! ## RUN CHAIN (R162) -/

/-- A head joins the newest end of a lane's queue, and an IDLE lane takes it up (R162, R166). -/
def appendHead (l : LaneId) (head : Word) (s : State) : State :=
  takeUp l (updateLane l { s.lanes[l] with queue := s.lanes[l].queue ++ [head] } s)

/-- RUN CHAIN: a target that is no lane, REJECT or FULL drops the word; else a STABLED part wakes and the head is appended (R161, R162,
R184). DESIGN CHOICE: where two of the three hold, a target that is no lane gives the reason first (assumption 32), and REJECT comes
before FULL (assumption 19). -/
def runChain (w head : Word) (s : State) : State :=
  match laneOf (attentionTarget w) with
  | none => dropWord .badCode s
  | some l =>
    if reject s then dropWord .reject s
    else if 4 ≤ s.lanes[l].queue.length then dropWord .full s
    else appendHead l head (wakePart .runChain s)

/-- RUN_CHAIN (R162). -/
def execRunChain (s : State) : Host.Outcome State Fault Refusal := takeWord 1 runChain s

/-! ## HALT LANE (R163) -/

/-- HALT LANE on the lane its target names (R163). -/
def haltByWord (w _head : Word) (s : State) : State :=
  match laneOf (attentionTarget w) with
  | none => dropWord .badCode s
  | some l => haltLane l { announce := true, zero := false } s

/-- HALT_LANE (R163). -/
def execHaltLane (s : State) : Host.Outcome State Fault Refusal := takeWord 2 haltByWord s

/-! ## ACKNOWLEDGE (R165, R176) -/

/-- ACKNOWLEDGE: the named bits and IV are cleared, the part record is written with the new word (R176). -/
def acknowledge (w _head : Word) (s : State) : State :=
  mark .part (s.setReports
    { s.reports with
      notice := s.reports.notice &&& ~~~(BitVec.ofNat 11 (attentionArgument w))
      iv := false })

/-- ACKNOWLEDGE (R165, R176). -/
def execAcknowledge (s : State) : Host.Outcome State Fault Refusal := takeWord 3 acknowledge s

/-! ## RESTART (R164, R21) -/

/-- RESTART with target 15: both lanes are halted silently with their counters cleared, the notice word, IV, the fault record
and any suspension are cleared, every record is rewritten where the area is valid, RESTART is set in RESET_CAUSE (R164,
R179; assumption 16). -/
def restartAll (s : State) : State :=
  let s1 := haltLane 1 { announce := false, zero := true } (haltLane 0 { announce := false, zero := true } s)
  let s2 := s1.setReports { s1.reports with notice := 0, iv := false, fault := none, suspended := false }
  let s3 := s2.setWindow { s2.window with resetCause := s2.window.resetCause ||| 4#3 }
  if s3.window.areaValid then fullReport true s3 else s3

/-- RESTART by its target: a port, lane 0, lane 1, or both lanes and the reports; 14 is none (R161, R164). -/
def restartByWord (w _head : Word) (s : State) : State :=
  match portOf (attentionTarget w) with
  | some p => restartPort p s
  | none =>
    if attentionTarget w = 12 then haltLane 0 { announce := true, zero := true } s
    else if attentionTarget w = 13 then haltLane 1 { announce := true, zero := true } s
    else if attentionTarget w = 15 then restartAll s
    else dropWord .badCode s

/-- RESTART (R164, R21). -/
def execRestart (s : State) : Host.Outcome State Fault Refusal := takeWord 4 restartByWord s

/-! ## WAKE (R165, R184) -/

/-- WAKE wakes a STABLED part and has no effect in RUN (R165). -/
def wakeByWord (_w _head : Word) (s : State) : State := wakePart .wake s

/-- WAKE (R165, R184). -/
def execWake (s : State) : Host.Outcome State Fault Refusal := takeWord 5 wakeByWord s

/-! ## Words that name nothing (R161) -/

/-- BAD_CODE: a captured word that names nothing the part can do is dropped (R161; of a known code too, assumption 25). -/
def execBadCode (s : State) : Host.Outcome State Fault Refusal :=
  match s.window.attention with
  | none => .next s
  | some (w, _) => if attentionValid w then .next s else .next (dropWord .badCode (clearBusy s))

end Sys2Proof.Machine
end

