-- ==== Sys2Proof/Machine/Composition.lean ====
section
/-! DEFINITION. Layout geometry (chapter 4) and the Compositor (chapter 5): hidden tiles, clipping, the frame start with its
sources, locks, marks and verdicts, the doors' steps at a frame start (chapter 7), and the pixels of a frame. -/

namespace Sys2Proof.Machine

/-! ## Rectangles (R72, R77, R81) -/

/-- A pixel lies in a rectangle. -/
def Rect.has (r : Rect) (x y : Nat) : Bool := decide (r.x ≤ x ∧ x < r.x + r.w ∧ r.y ≤ y ∧ y < r.y + r.h)

/-- The rectangle holds no pixel. -/
def Rect.isEmpty (r : Rect) : Bool := decide (r.w = 0 ∨ r.h = 0)

/-- Every pixel of a rectangle lies in one of a list of others (R77, R82). An uncovered pixel that is leftmost and topmost
of its kind has the rectangle's left edge or some right edge to its left, and the rectangle's top edge or some bottom edge
above it, so those columns and lines are the ones looked at. -/
def Rect.coveredBy (r : Rect) (others : List Rect) : Bool :=
  (r.x :: others.map fun o => o.x + o.w).all fun x =>
    (r.y :: others.map fun o => o.y + o.h).all fun y => !r.has x y || others.any fun o => o.has x y

/-- The part of a rectangle that lies on a display of a size (R81). -/
def Rect.clip (r : Rect) (width height : Nat) : Rect :=
  { x := r.x, y := r.y, w := min (r.x + r.w) width - r.x, h := min (r.y + r.h) height - r.y }

/-- The tiles of a list with their hidden marks (R77). -/
def markHidden : List Tile → List LaidTile
  | [] => []
  | t :: later => { tile := t, hidden := t.dest.coveredBy (later.map fun u => u.dest) } :: markHidden later

/-! ## Sources (R94, R112) -/

/-- The camera qualifies for a symbol under an active cab (R112). -/
def qualifiesFor (c : CameraRecord) (cab : AB) : Symbol → Bool
  | .front => decide (c.role = .endCamera ∧ c.tip = some cab)
  | .rear => decide (c.role = .endCamera ∧ c.tip = some cab.other)
  | .leftFlank => decide (c.role = .flank ∧ c.tip = some cab ∧ c.side = some (physicalOf cab .left))
  | .rightFlank => decide (c.role = .flank ∧ c.tip = some cab ∧ c.side = some (physicalOf cab .right))

/-- The port a source resolves to: the lowest that qualifies, or none (R71, R112). -/
def resolve (s : State) : Source → Option PortId
  | .port p => some p
  | .symbol y =>
    match s.cab with
    | none => none
    | some cab =>
      (List.finRange 12).find? fun p => !s.ports[p].undefined && qualifiesFor s.ports[p].camera cab y

/-- The port is LIVE. -/
def portLive (s : State) (p : PortId) : Bool := decide (s.ports[p].state = .live)

/-- The resolved sources of a tile: an alternate that resolves to the primary's port is treated as absent (R94). -/
def resolveTile (s : State) (t : Tile) : Option PortId × Option PortId :=
  let p := resolve s t.primary
  let a := match t.alternate with
    | none => none
    | some y => resolve s y
  (p, if a = p then none else a)

/-- The shown source of a tile by the cases of R94, and whether it is the alternate. -/
def chooseSource (s : State) (t : Tile) : Option (PortId × Bool) :=
  match resolveTile s t with
  | (p, a) =>
    match p.filter (fun q => portLive s q && decide (s.soil[q].state ≠ .blinded)) with
    | some q => some (q, false)
    | none =>
      match a.filter (portLive s) with
      | some q => some (q, true)
      | none => (p.filter (portLive s)).map fun q => (q, false)

/-- A resolved source is in SEEKING or LOST (R96). -/
def seekingOrLost (s : State) (p : Option PortId) : Bool :=
  match p with
  | none => false
  | some q => decide (s.ports[q].state = .seeking ∨ s.ports[q].state = .lost)

/-- The fill of a drawn tile whose sources give no picture (R96). -/
def fillOf (s : State) (t : Tile) : Fill :=
  match resolveTile s t with
  | (p, a) => if seekingOrLost s p || seekingOrLost s a then .striped else .black

/-- The badge of a shown camera (R98). -/
def badgeOf : SoilState → Badge
  | .unlearned => .none
  | .learning => .none
  | .clean => .none
  | .smeared => .smeared
  | .blinded => .blinded

/-! ## The frame tile list (R92) -/

/-- A tile of the list that is not drawn in this frame (R82). -/
def undrawnTile (t : LaidTile) : FrameTile :=
  { tile := t.tile, hidden := t.hidden, drawn := false, shown := none, fill := .none, stale := false, badge := .none }

/-- A drawn tile with no shown source (R96). -/
def filledTile (t : LaidTile) (fill : Fill) : FrameTile :=
  { tile := t.tile, hidden := t.hidden, drawn := true, shown := none, fill, stale := false, badge := .none }

/-- A drawn tile with its source, age and marks at the frame start (R94 to R98). -/
def drawnTile (s : State) (t : LaidTile) : FrameTile :=
  match chooseSource s t.tile with
  | none => filledTile t (fillOf s t.tile)
  | some (p, alternate) =>
    match s.store[p].newest with
    | none => filledTile t .striped
    | some i =>
      let slot := s.store[p].slots[i]
      let age := since s.clock slot.stamp
      { tile := t.tile, hidden := t.hidden, drawn := true
        shown := some { port := p, alternate, slot := i, width := slot.width, height := slot.height, age }
        fill := .none
        stale := decide (t.tile.maxAge < age)
        badge := badgeOf s.soil[p].state }

/-- The tile is drawn on a display of a size, under the later tiles of its list (R82). -/
def isDrawn (width height : Nat) (t : LaidTile) (later : List LaidTile) : Bool :=
  let clip := t.tile.dest.clip width height
  !t.hidden && !clip.isEmpty && !clip.coveredBy (later.map fun u => u.tile.dest.clip width height)

/-- The frame tile list of a LIVE frame from the effective layout's tiles (R79, R92). -/
def composeTiles (s : State) (width height : Nat) : List LaidTile → List FrameTile
  | [] => []
  | t :: later =>
    (if isDrawn width height t later then drawnTile s t else undrawnTile t) :: composeTiles s width height later

/-- The effective layout of a LIVE frame (R93, R123). -/
def Display.effectiveLayout (p : Display) : LayoutId :=
  match p.override with
  | .none => p.selected
  | .left => p.settings.doorLeft.getD p.selected
  | .right => p.settings.doorRight.getD p.selected
  | .both => p.settings.doorBoth.getD p.selected

/-- The tiles of a layout slot; an EMPTY slot has none (R69). -/
def layoutTiles (s : State) (y : LayoutId) : List LaidTile :=
  match s.layouts[y] with
  | none => []
  | some ts => ts

/-- The locks a frame's tiles take (R95): each shown port's newest READY slot. -/
def lockTile (d : DisplayId) (s : State) (t : FrameTile) : State :=
  match t.shown with
  | none => s
  | some v => s.setStore v.port (s.store[v.port].lock v.slot (.display d))

/-! ## Verdicts (R100, R131) -/

/-- A tile of the frame qualifies for a door (R131). -/
def tileQualifies (s : State) (settings : DisplaySettings) (door : DoorId) (t : FrameTile) : Bool :=
  match t.shown with
  | none => false
  | some v =>
    let clip := t.tile.dest.clip settings.width settings.height
    t.drawn && portLive s v.port && s.ports[v.port].camera.coverage.contains door
      && decide (s.soil[v.port].state ≠ .blinded) && decide (v.age ≤ t.tile.maxAge)
      && decide (settings.minWidth ≤ clip.w) && decide (settings.minHeight ≤ clip.h)

/-- The highest index, counted from `i`, at which a list satisfies a test. -/
def lastIndex {α : Type} (test : α → Bool) : List α → Nat → Option Nat
  | [], _ => none
  | t :: ts, i =>
    match lastIndex test ts (i + 1) with
    | some j => some j
    | none => if test t then some i else none

/-- The vector a frame hands to the Door Monitor: for each door, the topmost tile that qualifies (R131). -/
def verdictVector (s : State) (settings : DisplaySettings) (tiles : List FrameTile) : Vector (Option Nat) 8 :=
  Vector.ofFn fun door => lastIndex (tileQualifies s settings door) tiles 0

/-! ## The doors at a frame start (R132 to R136, R139) -/

/-- The displays of a cab, lowest first (section 2.1). -/
def displaysOf : AB → List DisplayId
  | .a => [0, 1]
  | .b => [2, 3]

/-- The lowest display of the cab whose stored vector is true for the door, with its tile (R139). -/
def qualifyingView (s : State) (cab : AB) (door : DoorId) : Option (DisplayId × Nat) :=
  (displaysOf cab).findSome? fun d => (s.stored[d][door]).map fun i => (d, i)

/-- A door's step at a frame start of a display of the active cab (R134 to R136); `view` is its qualifying view, `none`
where it is not qualified. -/
def Door.frameStep (r : Door) (stamp : Stamp) (view : Option (DisplayId × Nat)) : Door :=
  match r.state, view with
  | .shut, _ => r
  | .opened, some _ => { r with state := .viewing stamp, lastView := view }
  | .opened, none => r
  | .viewing t, some _ =>
    if r.dwell ≤ since stamp t then { r with state := .assured t, lastView := view } else r
  | .assured _, some _ => r
  | .viewing _, none => { r with state := .opened, lapses := min (r.lapses + 1) 65535 }
  | .assured _, none => { r with state := .opened, lapses := min (r.lapses + 1) 65535 }

/-- The frame-start steps of every door, where the display is of the active cab (R132). -/
def doorSteps (d : DisplayId) (s : State) : State :=
  if s.cab = some (cabOf d) then
    doorsChanged s.doors
      { s with doors := Vector.ofFn fun k => (s.doors[k]).frameStep s.clock (qualifyingView s (cabOf d) k) }
  else s

/-! ## The frame start (R88, R92, R101) -/

/-- A configured display is LIVE at a frame start: its cab is active and the part is in RUN (R88). -/
def goesLive (s : State) (d : DisplayId) : Bool := decide (s.cab = some (cabOf d) ∧ s.mode = .run)

/-- The blink phase is on: (F mod 2^N) < D (R98). -/
def blinkPhase (p : Display) : Bool :=
  decide (p.frameCount.toNat % 2 ^ p.settings.blinkN < p.settings.blinkD)

/-- The frame tile list of the frame start: empty in a DARK frame (R92, R101). -/
def startTiles (s : State) (d : DisplayId) : List FrameTile :=
  let p := s.displays[d]
  if goesLive s d then composeTiles s p.settings.width p.settings.height (layoutTiles s p.effectiveLayout) else []

/-- The pipe after a frame start (R87, R92, R100, R101). -/
def startedDisplay (s : State) (d : DisplayId) (tiles : List FrameTile) (vector : Vector (Option Nat) 8) : Display :=
  let p := s.displays[d]
  { p with
    live := goesLive s d
    timing := some { start := s.clock, period := p.settings.period, ended := false }
    frameCount := p.frameCount + 1
    tiles
    frameWidth := p.settings.width
    frameHeight := p.settings.height
    blinkOn := blinkPhase p
    verdicts := Vector.ofFn fun k => (vector[k]).isSome
    effective := if goesLive s d then p.effectiveLayout else p.effective
    startOverride := p.override }

/-- A frame of these dimensions meets the stride and room of an export: the reason it does not, if any (R149, R150). -/
def screenMisfit (o : ExportOperands) (width height : Nat) : Option Reason :=
  if o.stride < 4 * width then some .badValue
  else if o.room < height * o.stride then some .roomShort
  else none

/-- A WAITING screen export of the display enters COPYING or ends (R150). DESIGN CHOICE: by this frame start alone, also where the part
has been stabled and has woken since the take (assumption 30). -/
def exportAtStart (d : DisplayId) (s : State) : State :=
  match s.mover with
  | .waiting e ops =>
    if e = d then
      let p := s.displays[d]
      if p.live then
        match screenMisfit ops p.frameWidth p.frameHeight with
        | some r => endExport (.failed r 0) s
        | none => { s with mover := .copying d ops p.frameWidth p.frameHeight s.clock p.frameCount 0 }
      else endExport (.failed .displayStopped 0) s
    else s
  | .idle => s
  | .moving _ _ _ _ _ _ _ _ => s
  | .copying _ _ _ _ _ _ _ => s

/-- The display record is to be written after a frame start (R109): `was` is the pipe before it. -/
def recordDue (s : State) (d : DisplayId) (was : Display) : Bool :=
  let p := s.displays[d]
  decide (p.frameCount.toNat % 16 = 0) || was.timing.isNone || decide (p.live ≠ was.live)
    || decide (p.effective ≠ was.effective) || decide (p.startOverride ≠ s.reports.lastOverride[d])

/-- A frame start of a configured display, taken whole (R92, R101). -/
def takeFrameStart (d : DisplayId) (s : State) : State :=
  let was := s.displays[d]
  let tiles := startTiles s d
  let vector := verdictVector s was.settings tiles
  let s1 := (tiles.foldl (lockTile d) s).setDisplay d (startedDisplay s d tiles vector)
  let s2 := { s1 with stored := s1.stored.set d vector }
  let s3 := doorSteps d (exportAtStart d s2)
  if recordDue s3 d was then mark (.display d) s3 else s3

/-- The frame start of a display has come: it is configured, its last frame has ended and its period has run (R87;
assumption 9). -/
def startDue (s : State) (d : DisplayId) : Bool :=
  match s.displays[d].timing with
  | none => false
  | some t => s.displays[d].configured && t.ended && reached s.clock (stampAfter t.start t.period)

/-- FRAME_START: a configured display whose frame start has come takes it (R87, R92, R101). -/
def execFrameStart (d : DisplayId) (s : State) : Host.Outcome State Fault Refusal :=
  if startDue s d then .next (finishEvent (takeFrameStart d s)) else .next s

/-! ## The pixels of a frame (R102 to R106) -/

/-- The fixed-point source position of an output position along one direction (R103, R104). -/
def scalePosition (start size destSize i : Nat) : Nat :=
  start * 65536 + (2 * i + 1) * (size * 65536 / destSize) / 2 - 32768

/-- The weighted mean of two samples with a fraction of 256ths (R103, R104). -/
def blend (a b f : Nat) : Nat := (a * (256 - f) + b * f + 128) / 256

/-- A byte of the locked frame a tile shows. -/
def frameByte (s : State) (v : Shown) (row off : Nat) : Nat :=
  (s.frameMem.read (lineBase v.port v.slot v.width row + off)).toNat

/-- The luma at a column of a row, both held within the frame (R103, R105). -/
def lumaAt (s : State) (v : Shown) (row col : Nat) : Nat :=
  let c := min col (v.width - 1)
  frameByte s v (min row (v.height - 1)) (2 * c + 1)

/-- The horizontal result of a row (R103). -/
def rowLuma (s : State) (v : Shown) (row u : Nat) : Nat :=
  blend (lumaAt s v row (u / 65536)) (lumaAt s v row (u / 65536 + 1)) (u % 65536 / 256)

/-- The source rect a tile shows: the primary's or the alternate's (R94). -/
def shownRect (t : Tile) (v : Shown) : Rect := if v.alternate then t.alternateRect else t.primaryRect

/-- The channel value 0 to 255 nearest to an integer (R106). -/
def clampByte (n : Int) : Byte := BitVec.ofNat 8 (min n.toNat 255)

/-- Colour conversion (R106). -/
def toRgb (y cb cr : Nat) : Rgb :=
  let b : Int := (cb : Int) - 128
  let r : Int := (cr : Int) - 128
  { r := clampByte (y + (359 * r + 128).fdiv 256)
    g := clampByte (y - (88 * b + 183 * r + 128).fdiv 256)
    b := clampByte (y + (454 * b + 128).fdiv 256) }

/-- The picture value of a tile at output column `i` and line `j` of its destination rect (R103 to R106). -/
def picturePixel (s : State) (t : Tile) (v : Shown) (i j : Nat) : Rgb :=
  let r := shownRect t v
  let u := scalePosition r.x r.w t.dest.w (if t.mirror then t.dest.w - 1 - i else i)
  let w := scalePosition r.y r.h t.dest.h j
  let y := blend (rowLuma s v (w / 65536) u) (rowLuma s v (w / 65536 + 1) u) (w % 65536 / 256)
  let row := min (w / 65536) (v.height - 1)
  let pair := min (u / 65536) (v.width - 1) / 2
  toRgb y (frameByte s v row (4 * pair)) (frameByte s v row (4 * pair + 2))

/-- The fill value of a tile at column `i` and line `j` of its destination rect (R96). -/
def fillPixel (f : Fill) (i j : Nat) : Rgb :=
  match f with
  | .striped => if (i + j) / 8 % 2 = 1 then ⟨64, 64, 64⟩ else ⟨128, 128, 128⟩
  | .black => ⟨0, 0, 0⟩
  | .none => ⟨0, 0, 0⟩

/-- The effective border width of a tile (R97). -/
def FrameTile.edge (t : FrameTile) : Nat := if t.stale then max t.tile.border 2 else t.tile.border

/-- The position lies in the tile's border (R72, R97). -/
def inBorder (t : FrameTile) (i j : Nat) : Bool :=
  let e := t.edge
  decide (i < e ∨ j < e ∨ t.tile.dest.w ≤ i + e ∨ t.tile.dest.h ≤ j + e)

/-- The position lies in the tile's badge square (R98). -/
def inBadge (t : FrameTile) (i j : Nat) : Bool :=
  let e := t.edge
  decide (e ≤ i ∧ i < e + 24 ∧ e ≤ j ∧ j < e + 24)

/-- The position lies in the SUBSTITUTE marker (R99). -/
def inMarker (t : FrameTile) (i j : Nat) : Bool :=
  let e := t.edge
  decide (i + 1 + e ≤ t.tile.dest.w ∧ e ≤ j ∧ (t.tile.dest.w - 1 - e - i) + (j - e) < 16)

/-- The badge colour painted in a frame, where one is (R98). -/
def badgeColour (b : Badge) (blinkOn : Bool) : Option Rgb :=
  match b with
  | .none => none
  | .blinded => if blinkOn then some ⟨255, 64, 0⟩ else none
  | .smeared => some ⟨255, 200, 0⟩

/-- The tile shows its alternate (R99). -/
def FrameTile.substitute (t : FrameTile) : Bool :=
  match t.shown with
  | none => false
  | some v => v.alternate

/-- The value of a drawn tile at a position of its destination rect, its parts painted in the order of R99. -/
def tilePixel (s : State) (blinkOn : Bool) (t : FrameTile) (i j : Nat) : Rgb :=
  let base := match t.shown with
    | none => fillPixel t.fill i j
    | some v => picturePixel s t.tile v i j
  let marked := if t.substitute && inMarker t i j then ⟨255, 255, 255⟩ else base
  let badged := match badgeColour t.badge blinkOn with
    | some c => if inBadge t i j then c else marked
    | none => marked
  if inBorder t i j then (if t.stale then ⟨255, 0, 0⟩ else t.tile.colour) else badged

/-- The output pixel of a display's frame at column `x` and line `y` (R102). -/
def pixelAt (s : State) (p : Display) (x y : Nat) : Rgb :=
  p.tiles.foldl (fun below t =>
    if t.drawn && (t.tile.dest.clip p.frameWidth p.frameHeight).has x y then
      tilePixel s p.blinkOn t (x - t.tile.dest.x) (y - t.tile.dest.y)
    else below) ⟨0, 0, 0⟩

/-- One output line of a display's frame as an export writes it: R, G, B and a padding byte of 0 (R151). -/
def outputRow (s : State) (p : Display) (width y : Nat) : List Byte :=
  (List.range width).flatMap fun x =>
    let c := pixelAt s p x y
    [c.r, c.g, c.b, 0]

end Sys2Proof.Machine
end

