-- ==== Sys2Proof/Machine/CabBlocks.lean ====
section
/-! DEFINITION. The lane 0 blocks of Cab Control, the Door Monitor and the mode (chapters 6, 7 and 11): SET CAB, SET DOOR POLICY,
ENTER STABLING. -/

namespace Sys2Proof.Machine

/-! ## SET CAB and the handover (R113, R114) -/

/-- A door at the handover step: VIEWING and ASSURED go to OPENED, no lapse counted (R140). -/
def Door.handover (r : Door) : Door :=
  match r.state with
  | .shut => r
  | .opened => r
  | .viewing _ => { r with state := .opened }
  | .assured _ => { r with state := .opened }

/-- The handover step of the Door Monitor: the doors, and every stored vector all false (R140). -/
def handoverDoors (s : State) : State :=
  { s with
    doors := Vector.ofFn fun d => (s.doors[d]).handover
    stored := Vector.replicate 4 (Vector.replicate 8 none) }

/-- A screen export in flight on a display of a cab that is not the active one ends DISPLAY_STOPPED (R152). -/
def stopForeignExport (s : State) : State :=
  match s.mover with
  | .waiting d _ => if s.cab = some (cabOf d) then s else endExport (.failed .displayStopped 0) s
  | .copying d _ _ _ _ _ _ => if s.cab = some (cabOf d) then s else endExport (.failed .displayStopped 0) s
  | .idle => s
  | .moving _ _ _ _ _ _ _ _ => s

/-- The handover, in the order of R114. -/
def handover (cab : Option AB) (s : State) : State :=
  let s2 := handoverDoors { s with cab }
  let s4 := reportDoors s.doors (recomputeLines (recomputeOverrides s2))
  raise .cab (mark .part (stopForeignExport s4))

/-- The checks of R113, then the handover where the cab changes. -/
def actSetCab (b : InHand) (s : State) : State × Ending :=
  if b.body.length ≠ 4 then (s, badLength)
  else match cabOperand b.body with
    | none => (s, .failed .badValue 0)
    | some cab => if cab = s.cab then (s, .done) else (handover cab s, .done)

/-- SET_CAB (R113, R114). -/
def execSetCab (s : State) : Host.Outcome State Fault Refusal := lane0Block .setCab actSetCab s

/-! ## SET DOOR POLICY (R128, R129) -/

/-- A door after a policy: an ASSURED door whose changed dwell has not elapsed returns to VIEWING (R129). -/
def Door.policy (r : Door) (isolated : Bool) (dwell : Nat) (clock : Stamp) : Door :=
  let r1 := { r with isolated, dwell }
  match r.state with
  | .assured t => if dwell ≠ r.dwell ∧ since clock t < dwell then { r1 with state := .viewing t } else r1
  | .shut => r1
  | .opened => r1
  | .viewing _ => r1

/-- A SET DOOR POLICY that passes its check (R129). -/
def setDoorPolicy (body : List Byte) (s : State) : State :=
  doorsChanged s.doors
    { s with
      debounce := policyDebounce body s.debounce
      doors := Vector.ofFn fun d =>
        (s.doors[d]).policy (policyIsolated body d s.doors[d].isolated) (policyDwell body d s.doors[d].dwell) s.clock }

/-- The checks of R128 and R186, then R129. -/
def actSetDoorPolicy (b : InHand) (s : State) : State × Ending :=
  if b.body.length ≠ 24 then (s, badLength)
  else if policyRanges b.body then (setDoorPolicy b.body s, .done)
  else (s, .failed .badValue 0)

/-- SET_DOOR_POLICY (R128, R129). -/
def execSetDoorPolicy (s : State) : Host.Outcome State Fault Refusal := lane0Block .setDoorPolicy actSetDoorPolicy s

/-! ## ENTER STABLING (R181, R182) -/

/-- Every door is SHUT, isolated doors included (R181). -/
def allShut (s : State) : Bool := (List.finRange 8).all fun d => s.doors[d].state.isShut

/-- A port is parked at entry to stabling where it is not PARKED already (R182, step 2). -/
def parkRunning (s : State) (p : PortId) : State := if s.ports[p].state = .parked then s else parkPort p s

/-- A COPYING screen export ends DISPLAY_STOPPED at entry to stabling; a WAITING one waits for its frame start (R152). DESIGN CHOICE:
the entry leaves no mark on a WAITING one, which the frame start alone judges (assumption 30). -/
def stopCopying (s : State) : State :=
  match s.mover with
  | .copying _ _ _ _ _ _ _ => endExport (.failed .displayStopped 0) s
  | .idle => s
  | .moving _ _ _ _ _ _ _ _ => s
  | .waiting _ _ => s

/-- Entry to stabling, in the order of R182. -/
def enterStabling (s : State) : State :=
  let s1 := { s with wakeRecord := Vector.ofFn fun p => decide (s.ports[p].state ≠ .parked) }
  let s2 := (List.finRange 12).foldl parkRunning s1
  mark .part (stopCopying (recomputeLines { s2 with mode := .stabled }))

/-- The checks of R181, then R182. -/
def actEnterStabling (b : InHand) (s : State) : State × Ending :=
  if b.body.length ≠ 0 then (s, badLength)
  else match s.mode with
    | .stabled => (s, .done)
    | .run => if allShut s then (enterStabling s, .done) else (s, .failed .notAllowedNow 0)

/-- ENTER_STABLING (R181, R182). -/
def execEnterStabling (s : State) : Host.Outcome State Fault Refusal := lane0Block .enterStabling actEnterStabling s

end Sys2Proof.Machine
end

