-- ==== Sys2Proof/Machine/CameraBlocks.lean ====
section
/-! DEFINITION. The lane 0 blocks of the Camera Receiver (chapter 1): DEFINE, PARK and UNPARK CAMERA. -/

namespace Sys2Proof.Machine

/-- A DEFINE CAMERA that passes its checks (R4, R43, R66). -/
def defineCamera (p : PortId) (c : CameraRecord) (s : State) : State :=
  let q := s.ports[p]
  let s1 := s.setPort p { q with camera := c, undefined := false }
  let s2 := s1.setSoil p { s1.soil[p] with intervalCount := 0 }
  let s3 := if q.undefined ∨ c.width ≠ q.camera.width ∨ c.height ≠ q.camera.height then discardReference p s2 else s2
  announceCamera p s3

/-- The checks of R3 in their order, then R4. -/
def actDefineCamera (b : InHand) (s : State) : State × Ending :=
  match portOf b.target with
  | none => (s, .failed .badTarget 0)
  | some p =>
    if s.ports[p].state ≠ .parked then (s, .failed .notAllowedNow 0)
    else if b.body.length ≠ 16 then (s, badLength)
    else match cameraOf b.body with
      | none => (s, .failed .badValue 0)
      | some c => (defineCamera p c s, .done)

/-- DEFINE_CAMERA (R3, R4). -/
def execDefineCamera (s : State) : Host.Outcome State Fault Refusal := lane0Block .defineCamera actDefineCamera s

/-- PARK CAMERA: a port already PARKED is left unchanged (R5). -/
def actParkCamera (b : InHand) (s : State) : State × Ending :=
  match portOf b.target with
  | none => (s, .failed .badTarget 0)
  | some p =>
    if b.body.length ≠ 0 then (s, badLength)
    else if s.ports[p].state = .parked then (s, .done)
    else (parkPort p s, .done)

/-- PARK_CAMERA (R5). -/
def execParkCamera (s : State) : Host.Outcome State Fault Refusal := lane0Block .parkCamera actParkCamera s

/-- UNPARK CAMERA: refused for an UNDEFINED port and in a STABLED part (R6, R186). -/
def actUnparkCamera (b : InHand) (s : State) : State × Ending :=
  match portOf b.target with
  | none => (s, .failed .badTarget 0)
  | some p =>
    if s.ports[p].undefined ∨ s.mode = .stabled then (s, .failed .notAllowedNow 0)
    else if b.body.length ≠ 0 then (s, badLength)
    else if s.ports[p].state = .parked then (seekPort p s, .done)
    else (s, .done)

/-- UNPARK_CAMERA (R6). -/
def execUnparkCamera (s : State) : Host.Outcome State Fault Refusal := lane0Block .unparkCamera actUnparkCamera s

end Sys2Proof.Machine
end

