-- ==== Sys2Proof/Machine/DisplayBlocks.lean ====
section
/-! DEFINITION. The lane 0 blocks of the Layout Table and the Compositor (chapters 4 and 5): LOAD, CLEAR and SELECT LAYOUT,
SET DISPLAY. -/

namespace Sys2Proof.Machine

/-- A layout slot takes a value. -/
def setLayout (y : LayoutId) (v : Layout) (s : State) : State := { s with layouts := s.layouts.set y v }

/-- The checks of R75 in their order, then R76. -/
def actLoadLayout (b : InHand) (s : State) : State × Ending :=
  match layoutOf b.target with
  | none => (s, .failed .badTarget 0)
  | some y =>
    if layoutLengthOk b.body.length then
      match tilesFrom b.body 0 (b.body.length / 32) with
      | .error i => (s, .failed .badValue i)
      | .ok ts => (setLayout y (some (markHidden ts)) s, .done)
    else (s, badLength)

/-- LOAD_LAYOUT (R75, R76, R77). -/
def execLoadLayout (s : State) : Host.Outcome State Fault Refusal := lane0Block .loadLayout actLoadLayout s

/-- The checks of R78, then the slot is EMPTY. -/
def actClearLayout (b : InHand) (s : State) : State × Ending :=
  match layoutOf b.target with
  | none => (s, .failed .badTarget 0)
  | some y => if b.body.length ≠ 0 then (s, badLength) else (setLayout y none s, .done)

/-- CLEAR_LAYOUT (R78). -/
def execClearLayout (s : State) : Host.Outcome State Fault Refusal := lane0Block .clearLayout actClearLayout s

/-- The checks of R91, then the selection. -/
def actSelectLayout (b : InHand) (s : State) : State × Ending :=
  match displayOf b.target with
  | none => (s, .failed .badTarget 0)
  | some d =>
    if b.body.length ≠ 4 then (s, badLength)
    else match layoutOf (field b.body 0 1) with
      | none => (s, .failed .badValue 0)
      | some y => (s.setDisplay d { s.displays[d] with selected := y }, .done)

/-- SELECT_LAYOUT (R91). -/
def execSelectLayout (s : State) : Host.Outcome State Fault Refusal := lane0Block .selectLayout actSelectLayout s

/-- The override of a display after a SET DISPLAY: a cleared door-screen flag leaves it NONE, a newly set one has it
recomputed without hold, an unchanged one leaves it (R90, R122). -/
def overrideAfter (was now : Bool) (d : DisplayId) (s : State) : State :=
  if was = now then s else s.setDisplay d (recomputedDisplay s (callingSet s) d)

/-- A SET DISPLAY that passes its checks (R90); the first one takes the display's first frame start (R87). DESIGN CHOICE: where that
first one sets the door-screen flag, the override is recomputed before that frame start, which uses it (assumption 28). -/
def setDisplay (d : DisplayId) (settings : DisplaySettings) (s : State) : State :=
  let p := s.displays[d]
  let s1 := overrideAfter p.settings.doorScreen settings.doorScreen d
    (s.setDisplay d { p with settings, configured := true })
  if p.configured then s1 else takeFrameStart d s1

/-- The checks of R89 in their order, then R90. -/
def actSetDisplay (b : InHand) (s : State) : State × Ending :=
  match displayOf b.target with
  | none => (s, .failed .badTarget 0)
  | some d =>
    if b.body.length ≠ 24 then (s, badLength)
    else match settingsOf b.body s.displays[d].settings with
      | none => (s, .failed .badValue 0)
      | some settings =>
        if !s.displays[d].configured && !givesFrame b.body then (s, .failed .badValue 0)
        else (setDisplay d settings s, .done)

/-- SET_DISPLAY (R89, R90). -/
def execSetDisplay (s : State) : Host.Outcome State Fault Refusal := lane0Block .setDisplay actSetDisplay s

end Sys2Proof.Machine
end

