-- ==== Sys2Proof/Machine/Exports.lean ====
section
/-! DEFINITION. The Export Mover (chapter 8): EXPORT FRAME, EXPORT SCREEN, the writing of their rows, and the frame end of a
display, at which a screen export completes. -/

namespace Sys2Proof.Machine

/-! ## The take of an export block (R146, R149) -/

/-- The block in hand of lane 1 of a kind, while no export is in flight. -/
def exportInHand (s : State) (kind : Kind) : Option InHand :=
  match s.mover, inHand s 1 with
  | .idle, some (_, b) => if b.kind = kind.code then some b else none
  | _, _ => none

/-- The body and operand checks common to both kinds (R146, check 2; R186): the ending they give, if any. -/
def exportChecks (b : InHand) : Option Ending :=
  if b.body.length ≠ 32 then some badLength
  else if (exportOperands b.body).valid then none
  else some (.failed .badValue 0)

/-- The Export Mover locks a slot and holds its frame in the export record (R146, check 4). -/
def lockExport (p : PortId) (ops : ExportOperands) (i : SlotId) (s : State) : State :=
  let slot := s.store[p].slots[i]
  { s.setStore p (s.store[p].lock i .mover) with
    mover := .moving p ops i slot.width slot.height slot.count slot.stamp 0 }

/-- Checks 5 and 6 of R146 against the locked frame: the reason that fails, if any. -/
def frameMisfit (o : ExportOperands) (width height : Nat) : Option Reason :=
  if o.stride < 2 * width then some .badValue
  else if o.room < height * o.stride then some .roomShort
  else none

/-- Checks 3 to 6 of R146 for a port, with the lock. -/
def takeExportFrame (p : PortId) (ops : ExportOperands) (s : State) : State :=
  let q := s.ports[p]
  if q.undefined ∨ q.state = .parked ∨ q.state = .seeking then endExport (.failed .noFrame 0) s
  else match s.store[p].newest with
    | none => endExport (.failed .noFrame 0) s
    | some i =>
      let slot := s.store[p].slots[i]
      match frameMisfit ops slot.width slot.height with
      | some r => endExport (.failed r 0) (lockExport p ops i s)
      | none => lockExport p ops i s

/-- EXPORT_FRAME: the block in hand of lane 1 is checked and its frame locked (R146). -/
def execExportFrame (s : State) : Host.Outcome State Fault Refusal :=
  match exportInHand s .exportFrame with
  | none => .next s
  | some b =>
    match portOf b.target with
    | none => .next (finishEvent (endExport (.failed .badTarget 0) s))
    | some p =>
      match exportChecks b with
      | some e => .next (finishEvent (endExport e s))
      | none => .next (finishEvent (takeExportFrame p (exportOperands b.body) s))

/-- Check 3 of R149: the display is configured, LIVE since its last frame start, of the active cab, the part in RUN
(assumption 17). -/
def screenServed (s : State) (d : DisplayId) : Bool :=
  s.displays[d].configured && s.displays[d].live && goesLive s d

/-- Checks 3 to 5 of R149 for a display. -/
def takeExportScreen (d : DisplayId) (ops : ExportOperands) (s : State) : State :=
  if screenServed s d then
    match screenMisfit ops s.displays[d].settings.width s.displays[d].settings.height with
    | some r => endExport (.failed r 0) s
    | none => { s with mover := .waiting d ops }
  else endExport (.failed .displayDark 0) s

/-- EXPORT_SCREEN: the block in hand of lane 1 is checked and waits for the display's next frame start (R149). -/
def execExportScreen (s : State) : Host.Outcome State Fault Refusal :=
  match exportInHand s .exportScreen with
  | none => .next s
  | some b =>
    match displayOf b.target with
    | none => .next (finishEvent (endExport (.failed .badTarget 0) s))
    | some d =>
      match exportChecks b with
      | some e => .next (finishEvent (endExport e s))
      | none => .next (finishEvent (takeExportScreen d (exportOperands b.body) s))

/-! ## Rows and completion (R147, R151) -/

/-- The writes of the four fields into the body of lane 1's block: frame count, stamp, width, height (section 12.3). -/
def fieldWrites (s : State) (count : Nat) (stamp : Stamp) (width height : Nat) : List (Nat × List Byte) :=
  match inHand s 1 with
  | none => []
  | some (c, _) =>
    [(blockAddress s c.block 48, leBytes 4 count), (blockAddress s c.block 52, leBytes 4 stamp.toNat),
     (blockAddress s c.block 56, leBytes 2 width), (blockAddress s c.block 58, leBytes 2 height)]

/-- An export completes: the four fields are written, then the block ends DONE (R147, R151). DESIGN CHOICE: where the link fails one
of them, those written before it stand (assumption 29). -/
def completeExport (count : Nat) (stamp : Stamp) (width height : Nat) (s : State) : State :=
  match s.bus.writeAll (fieldWrites s count stamp width height) with
  | (bus, true) => endExport .done (s.setBus bus)
  | (bus, false) => exportWriteError (s.setBus bus)

/-- EXPORT_FRAME_ROW: the next row of the locked frame is written; the last one completes the export (R147, R153). -/
def execExportFrameRow (s : State) : Host.Outcome State Fault Refusal :=
  match s.mover with
  | .moving p ops i width height count stamp rows =>
    if frameFits p i width height then
      if rows < height then
        match s.bus.write (ops.dest + rows * ops.stride) (s.frameMem.readBytes (lineBase p i width rows) (2 * width)) with
        | (bus, false) => .next (finishEvent (exportWriteError (s.setBus bus)))
        | (bus, true) =>
          let s1 := { s.setBus bus with mover := .moving p ops i width height count stamp (rows + 1) }
          if rows + 1 = height then .next (finishEvent (completeExport count.toNat stamp width height s1)) else .next s1
      else .next s
    else .fault .frameMemoryAddress
  | .idle => .next s
  | .waiting _ _ => .next s
  | .copying _ _ _ _ _ _ _ => .next s

/-- Every frame a display's tiles show lies in frame memory. -/
def tilesFit (p : Display) : Bool :=
  p.tiles.all fun t =>
    match t.shown with
    | none => true
    | some v => frameFits v.port v.slot v.width v.height

/-- EXPORT_SCREEN_ROW: the next output line of the display's frame is written (R151, R153). -/
def execExportScreenRow (s : State) : Host.Outcome State Fault Refusal :=
  match s.mover with
  | .copying d ops width height stamp count rows =>
    if tilesFit s.displays[d] then
      if rows < height then
        match s.bus.write (ops.dest + rows * ops.stride) (outputRow s s.displays[d] width rows) with
        | (bus, false) => .next (finishEvent (exportWriteError (s.setBus bus)))
        | (bus, true) => .next { s.setBus bus with mover := .copying d ops width height stamp count (rows + 1) }
      else .next s
    else .fault .frameMemoryAddress
  | .idle => .next s
  | .waiting _ _ => .next s
  | .moving _ _ _ _ _ _ _ _ => .next s

/-! ## The frame end (R107) -/

/-- The frame end of a display has come: a frame is in progress, its period has run, and no row of it is still to be copied
(R87, R107, R151; assumptions 9 and 18). -/
def endDue (s : State) (d : DisplayId) : Bool :=
  match s.displays[d].timing with
  | none => false
  | some t =>
    s.displays[d].configured && !t.ended && reached s.clock (stampAfter t.start t.period)
      && match s.mover with
        | .copying e _ _ _ _ _ _ => decide (e ≠ d) || s.mover.allRows
        | .idle => true
        | .moving _ _ _ _ _ _ _ _ => true
        | .waiting _ _ => true

/-- The timing of a display whose frame end has been taken. -/
def Display.endFrame (p : Display) : Display := { p with timing := p.timing.map fun t => { t with ended := true } }

/-- A screen export that has copied the display's frame completes (R107, R151). -/
def exportAtEnd (d : DisplayId) (s : State) : State :=
  match s.mover with
  | .copying e _ width height stamp count _ => if e = d then completeExport count.toNat stamp width height s else s
  | .idle => s
  | .moving _ _ _ _ _ _ _ _ => s
  | .waiting _ _ => s

/-- FRAME_END: the pipe leaves every lock set, and a screen export of the frame completes (R107). -/
def execFrameEnd (d : DisplayId) (s : State) : Host.Outcome State Fault Refusal :=
  if endDue s d then
    .next (finishEvent (exportAtEnd d ((releaseHolder (.display d) s).setDisplay d s.displays[d].endFrame)))
  else .next s

end Sys2Proof.Machine
end

