-- ==== Sys2Proof/Machine/Resets.lean ====
section
/-! DEFINITION. The power-on reset and the link reset (section 9.5). -/

namespace Sys2Proof.Machine

/-- A door at power-on: its line keeps its raw level and is sampled once, an active line starting its timer as an edge would
(R144). -/
def Door.powerOn (raw : Bool) : Door :=
  { raw, timer := if raw then some (stampAfter 0 30000) else none }

/-- The part at power-on: every block at its power-on values; frame memory, host memory and the door lines are as they were
(R23, R37, R144, R171). -/
def powerOn (s : State) : State :=
  { State.reset with
    doors := Vector.ofFn fun d => Door.powerOn s.doors[d].raw
    frameMem := s.frameMem
    bus := s.bus
    pending := s.pending }

/-- POWER_ON (R171). -/
def execPowerOn (s : State) : Host.Outcome State Fault Refusal := .next (powerOn s)

/-- A link reset: the window, the lanes and the Report Writer take the values of R171 and R180, an export in flight is
abandoned (R155), LINK is set in RESET_CAUSE; everything else is as it was. -/
def linkReset (s : State) : State :=
  let s1 := dropExport s
  { s1 with
    window := { readData := s1.window.readData, resetCause := s1.window.resetCause ||| 2#3 }
    lanes := Vector.replicate 2 {}
    reports :=
      { s1.reports with notice := 0, iv := false, fault := none, suspended := false, announce := true, due := [] } }

/-- LINK_RESET (R171). -/
def execLinkReset (s : State) : Host.Outcome State Fault Refusal := .next (linkReset s)

end Sys2Proof.Machine
end

