-- ==== Sys2Proof/Machine/SoilBlocks.lean ====
section
/-! DEFINITION. The lane 0 blocks of the Soil Monitor (chapter 3): LEARN REFERENCE, SET REFERENCE, MEASURE ONCE, SET SOIL
LIMITS. -/

namespace Sys2Proof.Machine

/-- The operand K: 0 is absent and takes 16 (R59, R186). -/
def learnFrames (body : List Byte) : Nat := if field body 0 1 = 0 then 16 else field body 0 1

/-- A camera enters LEARNING, or a learning in progress restarts with its saved state kept (R59, R61). -/
def beginLearning (p : PortId) (k : Nat) (s : State) : State :=
  let m := s.soil[p]
  let saved := match m.state, m.learning with
    | .learning, some r => r.saved
    | other, _ => other
  updateSoil p false
    { m with
      state := .learning
      learning := some { target := k, taken := 0, sums := Vector.replicate 48 0, saved }
      abandoned := false } s

/-- The checks of R59 in their order, then the learning. -/
def actLearnReference (b : InHand) (s : State) : State × Ending :=
  match portOf b.target with
  | none => (s, .failed .badTarget 0)
  | some p =>
    let q := s.ports[p]
    if q.undefined ∨ q.state = .parked ∨ q.state = .lost then (s, .failed .notAllowedNow 0)
    else if b.body.length ≠ 4 then (s, badLength)
    else if 4 ≤ learnFrames b.body ∧ learnFrames b.body ≤ 32 then (beginLearning p (learnFrames b.body) s, .done)
    else (s, .failed .badValue 0)

/-- LEARN_REFERENCE (R59, R61). -/
def execLearnReference (s : State) : Host.Outcome State Fault Refusal := lane0Block .learnReference actLearnReference s

/-- A SET REFERENCE that passes its checks (R65). -/
def setReference (p : PortId) (reference : Vector Nat 48) (s : State) : State :=
  mark (.reference p) (updateSoil p true (Soil.adopt { s.soil[p] with abandoned := false } reference) s)

/-- The checks of R64 in their order, then R65. -/
def actSetReference (b : InHand) (s : State) : State × Ending :=
  match portOf b.target with
  | none => (s, .failed .badTarget 0)
  | some p =>
    if s.ports[p].undefined ∨ s.soil[p].state = .learning then (s, .failed .notAllowedNow 0)
    else if b.body.length ≠ 96 then (s, badLength)
    else (setReference p (referenceOf b.body) s, .done)

/-- SET_REFERENCE (R64, R65). -/
def execSetReference (s : State) : Host.Outcome State Fault Refusal := lane0Block .setReference actSetReference s

/-- MEASURE ONCE arms the one-shot flag of a defined port (R42, R186). -/
def actMeasureOnce (b : InHand) (s : State) : State × Ending :=
  match portOf b.target with
  | none => (s, .failed .badTarget 0)
  | some p =>
    if s.ports[p].undefined then (s, .failed .notAllowedNow 0)
    else if b.body.length ≠ 0 then (s, badLength)
    else (s.setSoil p { s.soil[p] with oneShot := true }, .done)

/-- MEASURE_ONCE (R42). -/
def execMeasureOnce (s : State) : Host.Outcome State Fault Refusal := lane0Block .measureOnce actMeasureOnce s

/-- New limits are taken; a rated state is derived again, and the soil record rewritten where it changes (R40). -/
def setLimits (p : PortId) (limits : SoilLimits) (s : State) : State :=
  let m := s.soil[p]
  let m1 := { m with limits, state := if m.state.rated then limits.derive m.score else m.state }
  if m1.state = m.state then s.setSoil p m1 else updateSoil p false m1 s

/-- The checks of R40 in their order, then the new limits. -/
def actSetSoilLimits (b : InHand) (s : State) : State × Ending :=
  match portOf b.target with
  | none => (s, .failed .badTarget 0)
  | some p =>
    if b.body.length ≠ 12 then (s, badLength)
    else if (limitsOf b.body s.soil[p].limits).consistent then
      (setLimits p (limitsOf b.body s.soil[p].limits) s, .done)
    else (s, .failed .badValue 0)

/-- SET_SOIL_LIMITS (R40). -/
def execSetSoilLimits (s : State) : Host.Outcome State Fault Refusal := lane0Block .setSoilLimits actSetSoilLimits s

end Sys2Proof.Machine
end

