-- ==== Sys2Proof/Machine/Dispatch.lean ====
section
/-! DEFINITION. The dispatch: one arm for each command, each a direct call of its meaning. -/

namespace Sys2Proof.Machine

def exec (i : Instr) (s : State) : Host.Outcome State Fault Refusal :=
  match i with
  | .powerOn => Sys2Proof.Machine.execPowerOn s
  | .linkReset => Sys2Proof.Machine.execLinkReset s
  | .frameOpen port count width height => Sys2Proof.Machine.execFrameOpen port count width height s
  | .line port number payload check => Sys2Proof.Machine.execLine port number payload check s
  | .frameClose port count => Sys2Proof.Machine.execFrameClose port count s
  | .unknownPacket port => Sys2Proof.Machine.execUnknownPacket port s
  | .silenceTimerExpiry port => Sys2Proof.Machine.execSilenceTimerExpiry port s
  | .evaluationService => Sys2Proof.Machine.execEvaluationService s
  | .frameStart display => Sys2Proof.Machine.execFrameStart display s
  | .frameEnd display => Sys2Proof.Machine.execFrameEnd display s
  | .holdExpiry display side => Sys2Proof.Machine.execHoldExpiry display side s
  | .doorLineEdge door level => Sys2Proof.Machine.execDoorLineEdge door level s
  | .debounceExpiry door => Sys2Proof.Machine.execDebounceExpiry door s
  | .areaLoWrite value => Sys2Proof.Machine.execAreaLoWrite value s
  | .areaHiWrite value => Sys2Proof.Machine.execAreaHiWrite value s
  | .areaSizeWrite value => Sys2Proof.Machine.execAreaSizeWrite value s
  | .statusRead => Sys2Proof.Machine.execStatusRead s
  | .resetCauseWrite value => Sys2Proof.Machine.execResetCauseWrite value s
  | .registerWrite register value => Sys2Proof.Machine.execRegisterWrite register value s
  | .runChain => Sys2Proof.Machine.execRunChain s
  | .haltLane => Sys2Proof.Machine.execHaltLane s
  | .acknowledge => Sys2Proof.Machine.execAcknowledge s
  | .restart => Sys2Proof.Machine.execRestart s
  | .wake => Sys2Proof.Machine.execWake s
  | .headerRead lane => Sys2Proof.Machine.execHeaderRead lane s
  | .skipWalk lane => Sys2Proof.Machine.execSkipWalk lane s
  | .defineCamera => Sys2Proof.Machine.execDefineCamera s
  | .parkCamera => Sys2Proof.Machine.execParkCamera s
  | .unparkCamera => Sys2Proof.Machine.execUnparkCamera s
  | .loadLayout => Sys2Proof.Machine.execLoadLayout s
  | .clearLayout => Sys2Proof.Machine.execClearLayout s
  | .selectLayout => Sys2Proof.Machine.execSelectLayout s
  | .setDisplay => Sys2Proof.Machine.execSetDisplay s
  | .setCab => Sys2Proof.Machine.execSetCab s
  | .learnReference => Sys2Proof.Machine.execLearnReference s
  | .setReference => Sys2Proof.Machine.execSetReference s
  | .measureOnce => Sys2Proof.Machine.execMeasureOnce s
  | .setSoilLimits => Sys2Proof.Machine.execSetSoilLimits s
  | .setDoorPolicy => Sys2Proof.Machine.execSetDoorPolicy s
  | .enterStabling => Sys2Proof.Machine.execEnterStabling s
  | .exportFrame => Sys2Proof.Machine.execExportFrame s
  | .exportScreen => Sys2Proof.Machine.execExportScreen s
  | .exportFrameRow => Sys2Proof.Machine.execExportFrameRow s
  | .exportScreenRow => Sys2Proof.Machine.execExportScreenRow s
  | .attentionWrite value => Sys2Proof.Machine.execAttentionWrite value s
  | .badCode => Sys2Proof.Machine.execBadCode s

end Sys2Proof.Machine
end

