-- ==== Sys2Proof/Safety.lean ====
section
/-! DEFINITION. What counts as a safe state of the CJ1204: the properties the data book promises at all times, each a predicate
on one state, and the steps that reach no fault. -/

namespace Sys2Proof

open Machine

/-- The step of a state stops with no fault. -/
def Safety.StepsOn (s : State) : Prop := ∀ r, step s ≠ .fault r

/-- Both memories have their canonical form. -/
def Safety.MemoryCanonical (s : State) : Prop := s.frameMem.wf ∧ s.bus.mem.wf

/-- A door is on RIGHT under an active cab, else on LEFT: doors 1 to 4, of physical side A, under cab A, doors 5 to 8 under cab B
(R111). -/
def Safety.OnRight (cab : AB) (d : DoorId) : Prop := d.val < 4 ↔ cab = .a

/-- LEFT CLEAR and RIGHT CLEAR are active exactly when R141 says so. -/
def Safety.LinesExact (s : State) : Prop :=
  (s.clear.left = true ↔
    s.mode = .run ∧ ∃ cab, s.cab = some cab ∧
      ∀ d : DoorId, ¬ OnRight cab d → s.doors[d].isolated = false →
        (s.doors[d].state = .shut ∨ ∃ t, s.doors[d].state = .assured t)) ∧
  (s.clear.right = true ↔
    s.mode = .run ∧ ∃ cab, s.cab = some cab ∧
      ∀ d : DoorId, OnRight cab d → s.doors[d].isolated = false →
        (s.doors[d].state = .shut ∨ ∃ t, s.doors[d].state = .assured t))

/-- A door is SHUT exactly while its debounced level is inactive (R130). -/
def Safety.DoorsFollowLevels (s : State) : Prop := ∀ d : DoorId, s.doors[d].state = .shut ↔ s.doors[d].level = false

/-- A frame of these dimensions is no larger than the largest a camera record allows (section 1.2 of chapter 1, R23). -/
def Safety.FrameSize (width height : Nat) : Prop := width ≤ 1280 ∧ height ≤ 768

/-- Every camera record, slot, export of a frame and shown tile has a frame size a camera record allows. -/
def Safety.FramesInBounds (s : State) : Prop :=
  (∀ p : PortId, FrameSize s.ports[p].camera.width s.ports[p].camera.height) ∧
  (∀ (p : PortId) (i : SlotId), FrameSize s.store[p].slots[i].width s.store[p].slots[i].height) ∧
  (∀ p ops i w h c t n, s.mover = .moving p ops i w h c t n → FrameSize w h) ∧
  (∀ (d : DisplayId), ∀ t ∈ s.displays[d].tiles, ∀ v, t.shown = some v → FrameSize v.width v.height)

/-- The soil counters, scores and interval counts stay in their ranges and the evaluation queue holds at most four entries
(R43, R46, R53, R55). -/
def Safety.SoilInRange (s : State) : Prop :=
  s.evalQueue.length ≤ 4 ∧
  ∀ p : PortId, s.soil[p].score ≤ 100 ∧ s.soil[p].intervalCount ≤ 254 ∧ ∀ i : Fin 48, s.soil[p].counters[i] ≤ 63

/-- Each lane's queue holds at most four heads, and no chain in hand stands past its 256th block (R166). -/
def Safety.LanesInRange (s : State) : Prop :=
  ∀ l : LaneId, s.lanes[l].queue.length ≤ 4 ∧ ∀ c, s.lanes[l].state = .running c → c.position ≤ 256

/-- IV is set only while the notice word is non-empty (R175). -/
def Safety.IvHasNotice (s : State) : Prop := s.reports.iv = true → s.reports.notice ≠ 0

/-- An UNDEFINED port is PARKED (section 1.2 of chapter 1), no entry of a PARKED port stands in the evaluation queue (R48),
and while the part is STABLED every port is PARKED and every door SHUT (R183, R184). -/
def Safety.ParkedWhereOff (s : State) : Prop :=
  (∀ p : PortId, s.ports[p].undefined = true → s.ports[p].state = .parked) ∧
  (∀ e ∈ s.evalQueue, s.ports[e.port].state ≠ .parked) ∧
  (s.mode = .stabled → (∀ p : PortId, s.ports[p].state = .parked) ∧ ∀ d : DoorId, s.doors[d].state = .shut)

/-- The slots of a port with its frame in progress (R10, R24, R25): the frame's slot is the one slot FILLING; a FILLING slot
is unlocked and a locked slot READY; a discard mark stands on READY locked slots only; the ready order holds each READY
slot without a mark once. -/
def Safety.PortSlots (q : StorePort) (frame : Option FrameInProgress) : Prop :=
  (∀ i : SlotId, q.slots[i].state = .filling ↔ ∃ f, frame = some f ∧ f.slot = i) ∧
  (∀ i : SlotId, q.slots[i].locks.isEmpty = false → q.slots[i].state = .ready) ∧
  (∀ i : SlotId, q.slots[i].discard = true → q.slots[i].locks.isEmpty = false) ∧
  q.order.Nodup ∧
  (∀ i : SlotId, i ∈ q.order ↔ q.slots[i].state = .ready ∧ q.slots[i].discard = false)

/-- The slots of every port are as R24 and R25 say, and a PARKED port receives no frame (R5, R10). -/
def Safety.SlotsCoherent (s : State) : Prop :=
  ∀ p : PortId, PortSlots s.store[p] s.ports[p].frame ∧ (s.ports[p].state = .parked → s.ports[p].frame = none)

/-- Who holds slot locks (R27, R31, R32): a display only within a frame of its own, and at most one slot of a port; the
Export Mover only the slot it is moving. -/
def Safety.HoldersBounded (s : State) : Prop :=
  (∀ d : DisplayId, s.displays[d].configured = false → s.displays[d].timing = none) ∧
  (∀ (d : DisplayId) (p : PortId) (i : SlotId), s.store[p].slots[i].locks.mem (.display d) = true →
    ∃ t, s.displays[d].timing = some t ∧ t.ended = false) ∧
  (∀ (d : DisplayId) (p : PortId) (i j : SlotId), s.store[p].slots[i].locks.mem (.display d) = true →
    s.store[p].slots[j].locks.mem (.display d) = true → i = j) ∧
  (∀ (p : PortId) (i : SlotId), s.store[p].slots[i].locks.mem .mover = true →
    ∃ ops w h c t n, s.mover = .moving p ops i w h c t n)

/-- The Export Mover is IDLE when lane 1 has no block in hand (R145). -/
def Safety.MoverHasBlock (s : State) : Prop := s.mover ≠ .idle → (inHand s 1).isSome = true

/-- A door is SHUT exactly while its level is inactive, and VIEWING or ASSURED only while a cab is active (R130, R135). -/
def Safety.ViewsNeedCab (s : State) : Prop :=
  DoorsFollowLevels s ∧
  ∀ d : DoorId, (∃ t, s.doors[d].state = .viewing t ∨ s.doors[d].state = .assured t) → s.cab ≠ none

/-- A display that is not of the active cab has an all-false stored vector (R132). -/
def Safety.VerdictsOfCab (s : State) : Prop :=
  ∀ (d : DisplayId) (k : DoorId), s.cab ≠ some (cabOf d) → s.stored[d][k] = none

/-- The side status of an override display follows its side's calling (R121). -/
def Safety.StatusFollows (calls : Bool) (t : SideStatus) : Prop := t = .called ↔ calls = true

/-- The calling set last handed is the one R116 gives; override displays follow it (R121), every other display has both
sides IDLE (R117), and an unconfigured display's door-screen flag is clear (R89). -/
def Safety.OverridesFollow (s : State) : Prop :=
  s.calling = callingSet s ∧
  ∀ d : DisplayId,
    (isOverrideDisplay s d = true →
      StatusFollows s.calling.left s.displays[d].left ∧ StatusFollows s.calling.right s.displays[d].right) ∧
    (isOverrideDisplay s d = false → s.displays[d].left = .idle ∧ s.displays[d].right = .idle) ∧
    (s.displays[d].configured = false → s.displays[d].settings.doorScreen = false)

/-- A block stands where R168 lets it: on a multiple of 32, past the report region, its header within the area. -/
def Safety.Placed (s : State) (block : Word) : Prop :=
  block.toNat % 32 = 0 ∧ 8192 ≤ block.toNat ∧ block.toNat + 32 ≤ areaBytes s

/-- A block in hand stands where R168 lets a block stand. -/
def Safety.BlocksPlaced (s : State) : Prop := ∀ (l : LaneId) c b, inHand s l = some (c, b) → Placed s c.block

/-- A halt waits for its safe point only behind an export that has written its last row (R154, R163). -/
def Safety.HaltsSettled (s : State) : Prop :=
  s.lanes[(0 : LaneId)].halting = none ∧
  (s.lanes[(1 : LaneId)].halting ≠ none → s.mover.allRows = true ∧ (inHand s 1).isSome = true)

/-- No record waits to be written between two events (R172). -/
def Safety.NothingDue (s : State) : Prop := s.reports.due = []

/-! ## What an event leaves with the Report Writer (R172 to R175) -/

/-- The state stands between two events, and the link will complete every transaction. -/
def Safety.Calm (s : State) : Prop := NothingDue s ∧ s.bus.fate = []

/-- A record stands in the report region as the state gives it, its edition at both its ends (R173). -/
def Safety.RecordStands (s : State) (r : Record) : Prop :=
  s.bus.mem.readBytes (areaBase s + r.offset) r.size =
    leBytes 2 s.reports.editions[r.index].toNat ++ recordContents s r ++ leBytes 2 s.reports.editions[r.index].toNat

/-- The notice word after some notices have been raised: with the area invalid they are discarded (R174). -/
def Safety.noticed (s : State) (ns : List Notice) : BitVec 11 :=
  bif s.window.areaValid then ns.foldl (fun w n => w ||| n.mask) s.reports.notice else s.reports.notice

/-- The records an event writes: while reports flow, those its rules name, and the part record where the notice word changes
(R172, R174). -/
def Safety.writtenRecords (s : State) (ns : List Notice) (rs : List Record) : List Record :=
  if reportsFlow s then (if noticed s ns = s.reports.notice then rs else .part :: rs) else []

/-- From `s`, the state an event has made but for its reports, to `t`, the state it leaves: the notices `ns` have been raised,
the records `rs` written with the contents of `t` and the next edition, IV settled, and no other byte of host memory and
nothing else of the Report Writer has changed (R172 to R175). -/
def Safety.Reported (s t : State) (ns : List Notice) (rs : List Record) : Prop :=
  t.reports.notice = noticed s ns ∧ t.reports.fault = s.reports.fault ∧ t.reports.suspended = s.reports.suspended ∧
  t.reports.announce = s.reports.announce ∧ t.reports.due = [] ∧ t.bus.fate = s.bus.fate ∧
  t.reports.iv = (s.reports.iv || reportsFlow s && decide (noticed s ns ≠ 0)) ∧
  t.bus.interrupts = s.bus.interrupts + (t.reports.iv && !s.reports.iv).toNat ∧
  (∀ r : Record, t.reports.editions[r.index] =
    s.reports.editions[r.index] + if r ∈ writtenRecords s ns rs then 1 else 0) ∧
  (∀ d : DisplayId, t.reports.lastOverride[d] =
    if Record.display d ∈ writtenRecords s ns rs then t.displays[d].startOverride else s.reports.lastOverride[d]) ∧
  (∀ r ∈ writtenRecords s ns rs, RecordStands t r) ∧
  (∀ x, (∀ r ∈ writtenRecords s ns rs, x < areaBase s + r.offset ∨ areaBase s + r.offset + r.size ≤ x) →
    t.bus.mem.read x = s.bus.mem.read x)

/-! ## The ending of a block (R167 to R169) -/

/-- A lane has a block of a kind in hand between two events of a part whose link completes. -/
def Safety.BlockInHand (s : State) (l : LaneId) (k : Kind) (c : Chain) (b : InHand) : Prop :=
  inHand s l = some (c, b) ∧ b.kind = k.code ∧ Calm s

/-- The state with a run of bytes written to host memory. -/
def Safety.hostWritten (s : State) (a : Nat) (bs : List Byte) : State :=
  { s with bus := { s.bus with mem := s.bus.mem.write a bs } }

/-- The state with some runs of bytes written to host memory, one after another. -/
def Safety.allWritten (s : State) (ws : List (Nat × List Byte)) : State := ws.foldl (fun t w => hostWritten t w.1 w.2) s

/-- The outcomes of a link that completes `k` transactions and fails the next after `landed` bytes of it. -/
def Safety.failsAt (k landed : Nat) : List LinkOutcome := List.replicate k .completed ++ [.failed landed]

/-- The state with the first `k` of some writes made and the next one cut short after `landed` bytes, nothing further known of the
link (R153). -/
def Safety.cutShort (s : State) (ws : List (Nat × List Byte)) (k landed : Nat) : State :=
  let t := allWritten s (ws.take k ++ ((ws.drop k).take 1).map fun w => (w.1, w.2.take landed))
  { t with bus := { t.bus with fate := [] } }

/-- The writes of a block's ending: reason, reason detail and completion stamp, then the status (R167). -/
def Safety.endingList (s : State) (block : Word) (e : Ending) : List (Nat × List Byte) :=
  let a := areaBase s + block.toNat
  [(a + 1, [byte e.reason]), (a + 2, [byte e.detail]), (a + 12, leBytes 4 s.clock.toNat), (a, [byte e.status])]

/-- The state with the first `k` writes of an ending made and the next one failed: cut short after `landed` bytes, but for the
status, of which nothing lands, since the block then holds no final status (R170). -/
def Safety.cutEnding (s : State) (block : Word) (e : Ending) (k landed : Nat) : State :=
  cutShort s (endingList s block e) k (if k = 3 then 0 else landed)

/-- The state with host memory holding the ending of a block (R167). -/
def Safety.endingWritten (s : State) (block : Word) (e : Ending) : State := allWritten s (endingList s block e)

/-- Where a lane stands after its chain has ended: at the oldest queued head, or IDLE (R166). -/
def Safety.laneFree (v : Lane) : Lane :=
  match v.queue with
  | [] => { v with state := .idle }
  | h :: rest => { v with queue := rest, state := .running { head := h, block := h, position := 0, phase := .reach } }

/-- The lane after a block of its chain has ended, no halt pending: the ending is counted, and the lane goes on to the next
block, into the skip walk, or off the chain (R166, R169). -/
def Safety.laneAfter (v : Lane) (c : Chain) (haltOnFail : Bool) (next : Word) (e : Ending) : Lane :=
  match e with
  | .done =>
    if next = 0 then laneFree { v with done := v.done + 1 }
    else { v with done := v.done + 1, state := .running { c with block := next, phase := .reach } }
  | .failed r _ =>
    if next = 0 ∨ r = .chainTooLong then laneFree { v with failed := v.failed + 1 }
    else { v with
      failed := v.failed + 1
      state := .running { c with block := next, phase := if haltOnFail then .skip else .reach } }
  | .skipped =>
    if next = 0 then laneFree { v with skipped := v.skipped + 1 }
    else { v with skipped := v.skipped + 1, state := .running { c with block := next, phase := .skip } }

/-- A lane that a halt has stopped at its safe point: its counters cleared by a restart, the lane IDLE or, where a head has come
since the halt, at that head (R163, R164, R166). -/
def Safety.laneHalted (v : Lane) (h : Halt) : Lane :=
  laneFree { v with
    halting := none
    done := if h.zero then 0 else v.done
    failed := if h.zero then 0 else v.failed
    skipped := if h.zero then 0 else v.skipped }

/-- The lane after a block has ended: a halt that waited for this safe point stops it, the ending counted; else it goes on along
its chain (R154, R163, R169). -/
def Safety.laneLeft (v : Lane) (c : Chain) (haltOnFail : Bool) (next : Word) (e : Ending) : Lane :=
  match v.halting with
  | none => laneAfter v c haltOnFail next e
  | some h =>
    match e with
    | .done => laneHalted { v with done := v.done + 1 } h
    | .failed _ _ => laneHalted { v with failed := v.failed + 1 } h
    | .skipped => laneHalted { v with skipped := v.skipped + 1 } h

/-- The notices of a block that ends: its lane's, where it has NOTIFY (R168). -/
def Safety.endNotices (l : LaneId) (notify : Bool) : List Notice :=
  if notify then [if l = 0 then .lane0Done else .lane1Done] else []

/-- The notice of a halt that waited for a lane's safe point (R163). -/
def Safety.haltNotices (v : Lane) : List Notice :=
  match v.halting with
  | none => []
  | some h => if h.announce then [.laneHalted] else []

/-- From `s` to `t` a block of a lane, of these flags and next field, has ended: its ending stands in its header, the lane has
counted it and gone on, and besides the lane's own the notices `ns` and the records `rs` of the block's action have been given
(R167 to R169). -/
def Safety.BlockEnds (l : LaneId) (s t : State) (c : Chain) (notify haltOnFail : Bool) (next : Word) (e : Ending)
    (ns : List Notice) (rs : List Record) : Prop :=
  t.lanes = s.lanes.set l (laneLeft s.lanes[l] c haltOnFail next e) ∧
  Reported (endingWritten s c.block e) t (ns ++ endNotices l notify ++ haltNotices s.lanes[l]) (.lane l :: rs)

/-- The block in hand of lane 0 has ended; see `BlockEnds`. -/
def Safety.BlockDone (s t : State) (c : Chain) (b : InHand) (e : Ending) (ns : List Notice) (rs : List Record) : Prop :=
  BlockEnds 0 s t c b.notify b.haltOnFail b.next e ns rs

/-- A command ends the lane 0 block in hand with an ending and leaves everything but the lane, the reports and the block's
header as it was. -/
def Safety.OnlyEnds (i : Instr) (s : State) (c : Chain) (b : InHand) (e : Ending) : Prop :=
  ∃ t, exec i s = .next t ∧ t = { s with lanes := t.lanes, reports := t.reports, bus := t.bus } ∧ BlockDone s t c b e [] []

/-! ## What a park or restart does to a port's slots, and the loss of a holder (R33, R34) -/

/-- The slots of a port that has been parked or restarted: READY slots with holders wait under the discard mark, every other
slot in use is EMPTY, and the ready order is empty (R28, R34). -/
def Safety.SlotsWithdrawn (q r : StorePort) : Prop :=
  r.order = [] ∧ ∀ i : SlotId, r.slots[i] =
    match q.slots[i].state with
    | .empty => q.slots[i]
    | .filling => { q.slots[i] with state := .empty, discard := false }
    | .ready =>
      if q.slots[i].locks.isEmpty then { q.slots[i] with state := .empty, discard := false }
      else { q.slots[i] with discard := true }

/-- A slot that a holder has left: with the discard mark and no holder left it is EMPTY (R33). -/
def Safety.SlotLeft (h : Holder) (q r : Slot) : Prop :=
  r = if q.locks.mem h && (q.locks.remove h).isEmpty && q.discard
    then { q with locks := q.locks.remove h, state := .empty, discard := false }
    else { q with locks := q.locks.remove h }

/-- The frame store that a holder has left: every slot as `SlotLeft` says, the ready orders as they were (R31 to R33). -/
def Safety.StoreLeft (h : Holder) (s t : State) : Prop :=
  ∀ p : PortId, t.store[p].order = s.store[p].order ∧ ∀ i : SlotId, SlotLeft h s.store[p].slots[i] t.store[p].slots[i]

/-- The slots of a port once the frame that filled one of them has been given up: that slot is EMPTY (R24, R28). -/
def Safety.slotDropped (q : StorePort) (i : SlotId) : StorePort :=
  { q with slots := q.slots.set i { q.slots[i] with state := .empty, discard := false } }

/-! ## Soil (R56, R62, R63, R65) -/

/-- The soil state a score gives (R56). -/
def Safety.stateOfScore (limits : SoilLimits) (score : Nat) : SoilState :=
  if score < limits.warn then .clean else if score < limits.blind then .smeared else .blinded

/-- The soil monitor's state after a learning in progress has been abandoned (R63). -/
def Safety.learningDropped (m : Soil) : Soil :=
  match m.learning with
  | none => m
  | some r =>
    { m with
      learning := none
      abandoned := true
      state := if r.saved = .clean ∨ r.saved = .smeared ∨ r.saved = .blinded then stateOfScore m.limits m.score else r.saved }

/-- The notices and records of an abandoned learning (R63). -/
def Safety.dropNotices (m : Soil) : List Notice := if m.learning.isSome then [.soil] else []

def Safety.dropRecords (p : PortId) (m : Soil) : List Record := if m.learning.isSome then [.soil p] else []

/-- The soil monitor's state with a new reference: the map counted afresh, counters and flags clear, CLEAN with score 0, or
UNLEARNED where no cell is informative (R62, R65). -/
def Safety.withReference (m : Soil) (reference : Vector Nat 48) : Soil :=
  { m with
    reference
    informative := Vector.ofFn fun i => decide (m.limits.minReference ≤ reference[i])
    counters := Vector.replicate 48 0
    blocked := Vector.replicate 48 false
    suspended := false
    learning := none
    score := 0
    state := if ∃ i : Fin 48, m.limits.minReference ≤ reference[i] then .clean else .unlearned }

/-! ## Lines of a frame (R14, R15, R17) -/

/-- What a patched line holds at an offset: mid-grey for a run that starts at line 0, else the byte of the last line in place
(R14, R15). -/
def Safety.patchByte (s : State) (p : PortId) (f : FrameInProgress) (o : Nat) : Byte :=
  if f.next = 0 then 128 else s.frameMem.read (lineBase p f.slot s.ports[p].camera.width (f.next - 1) + o)

/-- The lines from the next expected one up to line `n` hold the patch, and frame memory outside the lines up to `stop` is as
it was. -/
def Safety.LinesPatched (s t : State) (p : PortId) (f : FrameInProgress) (n stop : Nat) : Prop :=
  (∀ j o, f.next ≤ j → j < n → o < 2 * s.ports[p].camera.width →
    t.frameMem.read (lineBase p f.slot s.ports[p].camera.width j + o) = patchByte s p f o) ∧
  (∀ x, x < lineBase p f.slot s.ports[p].camera.width f.next ∨ lineBase p f.slot s.ports[p].camera.width stop ≤ x →
    t.frameMem.read x = s.frameMem.read x)

/-! ## Tiles (R94 to R98) -/

/-- A drawn tile that shows nothing takes a fill (R96). -/
def Safety.Filled (t : FrameTile) (fill : Fill) : Prop :=
  t.shown = none ∧ t.fill = fill ∧ t.stale = false ∧ t.badge = .none

/-- A drawn tile whose chosen source is a LIVE port: it shows the port's newest READY slot with its age and marks, or takes the
striped fill where the port has none (R95 to R98). -/
def Safety.Shows (s : State) (t : FrameTile) (q : PortId) (alternate : Bool) : Prop :=
  match s.store[q].order.getLast? with
  | none => Filled t .striped
  | some i =>
    t.shown = some { port := q, alternate, slot := i, width := s.store[q].slots[i].width, height := s.store[q].slots[i].height,
                     age := since s.clock s.store[q].slots[i].stamp } ∧
    t.fill = .none ∧ t.stale = decide (t.tile.maxAge < since s.clock s.store[q].slots[i].stamp) ∧
    t.badge = match s.soil[q].state with
      | .blinded => .blinded
      | .smeared => .smeared
      | .unlearned => .none
      | .learning => .none
      | .clean => .none

/-! ## Doors, sides and wake (R116 to R119, R133 to R137, R184) -/

/-- The side status of an override display after its side's calling has gone from `was` to `now` (R118, R119). -/
def Safety.sideStepped (was now : Bool) (clock : Stamp) (hold : Nat) (t : SideStatus) : SideStatus :=
  if was = now then t
  else if now then .called
  else if t = .called then (if hold = 0 then .idle else .held (stampAfter clock hold))
  else t

/-- After a change of doors the calling set and the lines are those of the doors, and every override display has handled the
sides that changed (R116, R118, R119, R141, R142). -/
def Safety.SidesFollow (s t : State) : Prop :=
  t.calling = callingSet t ∧ t.clear = clearLines t ∧
  ∀ d : DisplayId, t.displays[d] =
    if isOverrideDisplay s d then
      { s.displays[d] with
        left := sideStepped s.calling.left t.calling.left s.clock s.displays[d].settings.hold s.displays[d].left
        right := sideStepped s.calling.right t.calling.right s.clock s.displays[d].settings.hold s.displays[d].right }
    else s.displays[d]

/-- The debounced level of a door has become `level`: the door is OPENED with its opened stamp, or SHUT (R127, R133, R137). -/
def Safety.DoorTaken (s t : State) (k : DoorId) (level : Bool) : Prop :=
  t.doors = s.doors.set k
    { s.doors[k] with
      raw := level, timer := none, level
      state := if level then .opened else .shut
      opened := if level then some s.clock else s.doors[k].opened } ∧
  SidesFollow s t

/-- The CLEAR notice of a change of lines (R141). -/
def Safety.clearNotices (s t : State) : List Notice := if t.clear = s.clear then [] else [.clear]

/-- The code of a door state in the door record (section 12.5). -/
def Safety.doorNumber : DoorState → Nat
  | .shut => 0
  | .opened => 1
  | .viewing _ => 2
  | .assured _ => 3

/-- The DOOR notice of a change of door states (R143). -/
def Safety.doorNotices (s t : State) : List Notice :=
  if ∃ k : DoorId, doorNumber t.doors[k].state ≠ doorNumber s.doors[k].state then [.door] else []

/-- The part record of a change of lines (R141). -/
def Safety.clearRecords (s t : State) : List Record := if t.clear = s.clear then [] else [.part]

/-- The records of the doors whose contents changed (R143). -/
def Safety.doorRecords (s t : State) : List Record :=
  ((List.finRange 8).filter fun k => decide (t.doors[k] ≠ s.doors[k])).map .door

/-- A port that a wake brings back: recorded, defined and PARKED (R184). -/
def Safety.wakes (s : State) (q : PortId) : Bool :=
  s.wakeRecord[q] && !s.ports[q].undefined && decide (s.ports[q].state = .parked)

/-- The part has woken from STABLED (R184, steps 1 to 3). -/
def Safety.Woken (s t : State) (cause : WakeCause) : Prop :=
  t.mode = .run ∧ t.wakeCause = cause ∧ t.wakeRecord = Vector.replicate 12 false ∧
  ∀ q : PortId, t.ports[q] =
    if wakes s q then { s.ports[q] with state := .seeking, frame := none, silence := none } else s.ports[q]

/-- The CAMERA notice of a wake that brings a port back (R184). -/
def Safety.wakeNotices (s : State) : List Notice := if ∃ q : PortId, wakes s q = true then [.camera] else []

/-- The camera records of the ports a wake brings back (R184). -/
def Safety.wakeRecords (s : State) : List Record := ((List.finRange 12).filter (wakes s)).map .camera

/-- The step of one door at a frame start of a display of the active cab; `view` is its qualifying view (R134 to R136, R139). -/
def Safety.DoorStepped (stamp : Stamp) (view : Option (DisplayId × Nat)) (r r' : Door) : Prop :=
  match r.state, view with
  | .shut, _ => r' = r
  | .opened, none => r' = r
  | .opened, some _ => r' = { r with state := .viewing stamp, lastView := view }
  | .viewing t, some _ =>
    if r.dwell ≤ since stamp t then r' = { r with state := .assured t, lastView := view } else r' = r
  | .assured _, some _ => r' = r
  | .viewing _, none => r' = { r with state := .opened, lapses := min (r.lapses + 1) 65535 }
  | .assured _, none => r' = { r with state := .opened, lapses := min (r.lapses + 1) 65535 }

/-! ## The frame start of a display (R92, R93, R95, R100, R101, R109, R132) -/

/-- A display's frame start finds its cab active and the part in RUN (R88). -/
def Safety.startsLive (s : State) (d : DisplayId) : Prop := s.cab = some (cabOf d) ∧ s.mode = .run

/-- The slot a display shows: the door layout its override calls for, or the selected one (R93, R123). -/
def Safety.shownLayout (p : Display) : LayoutId :=
  match p.override with
  | .none => p.selected
  | .left => p.settings.doorLeft.getD p.selected
  | .right => p.settings.doorRight.getD p.selected
  | .both => p.settings.doorBoth.getD p.selected

/-- From `s` to `t` a display has taken a frame start with the tiles given: the pipe, the stored vector, the locks, and the
doors' steps where the display is of the active cab. -/
def Safety.FrameTaken (s t : State) (d : DisplayId) (live : Bool) (tiles : List FrameTile) : Prop :=
  let p := s.displays[d]
  let vector := verdictVector s p.settings tiles
  t.displays = s.displays.set d
    { p with
      live
      timing := some { start := s.clock, period := p.settings.period, ended := false }
      frameCount := p.frameCount + 1
      tiles
      frameWidth := p.settings.width
      frameHeight := p.settings.height
      blinkOn := decide (p.frameCount.toNat % 2 ^ p.settings.blinkN < p.settings.blinkD)
      verdicts := Vector.ofFn fun k => (vector[k]).isSome
      effective := if live then shownLayout p else p.effective
      startOverride := p.override } ∧
  t.stored = s.stored.set d vector ∧
  (∀ (q : PortId), t.store[q].order = s.store[q].order ∧ ∀ i : SlotId, t.store[q].slots[i] =
    if ∃ f ∈ tiles, ∃ v, f.shown = some v ∧ v.port = q ∧ v.slot = i then
      { s.store[q].slots[i] with locks := s.store[q].slots[i].locks.add (.display d) }
    else s.store[q].slots[i]) ∧
  (s.cab ≠ some (cabOf d) → t.doors = s.doors ∧ t.clear = s.clear) ∧
  (s.cab = some (cabOf d) → t.clear = clearLines t ∧
    ∀ k : DoorId, DoorStepped s.clock (qualifyingView t (cabOf d) k) s.doors[k] t.doors[k])

/-- The display record is due at a frame start other than the first (R109). -/
def Safety.displayRecords (s t : State) (d : DisplayId) : List Record :=
  if t.displays[d].frameCount.toNat % 16 = 0 ∨ s.displays[d].timing = none ∨ t.displays[d].live ≠ s.displays[d].live ∨
      t.displays[d].effective ≠ s.displays[d].effective ∨ t.displays[d].startOverride ≠ s.reports.lastOverride[d]
    then [.display d] else []

/-! ## Attention words, halts and restarts (R161 to R165) -/

/-- A captured word of a code stands in ATTENTION, with the COMMAND value captured beside it (R161). -/
def Safety.Captured (s : State) (w head : Word) (code : Nat) : Prop :=
  s.window.attention = some (w, head) ∧ attentionCode w = code

/-- The state with the captured word taken: BUSY is clear (R161). -/
def Safety.wordTaken (s : State) : State := { s with window := { s.window with attention := none } }

/-- The state with the captured word dropped for a reason (R159, R161). -/
def Safety.wordDropped (s : State) (reason : DropReason) : State :=
  { s with window := { s.window with attention := none, dropped := true, dropReason := reason } }

/-- A lane that has stopped at a halt: IDLE, its queue empty; a restart clears its counters (R163, R164). -/
def Safety.laneStopped (v : Lane) (zero : Bool) : Lane :=
  { v with
    queue := []
    state := .idle
    halting := none
    done := if zero then 0 else v.done
    failed := if zero then 0 else v.failed
    skipped := if zero then 0 else v.skipped }

/-- The lane record of a lane that a halt found IDLE with no queued head and, at a restart, with its counters at 0 is not
rewritten; any other is (R166). -/
def Safety.stopRecords (l : LaneId) (v : Lane) (zero : Bool) : List Record :=
  if v.contents = (laneStopped v zero).contents then [] else [.lane l]

/-- A lane's queue with a head at its newest end, taken up at once by an IDLE lane (R162, R166). -/
def Safety.laneAppended (v : Lane) (head : Word) : Lane :=
  if v.state = .idle then laneFree { v with queue := v.queue ++ [head] } else { v with queue := v.queue ++ [head] }

/-! ## Walks, lane faults and exports (R147, R168 to R170) -/

/-- A lane is about to reach a block in a phase of its walk, no halt pending, between two events. -/
def Safety.Walks (s : State) (l : LaneId) (phase : LanePhase) (c : Chain) : Prop :=
  s.lanes[l].state = .running c ∧ c.phase = phase ∧ s.lanes[l].halting = none ∧ NothingDue s

/-- The fault record after a fault: an empty one takes the entry, an occupied one counts it (R177). -/
def Safety.faultTaken (s : State) (cause : FaultCause) (lane : Option LaneId) (offset : Nat) : Option FaultEntry :=
  some (match s.reports.fault with
    | none => { cause, lane, offset, stamp := s.clock, further := 0 }
    | some e => { e with further := min (e.further + 1) 65535 })

/-- The state with a fault in its fault record. -/
def Safety.faulted (s : State) (cause : FaultCause) (lane : Option LaneId) (offset : Nat) : State :=
  { s with reports := { s.reports with fault := faultTaken s cause lane offset } }

/-- From `s` to `t` a lane has faulted at a block, no halt pending: it is FAULTED, the fault record has the cause, and FAULT is
raised (R170, R177). -/
def Safety.LaneFaults (l : LaneId) (s t : State) (cause : FaultCause) (block : Word) : Prop :=
  t = { s with lanes := t.lanes, reports := t.reports, bus := t.bus } ∧
  t.lanes = s.lanes.set l { s.lanes[l] with state := .faulted } ∧
  Reported (faulted s cause (some l) block.toNat) t [.fault] [.fault, .lane l]

/-- A command ends the block in hand of lane 1 with an ending and leaves everything but the lane, the reports and the block's
header as it was. -/
def Safety.ExportEnds (i : Instr) (s : State) (c : Chain) (b : InHand) (e : Ending) : Prop :=
  ∃ t, exec i s = .next t ∧ t = { s with lanes := t.lanes, reports := t.reports, bus := t.bus } ∧
    BlockEnds 1 s t c b.notify b.haltOnFail b.next e [] []

/-- The four fields a completed export writes into its block's body: frame count, stamp, width and height (R147, R151, section
12.3). -/
def Safety.fieldList (s : State) (block : Word) (count : Nat) (stamp : Stamp) (width height : Nat) : List (Nat × List Byte) :=
  let a := areaBase s + block.toNat
  [(a + 48, leBytes 4 count), (a + 52, leBytes 4 stamp.toNat), (a + 56, leBytes 2 width), (a + 58, leBytes 2 height)]

/-- The notices of an export block of lane 1 that ends. -/
def Safety.exportNotices (s : State) (b : InHand) : List Notice := endNotices 1 b.notify ++ haltNotices s.lanes[(1 : LaneId)]

/-- The state with the export block of lane 1 ended: its ending in its header, the lane gone on, the export record IDLE (R145,
R152, R167). -/
def Safety.exportEnded (s : State) (c : Chain) (b : InHand) (e : Ending) : State :=
  { endingWritten s c.block e with
    lanes := s.lanes.set 1 (laneLeft s.lanes[(1 : LaneId)] c b.haltOnFail b.next e)
    mover := .idle }

/-- How the writes of a failed export's ending go: all of them made, or the first `k` and the next one failed. -/
abbrev Safety.EndingFate := Option (Fin 4 × Nat)

/-- The outcomes of the link for those writes. -/
def Safety.EndingFate.outcomes : EndingFate → List LinkOutcome
  | none => []
  | some (k, landed) => failsAt k landed

/-- From `s`, which has what the link took of an export's writes, to `t`: a write failed, and lane 1 is FAULTED, or stopped where a
halt waited. The block ends FAILED HOST_WRITE and is counted, or, where a write of that ending fails too, holds no final status: the
fault is counted as a further one, the lane's counters stand and no notice of the block is raised (R153, R163, R170, R177). -/
def Safety.ExportBreaks (s t : State) (c : Chain) (b : InHand) (ending : EndingFate) : Prop :=
  let v := s.lanes[(1 : LaneId)]
  let left (w : Lane) : Lane := match v.halting with
    | none => { w with state := .faulted }
    | some h => laneHalted w h
  let once := faulted s .hostWrite (some 1) c.block.toNat
  match ending with
  | none =>
    t.lanes = s.lanes.set 1 (left { v with failed := v.failed + 1 }) ∧
    Reported (endingWritten once c.block (.failed .hostWrite 0)) t (.fault :: exportNotices s b) [.fault, .lane 1]
  | some (k, landed) =>
    t.lanes = s.lanes.set 1 (left v) ∧
    Reported (cutEnding (faulted once .hostWrite (some 1) c.block.toNat) c.block (.failed .hostWrite 0) k landed) t
      (.fault :: haltNotices v) [.fault, .lane 1]

/-- The display whose screen an export awaits or copies (R149, R150). -/
def Safety.screenOf : Export → Option DisplayId
  | .idle => none
  | .moving _ _ _ _ _ _ _ _ => none
  | .waiting d _ => some d
  | .copying d _ _ _ _ _ _ => some d

/-! ## A restart of everything (R164) -/

/-- The part RESTART 15 plays on a lane: the block in hand has ended and the lane is stopped, its counters 0, or, behind an export
whose rows are all written, the stop waits for that block's end (R154, R163, R164). -/
def Safety.laneRestarted (s : State) (l : LaneId) : Lane :=
  let v := s.lanes[l]
  if l = 1 ∧ (inHand s 1).isSome = true ∧ s.mover.allRows = true then
    { v with
      queue := []
      halting := some
        { announce := match v.halting with
            | none => false
            | some h => h.announce
          zero := true } }
  else laneStopped v true

/-- The state with the block a lane has in hand ended FAILED ABORTED, unless it is an export whose rows are all written (R154,
R163). -/
def Safety.abortedWritten (s : State) (l : LaneId) : State :=
  match inHand s l with
  | none => s
  | some (c, _) => if l = 1 ∧ s.mover.allRows = true then s else endingWritten s c.block (.failed .aborted 0)

/-! ## The bodies of blocks, as section 12.3 and section 12.4 lay them out -/

/-- The number of an end, a physical side or a cab: 0 for none. -/
def Safety.abNumber : Option AB → Nat
  | none => 0
  | some .a => 1
  | some .b => 2

/-- The number of a camera's role. -/
def Safety.roleNumber : Role → Nat
  | .door => 0
  | .endCamera => 1
  | .flank => 2
  | .other => 3

/-- The little-endian number in `n` bytes of a body from an offset on. -/
def Safety.number (body : List Byte) (off n : Nat) : Nat := ∑ i ∈ Finset.range n, (body.getD (off + i) 0).toNat * 256 ^ i

/-- A name a source can have: a port, or FRONT, REAR, LEFT FLANK and RIGHT FLANK (R70, section 12.4). -/
def Safety.IsSource (n : Nat) : Prop := n ≤ 11 ∨ 16 ≤ n ∧ n ≤ 19

/-- The source that a code names (section 12.4). -/
def Safety.Names (n : Nat) : Source → Prop
  | .port p => n = p.val
  | .symbol .front => n = 16
  | .symbol .rear => n = 17
  | .symbol .leftFlank => n = 18
  | .symbol .rightFlank => n = 19

/-- The rectangle in eight bytes of a body (section 12.4). -/
def Safety.rectAt (body : List Byte) (off : Nat) : Rect :=
  { x := number body off 2, y := number body (off + 2) 2, w := number body (off + 4) 2, h := number body (off + 6) 2 }

/-- A source rect that R70 and R73 allow for a destination rect. -/
def Safety.SourceFits (r dest : Rect) : Prop :=
  1 ≤ r.w ∧ 1 ≤ r.h ∧ r.x + r.w ≤ 1280 ∧ r.y + r.h ≤ 768 ∧
  dest.w ≤ 4 * r.w ∧ r.w ≤ 4 * dest.w ∧ dest.h ≤ 4 * r.h ∧ r.h ≤ 4 * dest.h

/-- The tile record at an offset of a body keeps every range and condition of R70 to R74 (sections 12.3 and 12.4). -/
def Safety.TileAllowed (body : List Byte) (off : Nat) : Prop :=
  let dest := rectAt body off
  let primary := number body (off + 24) 1
  let alternate := number body (off + 25) 1
  let age := number body (off + 30) 2
  16 ≤ dest.w ∧ 16 ≤ dest.h ∧ dest.x + dest.w ≤ 1920 ∧ dest.y + dest.h ≤ 1200 ∧
  IsSource primary ∧ SourceFits (rectAt body (off + 8)) dest ∧
  (alternate = 255 ∨ IsSource alternate ∧ alternate ≠ primary ∧ SourceFits (rectAt body (off + 16)) dest) ∧
  number body (off + 26) 1 % 16 ≤ 8 ∧ (age = 0 ∨ 20 ≤ age ∧ age ≤ 2000)

/-- A tile is the one that the record at an offset of a body gives (R70, R71, R74, section 12.4). -/
def Safety.TileGiven (body : List Byte) (off : Nat) (t : Tile) : Prop :=
  let alternate := number body (off + 25) 1
  let age := number body (off + 30) 2
  t.dest = rectAt body off ∧ Names (number body (off + 24) 1) t.primary ∧ t.primaryRect = rectAt body (off + 8) ∧
  (alternate = 255 → t.alternate = none) ∧
  (alternate ≠ 255 → (∃ y, t.alternate = some y ∧ Names alternate y) ∧ t.alternateRect = rectAt body (off + 16)) ∧
  t.mirror = (number body (off + 26) 1).testBit 7 ∧ t.border = number body (off + 26) 1 % 16 ∧
  t.colour.r.toNat = number body (off + 27) 1 ∧ t.colour.g.toNat = number body (off + 28) 1 ∧
  t.colour.b.toNat = number body (off + 29) 1 ∧ t.maxAge = if age = 0 then 100000 else 1000 * age

/-! ## The report records, as section 12.5 lays them out (R173, R187) -/

/-- The `n` bytes at an offset hold a number, little-endian: as many of its low bits as they have. -/
def Safety.Holds (bs : List Byte) (off n v : Nat) : Prop := number bs off n = v % 256 ^ n

/-- The offset of a record in the report region (section 10.1). -/
def Safety.recordPlace : Record → Nat
  | .part => 0x0000
  | .fault => 0x0040
  | .camera p => 0x0100 + 64 * p.val
  | .soil p => 0x0400 + 64 * p.val
  | .door d => 0x0700 + 32 * d.val
  | .display d => 0x0800 + 64 * d.val
  | .lane l => 0x0900 + 32 * l.val
  | .reference p => 0x1000 + 128 * p.val

/-- The length of a record (section 10.1). -/
def Safety.recordLength : Record → Nat
  | .part => 64
  | .fault => 64
  | .camera _ => 64
  | .soil _ => 64
  | .door _ => 32
  | .display _ => 64
  | .lane _ => 32
  | .reference _ => 128

/-- The place of a notice in the notice word (section 12.1). -/
def Safety.noticePlace : Notice → Nat
  | .lane0Done => 0
  | .lane1Done => 1
  | .laneHalted => 2
  | .camera => 3
  | .soil => 4
  | .door => 5
  | .clear => 6
  | .cab => 7
  | .fault => 8
  | .reset => 9
  | .wake => 10

/-- The part record. -/
def Safety.PartShows (s : State) (bs : List Byte) : Prop :=
  Holds bs 2 2 s.reports.notice.toNat ∧
  (∀ n : Notice, (number bs 2 2).testBit (noticePlace n) = hasNotice s.reports.notice n) ∧
  Holds bs 4 1 (match s.mode with
    | .run => 0
    | .stabled => 1) ∧
  Holds bs 5 1 (abNumber s.cab) ∧ Holds bs 6 1 (s.clear.left.toNat + 2 * s.clear.right.toNat) ∧
  Holds bs 7 1 (match s.wakeCause with
    | .none => 0
    | .door _ => 1
    | .wake => 2
    | .runChain => 3) ∧
  Holds bs 8 1 (match s.wakeCause with
    | .door d => d.val + 1
    | _ => 0) ∧
  Holds bs 9 3 0 ∧ Holds bs 12 4 s.clock.toNat ∧ Holds bs 16 46 0

/-- The fault record. -/
def Safety.FaultShows (s : State) (bs : List Byte) : Prop :=
  match s.reports.fault with
  | none => Holds bs 2 1 0 ∧ Holds bs 3 1 255 ∧ Holds bs 4 58 0
  | some e =>
    Holds bs 2 1 (match e.cause with
      | .placement => 1
      | .areaRead => 2
      | .hostWrite => 3
      | .reportWrite => 4) ∧
    Holds bs 3 1 (match e.lane with
      | none => 255
      | some l => l.val) ∧
    Holds bs 4 4 e.offset ∧ Holds bs 8 4 e.stamp.toNat ∧ Holds bs 12 2 e.further ∧ Holds bs 14 48 0

/-- The camera record of a port. -/
def Safety.CameraShows (s : State) (p : PortId) (bs : List Byte) : Prop :=
  let q := s.ports[p]
  let c := q.camera
  let covered (i : Nat) : Nat := match c.coverage[i]? with
    | none => 0
    | some d => d.val + 1
  Holds bs 2 1 p.val ∧ Holds bs 3 1 q.undefined.toNat ∧
  Holds bs 4 1 (match q.state with
    | .parked => 0
    | .seeking => 1
    | .live => 2
    | .lost => 3) ∧
  Holds bs 5 1 (roleNumber c.role) ∧
  Holds bs 6 1 (abNumber c.tip) ∧ Holds bs 7 1 (abNumber c.side) ∧ Holds bs 8 1 (covered 0) ∧ Holds bs 9 1 (covered 1) ∧
  Holds bs 10 2 c.width ∧ Holds bs 12 2 c.height ∧ Holds bs 14 2 (c.silence / 1000) ∧ Holds bs 16 1 c.patchLimit ∧
  Holds bs 17 1 c.interval ∧ Holds bs 18 2 0 ∧ Holds bs 20 4 q.health.good.toNat ∧ Holds bs 24 4 q.health.bad.toNat ∧
  Holds bs 28 4 q.health.aborted.toNat ∧ Holds bs 32 4 q.health.mismatched.toNat ∧ Holds bs 36 4 q.health.patched.toNat ∧
  Holds bs 40 4 q.health.disorder.toNat ∧ Holds bs 44 4 q.health.losses.toNat ∧ Holds bs 48 14 0

/-- The soil record of a camera; the score is present in CLEAN, SMEARED and BLINDED (R57). -/
def Safety.SoilShows (s : State) (p : PortId) (bs : List Byte) : Prop :=
  let m := s.soil[p]
  Holds bs 2 1 (match m.state with
    | .unlearned => 0
    | .learning => 1
    | .clean => 2
    | .smeared => 3
    | .blinded => 4) ∧
  Holds bs 3 1 (if m.state = .unlearned ∨ m.state = .learning then 255 else m.score) ∧
  Holds bs 4 1 (m.suspended.toNat + 2 * m.abandoned.toNat) ∧
  (match m.learning with
    | none => Holds bs 5 3 0
    | some g => Holds bs 5 1 1 ∧ Holds bs 6 1 g.target ∧ Holds bs 7 1 g.taken) ∧
  (∀ i : Fin 48, (number bs 8 6).testBit i.val = m.blocked[i]) ∧
  (∀ i : Fin 48, (number bs 14 6).testBit i.val = m.informative[i]) ∧
  Holds bs 20 4 m.skips.toNat ∧ Holds bs 24 38 0

/-- The record of a door; doors 1 to 4 are on side A, doors 5 to 8 on side B (R130). -/
def Safety.DoorShows (s : State) (d : DoorId) (bs : List Byte) : Prop :=
  let r := s.doors[d]
  let viewed : Option Stamp := match r.state with
    | .viewing from_ => some from_
    | .assured from_ => some from_
    | _ => none
  let stamp (x : Option Stamp) : Nat := match x with
    | none => 0
    | some a => a.toNat
  Holds bs 2 1 (d.val + 1) ∧ Holds bs 3 1 (if d.val < 4 then 1 else 2) ∧ Holds bs 4 1 r.level.toNat ∧
  Holds bs 5 1 (doorNumber r.state) ∧
  Holds bs 6 1 r.isolated.toNat ∧
  Holds bs 7 1 (r.opened.isSome.toNat + 2 * viewed.isSome.toNat + 4 * r.lastView.isSome.toNat) ∧
  Holds bs 8 4 (stamp r.opened) ∧ Holds bs 12 4 (stamp viewed) ∧ Holds bs 16 2 r.lapses ∧
  (match r.lastView with
    | none => Holds bs 18 2 0
    | some (display, tile) => Holds bs 18 1 display.val ∧ Holds bs 19 1 tile) ∧
  Holds bs 20 2 (r.dwell / 1000) ∧ Holds bs 22 8 0

/-- A tile entry of a display record, from the offset on: a tile that the frame tile list holds, or none. -/
def Safety.TileShows (bs : List Byte) (off : Nat) : Option FrameTile → Prop
  | none => Holds bs off 1 0 ∧ Holds bs (off + 1) 1 255 ∧ Holds bs (off + 2) 4 0
  | some t =>
    let alternate := match t.shown with
      | none => false
      | some v => v.alternate
    Holds bs off 1 (1 + 2 * t.drawn.toNat + 4 * alternate.toNat + 8 * t.shown.isSome.toNat) ∧
    Holds bs (off + 2) 1 ((decide (t.fill = .striped)).toNat + 2 * (decide (t.fill = .black)).toNat + 4 * t.stale.toNat +
      8 * (decide (t.badge = .blinded)).toNat + 16 * (decide (t.badge = .smeared)).toNat + 32 * alternate.toNat) ∧
    Holds bs (off + 3) 1 0 ∧
    (match t.shown with
      | none => Holds bs (off + 1) 1 255 ∧ Holds bs (off + 4) 2 0
      | some v => Holds bs (off + 1) 1 v.port.val ∧ Holds bs (off + 4) 2 (min (v.age / 1000) 65535))

/-- The record of a display: what its last frame start left (R109). -/
def Safety.DisplayShows (s : State) (d : DisplayId) (bs : List Byte) : Prop :=
  let p := s.displays[d]
  Holds bs 2 1 (if p.configured = false then 0 else if p.live then 2 else 1) ∧ Holds bs 3 1 p.effective.val ∧
  Holds bs 4 1 (match p.startOverride with
    | .none => 0
    | .left => 1
    | .right => 2
    | .both => 3) ∧
  Holds bs 5 3 0 ∧ Holds bs 8 4 p.frameCount.toNat ∧
  (∀ i, i < 8 → TileShows bs (12 + 6 * i) p.tiles[i]?) ∧ Holds bs 60 2 0

/-- A head or block offset as the lane record shows it (R187). -/
def Safety.offsetShown (w : Word) : Nat := if w.toNat % 32 = 0 ∧ w.toNat < 2 ^ 24 then w.toNat / 32 else 0

/-- The record of a lane whose queue holds at most four heads and whose chain position is at most 257: one number of 224 bits. -/
def Safety.LaneShows (s : State) (l : LaneId) (bs : List Byte) : Prop :=
  let v := s.lanes[l]
  let bits (low width : Nat) : Nat := number bs 2 28 / 2 ^ low % 2 ^ width
  let position := match v.state with
    | .running c => c.position
    | _ => 0
  v.queue.length ≤ 4 → position ≤ 257 →
  bits 0 2 = (match v.state with
    | .idle => 0
    | .running _ => 1
    | .faulted => 2) ∧
  bits 2 3 = v.queue.length ∧ bits 5 9 = position ∧ bits 14 32 = v.done.toNat ∧ bits 46 32 = v.failed.toNat ∧
  bits 78 32 = v.skipped.toNat ∧
  bits 110 19 = (match v.state with
    | .running c => offsetShown c.head
    | _ => 0) ∧
  bits 129 19 = (match inHand s l with
    | some (c, _) => offsetShown c.block
    | none => 0) ∧
  ∀ i, i < 4 → bits (148 + 19 * i) 19 = (match v.queue[i]? with
    | some w => offsetShown w
    | none => 0)

/-- The reference record of a camera. -/
def Safety.ReferenceShows (s : State) (p : PortId) (bs : List Byte) : Prop :=
  Holds bs 2 1 p.val ∧ Holds bs 3 1 0 ∧ (∀ i : Fin 48, Holds bs (4 + 2 * i.val) 2 s.soil[p].reference[i]) ∧ Holds bs 100 26 0

/-- The bytes of a record as a state has it: its contents between two copies of an edition (R173). -/
def Safety.recordBytes (s : State) (r : Record) (edition : Half) : List Byte :=
  leBytes 2 edition.toNat ++ recordContents s r ++ leBytes 2 edition.toNat

/-- How many bytes of a record the link has taken where the first `k` of its three writes, of the head edition, the contents and the
tail edition, are made and the next one fails after `landed` bytes; of a tail edition that fails it has taken nothing, so that the
copies differ (R173, R178). -/
def Safety.recordTaken (r : Record) (k landed : Nat) : Nat :=
  match k with
  | 0 => min landed 2
  | 1 => 2 + min landed (recordLength r - 4)
  | _ => recordLength r - 2

/-- From `s` to `t` the records `before` have been written and the write of `r` has failed, so far as `recordTaken` has it: both have
their next edition, every other record keeps its own; reports are suspended, the fault record has REPORT_WRITE and the record's
offset, FAULT is in the notice word, IV stands, past a head edition that was written the tail edition is the old one, and no other
byte of host memory has changed (R172, R173, R177, R178). -/
def Safety.RecordWriteFails (s t : State) (before : List Record) (r : Record) (k landed : Nat) (rest : List LinkOutcome) : Prop :=
  let place (q : Record) : Nat := areaBase s + recordPlace q
  let next (q : Record) : Half := s.reports.editions[q.index] + 1
  t = { s with reports := t.reports, bus := t.bus } ∧
  (∀ q : Record, t.reports.editions[q.index] = if q ∈ r :: before then next q else s.reports.editions[q.index]) ∧
  t.reports.suspended = true ∧ reject t = true ∧ t.reports.notice = noticed s [.fault] ∧ t.reports.iv = s.reports.iv ∧
  t.reports.announce = s.reports.announce ∧ t.reports.fault = faultTaken s .reportWrite none (recordPlace r) ∧
  t.bus.fate = rest ∧ t.bus.interrupts = s.bus.interrupts ∧
  (∀ q ∈ before, t.bus.mem.readBytes (place q) (recordLength q) = recordBytes s q (next q)) ∧
  t.bus.mem.readBytes (place r) (recordTaken r k landed) = (recordBytes s r (next r)).take (recordTaken r k landed) ∧
  (1 ≤ k → t.bus.mem.readBytes (place r) 2 = leBytes 2 (next r).toNat ∧
    t.bus.mem.readBytes (place r + recordLength r - 2) 2 = s.bus.mem.readBytes (place r + recordLength r - 2) 2) ∧
  (∀ x, (∀ q ∈ before, x < place q ∨ place q + recordLength q ≤ x) →
    x < place r ∨ place r + recordTaken r k landed ≤ x → t.bus.mem.read x = s.bus.mem.read x)

/-- The bytes of a record show what the state holds, every field at its place and every reserved byte 0 (R173, R187). -/
def Safety.RecordShows (s : State) (r : Record) (bs : List Byte) : Prop :=
  number bs 0 2 = s.reports.editions[r.index].toNat ∧
  number bs (recordLength r - 2) 2 = s.reports.editions[r.index].toNat ∧
  match r with
  | .part => PartShows s bs
  | .fault => FaultShows s bs
  | .camera p => CameraShows s p bs
  | .soil p => SoilShows s p bs
  | .door d => DoorShows s d bs
  | .display d => DisplayShows s d bs
  | .lane l => LaneShows s l bs
  | .reference p => ReferenceShows s p bs

/-! ## The value of a picture pixel (R103 to R106) -/

/-- A byte of a line of the frame in a slot: slot s of port p begins at (6p + s) × 1,966,080, and a line has two bytes a pixel
(R1, R23). -/
def Safety.sampleAt (s : State) (v : Shown) (row off : Nat) : Int :=
  ((s.frameMem.read ((6 * v.port.val + v.slot.val) * 1966080 + row * (2 * v.width) + off)).toNat : Int)

/-- The source position of an output column or line (R103, R104). -/
def Safety.placeOf (start size dest i : Nat) : Int := max 0 (start * 65536 + (2 * i + 1) * (size * 65536 / dest) / 2 - 32768)

/-- The mean of two values with a fraction of 256ths (R103, R104). -/
def Safety.meanOf (a b f : Int) : Int := (a * (256 - f) + b * f + 128) / 256

/-- A channel value held within 0 to 255 (R106). -/
def Safety.channel (n : Int) : Byte := BitVec.ofInt 8 (max 0 (min n 255))

/-- The picture value of a tile at column `i` and line `j` of its destination rect: the source rect of the shown source scaled
onto it, chroma of the nearest pair, converted to RGB (R103 to R106). -/
def Safety.pictureAt (s : State) (t : Tile) (v : Shown) (i j : Nat) : Rgb :=
  let src := if v.alternate then t.alternateRect else t.primaryRect
  let u := placeOf src.x src.w t.dest.w (if t.mirror then t.dest.w - 1 - i else i)
  let w := placeOf src.y src.h t.dest.h j
  let column (k : Int) : Nat := min k.toNat (v.width - 1)
  let line (r : Int) : Nat := min r.toNat (v.height - 1)
  let luma (r k : Int) : Int := sampleAt s v (line r) (2 * column k + 1)
  let k := u / 65536
  let r := w / 65536
  let across (r : Int) : Int := meanOf (luma r k) (luma r (k + 1)) (u % 65536 / 256)
  let y := meanOf (across r) (across (r + 1)) (w % 65536 / 256)
  let cb := sampleAt s v (line r) (4 * (column k / 2))
  let cr := sampleAt s v (line r) (4 * (column k / 2) + 2)
  { r := channel (y + (359 * (cr - 128) + 128) / 256)
    g := channel (y - (88 * (cb - 128) + 183 * (cr - 128) + 128) / 256)
    b := channel (y + (454 * (cb - 128) + 128) / 256) }

/-- The value of a drawn tile at column `x` and line `y` of its display: the border over the badge, the badge over the SUBSTITUTE
marker, the marker over the picture or the fill (R96 to R99). -/
def Safety.tileValue (s : State) (blinkOn : Bool) (t : FrameTile) (x y : Nat) : Rgb :=
  let r := t.tile.dest
  let e := if t.stale then max t.tile.border 2 else t.tile.border
  if x < r.x + e ∨ y < r.y + e ∨ r.x + r.w ≤ x + e ∨ r.y + r.h ≤ y + e then
    if t.stale then ⟨255, 0, 0⟩ else t.tile.colour
  else if t.badge = .smeared ∧ x < r.x + e + 24 ∧ y < r.y + e + 24 then ⟨255, 200, 0⟩
  else if t.badge = .blinded ∧ blinkOn = true ∧ x < r.x + e + 24 ∧ y < r.y + e + 24 then ⟨255, 64, 0⟩
  else
    match t.shown with
    | some v =>
      if v.alternate = true ∧ (r.x + r.w - 1 - e - x) + (y - (r.y + e)) < 16 then ⟨255, 255, 255⟩
      else pictureAt s t.tile v (x - r.x) (y - r.y)
    | none =>
      if t.fill = .striped then if ((x - r.x) + (y - r.y)) / 8 % 2 = 1 then ⟨64, 64, 64⟩ else ⟨128, 128, 128⟩
      else ⟨0, 0, 0⟩

end Sys2Proof
end

