-- ==== Sys2Proof/Certificates/Slice0/Obligations.lean ====
section
/-! DEFINITION. The statements about the CJ1204, for the provers. Each docstring names the rules of spec/ a statement rests
on; a statement that rests on a choice of the model names the log entry. -/

open Sys2Proof Sys2Proof.Machine Sys2Proof.Safety

/-! ## The machine -/

/-- A step takes the command at the front of the queue: it is `exec` of that command on the state with the queue's rest. On an empty
queue it adds one to the vision clock, which wraps at 2^32, and changes nothing else (the model's choice, log entry 1). Stamps are added
and compared modulo 2^32 (section 2.3): a difference is its low 31 bits (log entry 8), and a stamp is reached where the clock is less
than 2^31 past it (log entry 9). -/
def Obligations.StepRunsFrontCommand : Prop :=
  (∀ (i : Instr) (rest : List Instr) (s : State), s.pending = i :: rest → step s = exec i { s with pending := rest }) ∧
  (∀ s : State, s.pending = [] →
    ∃ t, step s = .next t ∧ t = { s with clock := t.clock } ∧ t.clock.toNat = (s.clock.toNat + 1) % 2 ^ 32) ∧
  ∀ (a b : Stamp) (n : Nat),
    (stampAfter a n).toNat = (a.toNat + n) % 2 ^ 32 ∧ since b a = (b.toNat + 2 ^ 32 - a.toNat) % 2 ^ 31 ∧
    (reached b a = true ↔ (b.toNat + 2 ^ 32 - a.toNat) % 2 ^ 32 < 2 ^ 31)

/-- Every command has its effect in every state whose frames fit their slots: none is refused, none stops with a fault, and none
touches the queue of those that wait. -/
def Obligations.EveryCommandCompletes : Prop :=
  ∀ (i : Instr) (s : State), FramesInBounds s → ∃ t, exec i s = .next t ∧ t.pending = s.pending

/-- The state after reset meets the invariants. -/
def Obligations.ResetMeetsInvariants : Prop :=
  MemoryCanonical State.reset ∧ LinesExact State.reset ∧ ViewsNeedCab State.reset ∧ FramesInBounds State.reset ∧
  SoilInRange State.reset ∧ LanesInRange State.reset ∧ IvHasNotice State.reset ∧ NothingDue State.reset ∧
  ParkedWhereOff State.reset ∧ SlotsCoherent State.reset ∧ HoldersBounded State.reset ∧ MoverHasBlock State.reset ∧
  BlocksPlaced State.reset ∧ HaltsSettled State.reset ∧ VerdictsOfCab State.reset ∧ OverridesFollow State.reset

/-! ## Invariants that every step keeps -/

/-- The clear-view lines are active exactly when R141 says so. -/
def Obligations.ClearLinesStayExact : Prop :=
  ∀ s t : State, LinesExact s → step s = .next t → LinesExact t

/-- An UNDEFINED port stays PARKED, the evaluation queue holds no entry of a PARKED port, and while the part is STABLED every
port is PARKED and every door SHUT (section 1.2 of chapter 1, R48, R181 to R184). -/
def Obligations.OffPortsStayParked : Prop :=
  ∀ s t : State, ParkedWhereOff s → step s = .next t → ParkedWhereOff t

/-- Both memories keep their canonical form; IV stands only over a notice, and no record is left to be written when an event has
ended (R172, R175, R176). A write of a run of bytes leaves each of them at its address and every other byte as it was; a run is read
byte by byte. -/
def Obligations.MemoryAndReportsStaySettled : Prop :=
  (∀ s t : State, MemoryCanonical s ∧ IvHasNotice s ∧ NothingDue s → step s = .next t →
    MemoryCanonical t ∧ IvHasNotice t ∧ NothingDue t) ∧
  ∀ (m : Memory) (a : Nat) (bs : List Byte) (x n : Nat),
    (m.write a bs).read x = (if a ≤ x ∧ x < a + bs.length then bs.getD (x - a) 0 else m.read x) ∧
    m.readBytes a n = (List.range n).map fun i => m.read (a + i)

/-- Frame sizes stay within the largest a camera record allows, and soil counters, scores, interval counts and the evaluation
queue in their ranges (section 1.2 of chapter 1, R23, R43, R46, R53, R55). -/
def Obligations.FramesAndSoilStayInRange : Prop :=
  ∀ s t : State, FramesInBounds s ∧ SoilInRange s → step s = .next t → FramesInBounds t ∧ SoilInRange t

/-- Lane queues and chain positions stay in their ranges, blocks in hand stand where R168 lets them, and the export record is IDLE
when lane 1 has no block in hand (R145, R166, R168). That a halt waits only behind an export whose rows are all written is the
model's choice, log entries 15 and 18: R154 and R163 also let one wait within a row or before a block's action. -/
def Obligations.LanesAndExportStayCoherent : Prop :=
  ∀ s t : State, LanesInRange s ∧ BlocksPlaced s ∧ HaltsSettled s ∧ MoverHasBlock s → step s = .next t →
    LanesInRange t ∧ BlocksPlaced t ∧ HaltsSettled t ∧ MoverHasBlock t

/-- The slot table, the ready orders and the frames in progress fit together; a display holds locks only within a frame of its own
and at most one slot of a port, and the Export Mover only what it moves (R5, R10, R24, R25, R27, R30 to R34, R87). -/
def Obligations.SlotsAndLocksStayCoherent : Prop :=
  ∀ s t : State, SlotsCoherent s ∧ HoldersBounded s → step s = .next t → SlotsCoherent t ∧ HoldersBounded t

/-- A door is SHUT exactly while its debounced level is inactive, and viewed or assured only under an active cab; a display that is
not of the active cab has an all-false stored vector; the calling set follows the doors and the overrides follow it (R101, R116 to
R122, R130 to R137, R140). -/
def Obligations.DoorsAndOverridesStayCoherent : Prop :=
  ∀ s t : State, ViewsNeedCab s ∧ VerdictsOfCab s ∧ OverridesFollow s → step s = .next t →
    ViewsNeedCab t ∧ VerdictsOfCab t ∧ OverridesFollow t

/-! ## Operations -/

/-- The slot chosen for a frame is the EMPTY unlocked slot with the lowest index, or, where no unlocked slot is EMPTY, the READY
unlocked slot that stands oldest in the ready order; a port with no frame in progress always has one (R26, R27). A lock set holds
each display and the Export Mover or not; a holder joins it once and leaves it whole (R24, R30). -/
def Obligations.SlotChoiceSucceedsByPreference : Prop :=
  (∀ (q : StorePort) (i : SlotId),
    let free (st : SlotState) (j : SlotId) : Prop := q.slots[j].state = st ∧ q.slots[j].locks.isEmpty = true
    q.choose = some i ↔
      (free .empty i ∧ ∀ j < i, ¬ free .empty j) ∨
      ((∀ j, ¬ free .empty j) ∧
        ∃ older newer, q.order = older ++ i :: newer ∧ free .ready i ∧ ∀ j ∈ older, ¬ free .ready j)) ∧
  (∀ (s : State) (p : PortId), HoldersBounded s → SlotsCoherent s → s.ports[p].frame = none →
    ∃ i, s.store[p].choose = some i) ∧
  ∀ (l : LockSet) (h k : Holder),
    l.mem .mover = l.mover ∧ (∀ d, l.mem (.display d) = l.displays[d]) ∧
    (l.add h).mem k = (l.mem k || decide (k = h)) ∧ (l.remove h).mem k = (l.mem k && !decide (k = h)) ∧
    (l.isEmpty = true ↔ ∀ j, l.mem j = false)

/-- A tile of a loaded list is hidden exactly when every pixel of its destination rect lies within that of some later tile; so
the last tile never is, and some tile is not (R77). A rectangle's pixels are those of its columns and lines. -/
def Obligations.HiddenExactlyWhenCovered : Prop :=
  (∀ (r : Rect) (x y : Nat), r.has x y = true ↔ (r.x ≤ x ∧ x < r.x + r.w) ∧ r.y ≤ y ∧ y < r.y + r.h) ∧
  ∀ ts : List Tile, (∀ t ∈ ts, 16 ≤ t.dest.w ∧ 16 ≤ t.dest.h) →
    (markHidden ts).map (fun t => t.tile) = ts ∧
    (∀ (i : Nat) (t : LaidTile), (markHidden ts)[i]? = some t →
      (t.hidden = true ↔ ∀ x y, t.tile.dest.has x y = true →
        ∃ (j : Nat) (u : Tile), i < j ∧ ts[j]? = some u ∧ u.dest.has x y = true)) ∧
    (∀ t, (markHidden ts).getLast? = some t → t.hidden = false) ∧
    (ts ≠ [] → ∃ t ∈ markHidden ts, t.hidden = false)

/-- A port resolves to itself, and a symbol to the lowest defined port whose role, end and side match its row under the active cab, in
whatever port and soil state; to none where no port does, as under cab NONE (R71, R112). The frame tile list holds the layout's tiles
in order. A tile is drawn when its mark is clear and some pixel of its clipped destination lies in that of no later tile (R81, R82). A
drawn tile shows its LIVE, not BLINDED primary, else its LIVE alternate, else its LIVE primary, and else is filled (R94 to R98). -/
def Obligations.FrameTilesAreDecided : Prop :=
  (∀ (r : Rect) (width height x y : Nat),
    let q := r.clip width height
    q.x = r.x ∧ q.y = r.y ∧ q.w = min (r.x + r.w) width - r.x ∧ q.h = min (r.y + r.h) height - r.y ∧
    (q.has x y = true ↔ r.has x y = true ∧ x < width ∧ y < height)) ∧
  ∀ (s : State) (width height : Nat) (ts : List LaidTile),
    let live (q : PortId) : Prop := s.ports[q].state = .live
    let fits (y : Symbol) (q : PortId) : Prop :=
      s.ports[q].undefined = false ∧ ∃ cab, s.cab = some cab ∧
        let c := s.ports[q].camera
        match y with
        | .front => c.role = .endCamera ∧ c.tip = some cab
        | .rear => c.role = .endCamera ∧ c.tip = some (if cab = .a then .b else .a)
        | .leftFlank => c.role = .flank ∧ c.tip = some cab ∧ c.side = some (if cab = .a then .b else .a)
        | .rightFlank => c.role = .flank ∧ c.tip = some cab ∧ c.side = some cab
    (∀ q : PortId, resolve s (.port q) = some q) ∧
    (∀ (y : Symbol) (q : PortId), resolve s (.symbol y) = some q ↔ fits y q ∧ ∀ k < q, ¬ fits y k) ∧
    (∀ y : Symbol, resolve s (.symbol y) = none ↔ ∀ q, ¬ fits y q) ∧
    (composeTiles s width height ts).length = ts.length ∧
    ∀ (i : Nat) (l : LaidTile) (t : FrameTile), ts[i]? = some l → (composeTiles s width height ts)[i]? = some t →
      let p := resolve s l.tile.primary
      let a := l.tile.alternate.bind (resolve s)
      t.tile = l.tile ∧ t.hidden = l.hidden ∧
      (t.drawn = true ↔ l.hidden = false ∧ ∃ x y, (l.tile.dest.clip width height).has x y = true ∧
        ∀ (j : Nat) (u : LaidTile), i < j → ts[j]? = some u → (u.tile.dest.clip width height).has x y = false) ∧
      (t.drawn = false → Filled t .none) ∧
      (t.drawn = true →
        (∀ q, p = some q → live q → s.soil[q].state ≠ .blinded → Shows s t q false) ∧
        ((∀ q, p = some q → live q → s.soil[q].state = .blinded) →
          (∀ q, a = some q → a ≠ p → live q → Shows s t q true) ∧
          ((∀ q, a = some q → a ≠ p → ¬ live q) →
            (∀ q, p = some q → live q → Shows s t q false) ∧
            ((∀ q, p = some q → ¬ live q) →
              Filled t (if (∃ q, (p = some q ∨ a = some q) ∧ (s.ports[q].state = .seeking ∨ s.ports[q].state = .lost))
                then .striped else .black)))))

/-- A display's verdict for a door is the topmost of its drawn tiles that shows a LIVE, not BLINDED camera covering the door, no
older than the tile's maximum age and at least the minimum door tile size; without one there is none (R131). -/
def Obligations.VerdictIsTopmostQualifyingTile : Prop :=
  ∀ (s : State) (settings : DisplaySettings) (tiles : List FrameTile) (door : DoorId),
    let qualifies (t : FrameTile) : Prop :=
      t.drawn = true ∧ ∃ v, t.shown = some v ∧ s.ports[v.port].state = .live ∧ door ∈ s.ports[v.port].camera.coverage ∧
        s.soil[v.port].state ≠ .blinded ∧ v.age ≤ t.tile.maxAge ∧
        settings.minWidth ≤ (t.tile.dest.clip settings.width settings.height).w ∧
        settings.minHeight ≤ (t.tile.dest.clip settings.width settings.height).h
    (∀ i, (verdictVector s settings tiles)[door] = some i ↔
      (∃ t, tiles[i]? = some t ∧ qualifies t) ∧ ∀ j u, i < j → tiles[j]? = some u → ¬ qualifies u) ∧
    ((verdictVector s settings tiles)[door] = none ↔ ∀ t ∈ tiles, ¬ qualifies t)

/-- A pixel of a frame is the value of the last drawn tile whose clipped destination holds it, and black where none does. That
value is the tile's border, else its badge, else its SUBSTITUTE marker, else its fill or its picture, which is the source rect
scaled onto the destination and converted to RGB (R23, R83, R96 to R99, R102 to R106). -/
def Obligations.PixelIsTopmostTile : Prop :=
  ∀ (s : State) (p : Display) (x y : Nat),
    let holds (t : FrameTile) : Prop := t.drawn = true ∧ (t.tile.dest.clip p.frameWidth p.frameHeight).has x y = true
    ((∀ t ∈ p.tiles, ¬ holds t) → pixelAt s p x y = ⟨0, 0, 0⟩) ∧
    (∀ below t above, p.tiles = below ++ t :: above → holds t → (∀ u ∈ above, ¬ holds u) →
      pixelAt s p x y = tileValue s p.blinkOn t x y)

/-- A stored line adds, for each cell of its row, the luma differences between neighbours within the cell to G and the lumas to
L; every other cell keeps its sums (R38, R44). -/
def Obligations.LineSumsPerCell : Prop :=
  ∀ (cw ch n : Nat) (line : List Byte) (sums : Vector CellSums 48) (r : Fin 6) (c : Fin 8), 0 < cw → 0 < ch →
    line.length = 2 * (8 * cw) → n < 6 * ch →
    let y (x : Nat) : Int := ((line.getD (2 * x + 1) 0).toNat : Int)
    let before := sums[8 * r.val + c.val]
    let after := (accumulate (8 * cw) (6 * ch) n line sums)[8 * r.val + c.val]
    (n / ch = r.val →
      after.g = before.g + ∑ x ∈ Finset.range (cw - 1), (y (c.val * cw + x + 1) - y (c.val * cw + x)).natAbs ∧
      (after.l : Int) = before.l + ∑ x ∈ Finset.range cw, y (c.val * cw + x)) ∧
    (n / ch ≠ r.val → after = before)

/-- A record write fails at its head edition, its contents or its tail edition: what came before the failure stands, with the bytes
that landed of a head edition or of contents, and a failure past the head leaves the new head edition ahead of the old tail edition;
reports are suspended, the fault record is
filled or counted with REPORT_WRITE, and FAULT is raised. Of the records of an event, written in the order of their offsets with the
part record last, those before the failed one are whole and those after it are not written (R172, R173, R177, R178; that the order is
that of the offsets alone, log entry 7, that a record is three transactions, log entry 4, and that of a
head edition that fails the bytes that landed stand, log entry 33). -/
def Obligations.FailedRecordWriteSuspendsReports : Prop :=
  (∀ (s : State) (r : Record) (k landed : Nat) (rest : List LinkOutcome), k < 3 → reportsFlow s = true →
    s.bus.fate = failsAt k landed ++ rest → RecordWriteFails s (writeRecord r s) [] r k landed rest) ∧
  ∀ (s : State) (before : List Record) (r : Record) (after : List Record) (k landed : Nat) (rest : List LinkOutcome),
    let written := before ++ r :: after
    (∀ q, q ∈ s.reports.due ↔ q ∈ written) → written.Pairwise (fun p q => p ≠ .part ∧ (q = .part ∨ recordPlace p < recordPlace q)) →
    k < 3 → reportsFlow s = true → s.bus.fate = failsAt (3 * before.length + k) landed ++ rest →
    RecordWriteFails s (finishEvent s) before r k landed rest ∧ (finishEvent s).reports.due = []

/-! ## Camera ports -/

/-- A port in PARKED discards every packet; a packet of no recognised kind is discarded in every state, and so is a LINE or FRAME
CLOSE with no frame in progress; a LINE numbered at or past the height, or below the next expected line, is discarded and counted
as disorder (R1, R10, R12, R16). -/
def Obligations.PacketsAreDiscarded : Prop :=
  ∀ (s : State) (p : PortId) (count width height number check : Half) (payload : List Byte),
    let q := s.ports[p]
    exec (.unknownPacket p) s = .next s ∧
    (q.state = .parked →
      exec (.frameOpen p count width height) s = .next s ∧ exec (.line p number payload check) s = .next s ∧
      exec (.frameClose p count) s = .next s) ∧
    (q.frame = none →
      exec (.line p number payload check) s = .next s ∧ exec (.frameClose p count) s = .next s) ∧
    (∀ f, Calm s → q.state ≠ .parked → q.frame = some f → FrameSize q.camera.width q.camera.height →
      (q.camera.height ≤ number.toNat ∨ number.toNat < f.next) →
      ∃ t, exec (.line p number payload check) s = .next t ∧
        t = { s with ports := t.ports, reports := t.reports, bus := t.bus } ∧
        t.ports = s.ports.set p { q with health := { q.health with disorder := q.health.disorder + 1 } } ∧
        Reported s t [] [.camera p])

/-- A FRAME OPEN with matching dimensions, at a port that is not PARKED: a frame still in progress is aborted and counted, the
chosen slot becomes FILLING with the record's dimensions, the frame-in-progress record begins at line 0 with the due flag of R41,
and the soil accumulators are cleared (R11, R13, R26, R41, R45). -/
def Obligations.FrameOpenFillsChosenSlot : Prop :=
  ∀ (s : State) (p : PortId) (count width height : Half) (i : SlotId),
    let q := s.ports[p]
    let m := s.soil[p]
    let store := match q.frame with
      | none => s.store[p]
      | some f => slotDropped s.store[p] f.slot
    Calm s → q.state ≠ .parked → width.toNat = q.camera.width → height.toNat = q.camera.height → store.choose = some i →
    ∃ t, exec (.frameOpen p count width height) s = .next t ∧
      t = { s with ports := t.ports, store := t.store, reports := t.reports, bus := t.bus } ∧
      t.ports = s.ports.set p
        { q with
          frame := some
            { count, slot := i, next := 0, patched := 0
              due := decide (m.state = .learning ∨ m.oneShot = true ∨
                1 ≤ q.camera.interval ∧ q.camera.interval - 1 ≤ m.intervalCount) }
          sums := Vector.replicate 48 { g := 0, l := 0 }
          health := if q.frame.isSome then { q.health with aborted := q.health.aborted + 1 } else q.health } ∧
      t.store = s.store.set p
        { slots := store.slots.set i
            { store.slots[i] with
              state := .filling, count, stamp := s.clock, width := q.camera.width, height := q.camera.height, discard := false }
          order := store.order.filter fun j => decide (j ≠ i) } ∧
      Reported s t [] (if q.frame.isSome then [.camera p] else [])

/-- A FRAME OPEN whose width or height differs from the record's obtains no slot: a frame still in progress is aborted, and the
mismatched counter increases; port state and timer stand (R11, R12). -/
def Obligations.MismatchedFrameOpenIsCounted : Prop :=
  ∀ (s : State) (p : PortId) (count width height : Half),
    let q := s.ports[p]
    Calm s → q.state ≠ .parked → (width.toNat ≠ q.camera.width ∨ height.toNat ≠ q.camera.height) →
    ∃ t, exec (.frameOpen p count width height) s = .next t ∧
      t = { s with ports := t.ports, store := t.store, reports := t.reports, bus := t.bus } ∧
      t.ports = s.ports.set p
        { q with
          frame := none
          sums := if q.frame.isSome then Vector.replicate 48 { g := 0, l := 0 } else q.sums
          health :=
            { q.health with
              aborted := q.health.aborted + if q.frame.isSome then 1 else 0
              mismatched := q.health.mismatched + 1 } } ∧
      t.store = s.store.set p (match q.frame with
        | none => s.store[p]
        | some f => slotDropped s.store[p] f.slot) ∧
      Reported s t [] [.camera p]

/-- A LINE at or past the next expected line, and below the height: the lines it skips are patched, and it is stored at its place
if its length is 2W and its check good, else patched; each patch is counted in the frame and in the port, a due frame adds the
sums of every line stored, and the next line is expected (R14, R15, R44). The check is the CRC of R2, and a line lies in its slot as
R23 has it. -/
def Obligations.LineIsStoredOrPatched : Prop :=
  (∀ (bs : List Byte) (b : Byte),
    let shift (c : Half) : Half := if c.toNat < 2 ^ 15 then c <<< 1 else (c <<< 1) ^^^ 0x1021
    crc16 [] = 0xFFFF ∧ crc16 (bs ++ [b]) = shift^[8] (crc16 bs ^^^ BitVec.ofNat 16 (256 * b.toNat))) ∧
  (∀ (p : PortId) (i : SlotId) (width n : Nat), lineBase p i width n = (6 * p.val + i.val) * 1966080 + n * (2 * width)) ∧
  ∀ (s : State) (p : PortId) (f : FrameInProgress) (number : Half) (payload : List Byte) (check : Half),
    let q := s.ports[p]
    let w := q.camera.width
    let n := number.toNat
    let good := payload.length = 2 * w ∧ crc16 payload = check
    let patches := n - f.next + if good then 0 else 1
    Calm s → q.state ≠ .parked → q.frame = some f → FrameSize w q.camera.height → f.next ≤ n → n < q.camera.height →
    ∃ t, exec (.line p number payload check) s = .next t ∧
      t = { s with ports := t.ports, frameMem := t.frameMem, reports := t.reports, bus := t.bus } ∧
      t.ports = s.ports.set p
        { q with
          frame := some { f with next := n + 1, patched := f.patched + patches }
          health := { q.health with patched := q.health.patched + BitVec.ofNat 32 patches }
          sums := t.ports[p].sums } ∧
      t.ports[p].sums =
        (if f.due then
          (List.range' f.next (n + 1 - f.next)).foldl (fun v j =>
            accumulate w q.camera.height j (t.frameMem.readBytes (lineBase p f.slot w j) (2 * w)) v) q.sums
        else q.sums) ∧
      LinesPatched s t p f n (n + 1) ∧
      (∀ o, o < 2 * w →
        t.frameMem.read (lineBase p f.slot w n + o) = if good then payload.getD o 0 else patchByte s p f o) ∧
      Reported s t [] []

/-- A FRAME CLOSE with the opening frame count and no more patches than the limit, the missing lines patched first: the slot
becomes READY and newest, the timer restarts, the port is LIVE, and a clean frame is handed to the Soil Monitor if due, or counted
towards the interval (R17, R19, R28, R43, R45, R46). -/
def Obligations.GoodFrameBecomesReady : Prop :=
  ∀ (s : State) (p : PortId) (f : FrameInProgress) (count : Half),
    let q := s.ports[p]
    let m := s.soil[p]
    let w := q.camera.width
    let h := q.camera.height
    let missing := h - f.next
    let clean := f.patched + missing = 0
    let slot := s.store[p].slots[f.slot]
    Calm s → q.state ≠ .parked → q.frame = some f → FrameSize w h → count = f.count →
    f.patched + missing ≤ q.camera.patchLimit →
    ∃ t, exec (.frameClose p count) s = .next t ∧
      t = { s with
        ports := t.ports, store := t.store, soil := t.soil, evalQueue := t.evalQueue, frameMem := t.frameMem
        reports := t.reports, bus := t.bus } ∧
      t.ports = s.ports.set p
        { q with
          frame := none
          sums := Vector.replicate 48 { g := 0, l := 0 }
          silence := some s.clock
          state := .live
          health :=
            { q.health with
              good := q.health.good + 1
              patched := q.health.patched + BitVec.ofNat 32 missing } } ∧
      t.store = s.store.set p
        { slots := s.store[p].slots.set f.slot { slot with state := .ready }, order := s.store[p].order ++ [f.slot] } ∧
      (if ¬ clean then t.soil = s.soil ∧ t.evalQueue = s.evalQueue
      else if f.due = false then
        t.soil = s.soil.set p { m with intervalCount := min (m.intervalCount + 1) 254 } ∧ t.evalQueue = s.evalQueue
      else if s.evalQueue.length < 4 then
        t.soil = s.soil.set p { m with intervalCount := 0, oneShot := false } ∧
        t.evalQueue = s.evalQueue ++
          [{ port := p, stamp := slot.stamp, cellWidth := w / 8, cellHeight := h / 6, sums := q.sums }]
      else t.soil = s.soil.set p { m with skips := m.skips + 1 } ∧ t.evalQueue = s.evalQueue) ∧
      LinesPatched s t p f h h ∧
      Reported s t (if q.state = .live then [] else [.camera])
        ((if q.state = .live then [] else [.camera p]) ++
          if clean ∧ f.due = true ∧ 4 ≤ s.evalQueue.length then [.soil p] else [])

/-- A FRAME CLOSE with another frame count, or with more patches than the limit, the missing lines patched first: the slot becomes
EMPTY and frames bad increases; port state and timer stand (R17, R18, R28). -/
def Obligations.BadFrameBecomesEmpty : Prop :=
  ∀ (s : State) (p : PortId) (f : FrameInProgress) (count : Half),
    let q := s.ports[p]
    let h := q.camera.height
    let missing := h - f.next
    let slot := s.store[p].slots[f.slot]
    Calm s → q.state ≠ .parked → q.frame = some f → FrameSize q.camera.width h →
    (count ≠ f.count ∨ q.camera.patchLimit < f.patched + missing) →
    ∃ t, exec (.frameClose p count) s = .next t ∧
      t = { s with
        ports := t.ports, store := t.store, frameMem := t.frameMem, reports := t.reports, bus := t.bus } ∧
      t.ports = s.ports.set p
        { q with
          frame := none
          sums := Vector.replicate 48 { g := 0, l := 0 }
          health :=
            { q.health with
              bad := q.health.bad + 1
              patched := q.health.patched + BitVec.ofNat 32 missing } } ∧
      t.store = s.store.set p
        { s.store[p] with slots := s.store[p].slots.set f.slot { slot with state := .empty, discard := false } } ∧
      LinesPatched s t p f h h ∧
      Reported s t [] [.camera p]

/-- The silence timer of a LIVE port that has run for the timeout expires: the port is LOST, its timer stops, the loss is counted,
and a learning is abandoned; any other timer does not expire (R9, R63). -/
def Obligations.SilenceLosesLivePort : Prop :=
  ∀ (s : State) (p : PortId),
    let q := s.ports[p]
    let m := s.soil[p]
    let expired := q.state = .live ∧ ∃ from_, q.silence = some from_ ∧ q.camera.silence ≤ since s.clock from_
    (¬ expired → exec (.silenceTimerExpiry p) s = .next s) ∧
    (Calm s → expired →
      ∃ t, exec (.silenceTimerExpiry p) s = .next t ∧
        t = { s with ports := t.ports, soil := t.soil, reports := t.reports, bus := t.bus } ∧
        t.ports = s.ports.set p
          { q with state := .lost, silence := none, health := { q.health with losses := q.health.losses + 1 } } ∧
        t.soil = s.soil.set p (learningDropped m) ∧
        Reported s t (dropNotices m ++ [.camera]) (.camera p :: dropRecords p m))

/-! ## The Soil Monitor -/

/-- With no entry waiting there is nothing to serve, and an entry of an UNLEARNED camera leaves the queue with no other effect. An
entry served while its camera is LEARNING is a learn sample: each cell's sharpness joins its learn sum; the last sample completes
the learning with the mean sharpness as reference (R47, R49, R60, R62). -/
def Obligations.LearnSampleIsGathered : Prop :=
  ∀ s : State,
    (s.evalQueue = [] → exec .evaluationService s = .next s) ∧
    (∀ e rest, s.evalQueue = e :: rest → Calm s → s.soil[e.port].state = .unlearned →
      ∃ t, exec .evaluationService s = .next t ∧
        t = { s with evalQueue := rest, reports := t.reports, bus := t.bus } ∧ Reported s t [] []) ∧
    (∀ e rest r, s.evalQueue = e :: rest → Calm s →
      s.soil[e.port].state = .learning → s.soil[e.port].learning = some r →
      let p := e.port
      let m := s.soil[p]
      let sums : Vector Nat 48 := Vector.ofFn fun i =>
        r.sums[i] + min (e.sums[i].g * 16 / (e.cellHeight * (e.cellWidth - 1))) 4080
      ∃ t, exec .evaluationService s = .next t ∧
        t = { s with evalQueue := rest, soil := t.soil, reports := t.reports, bus := t.bus } ∧
        (r.taken + 1 ≠ r.target →
          t.soil = s.soil.set p { m with learning := some { r with taken := r.taken + 1, sums } } ∧
          Reported s t [] [.soil p]) ∧
        (r.taken + 1 = r.target →
          t.soil = s.soil.set p (withReference m (Vector.ofFn fun i => sums[i] / r.target)) ∧
          Reported s t [.soil] [.soil p, .reference p]))

/-- An entry served while its camera is CLEAN, SMEARED or BLINDED is evaluated: measurable cells by light and map, sufficiency,
dull or sharp, counters, blocked flags, score and state; the record is rewritten where one of them changed, and SOIL raised where
the state did (R47, R49 to R56, R58). -/
def Obligations.EvaluationFollowsStages : Prop :=
  ∀ (s : State) (e : EvalEntry) (rest : List EvalEntry),
    let p := e.port
    let m := s.soil[p]
    let sharp (i : Fin 48) : Nat := min (e.sums[i].g * 16 / (e.cellHeight * (e.cellWidth - 1))) 4080
    let mean (i : Fin 48) : Nat := e.sums[i].l / (e.cellHeight * e.cellWidth)
    let measurable (i : Fin 48) : Prop := m.limits.dark ≤ mean i ∧ mean i ≤ m.limits.bright ∧ m.informative[i] = true
    let dull (i : Fin 48) : Prop := sharp i * 256 < m.reference[i] * m.limits.ratio
    let sufficient : Prop := m.limits.minMeasurable ≤ (Finset.univ.filter measurable).card
    Calm s → s.evalQueue = e :: rest → (m.state = .clean ∨ m.state = .smeared ∨ m.state = .blinded) →
    ∃ t, exec .evaluationService s = .next t ∧
      let n := t.soil[p]
      let changed := n.suspended ≠ m.suspended ∨ n.blocked ≠ m.blocked ∨ n.score ≠ m.score ∨ n.state ≠ m.state
      t = { s with evalQueue := rest, soil := t.soil, reports := t.reports, bus := t.bus } ∧
      t.soil = s.soil.set p { m with
        suspended := n.suspended, counters := n.counters, blocked := n.blocked, score := n.score, state := n.state } ∧
      (sufficient → n.suspended = false ∧ ∀ i : Fin 48,
        n.counters[i] = (if measurable i then if dull i then min (m.counters[i] + 1) 63 else m.counters[i] - 1
          else m.counters[i]) ∧
        (n.blocked[i] = true ↔
          (measurable i ∧ (m.limits.high ≤ n.counters[i] ∨ m.limits.low < n.counters[i] ∧ m.blocked[i] = true)) ∨
          (¬ measurable i ∧ m.blocked[i] = true))) ∧
      (¬ sufficient → n.suspended = true ∧ n.counters = m.counters ∧ n.blocked = m.blocked) ∧
      n.score = 100 * (Finset.univ.filter fun i : Fin 48 => m.informative[i] = true ∧ n.blocked[i] = true).card /
        (Finset.univ.filter fun i : Fin 48 => m.informative[i] = true).card ∧
      n.state = stateOfScore m.limits n.score ∧
      Reported s t (if n.state ≠ m.state then [.soil] else []) (if changed then [.soil p] else [])

/-! ## Displays -/

/-- A configured display whose last frame has ended and whose period has run takes its frame start: LIVE with the tiles of its
effective layout, or DARK with none; it locks what its tiles show, hands its verdicts on, and the doors of its cab take their
steps. A screen export that waits for it copies a LIVE frame it fits, with its stamp, size and frame count, and ends BAD_VALUE or
ROOM_SHORT at one it does not, DISPLAY_STOPPED at a DARK one. At any other time there is no frame start. A door's qualifying view is the lowest-numbered display of the
cab whose stored vector holds a tile for the door, with that tile; displays 0 and 1 are of cab A, 2 and 3 of cab B (R87, R88, R92, R93,
R95, R98, R100, R101, R109, R132, R134 to R136, R139, R150; that the export goes by this frame start alone, also after an entry to stabling
and a wake since its take, is the model's choice, log entry 30). -/
def Obligations.FrameStartTakesFrame : Prop :=
  (∀ (s : State) (cab : AB) (k : DoorId),
    let of (e : DisplayId) : Prop := e.val < 2 ↔ cab = .a
    (∀ e, cabOf e = cab ↔ of e) ∧
    (∀ e i, qualifyingView s cab k = some (e, i) ↔
      (of e ∧ s.stored[e][k] = some i) ∧ ∀ x < e, of x → s.stored[x][k] = none) ∧
    (qualifyingView s cab k = none ↔ ∀ e, of e → s.stored[e][k] = none)) ∧
  ∀ (s : State) (d : DisplayId),
    let p := s.displays[d]
    let w := p.settings.width
    let h := p.settings.height
    let due := p.configured = true ∧
      ∃ g, p.timing = some g ∧ g.ended = true ∧ reached s.clock (stampAfter g.start g.period) = true
    let taken (live : Bool) (s1 : State) (ns : List Notice) (rs : List Record) : Prop :=
      ∃ t, exec (.frameStart d) s = .next t ∧
        t = { s1 with
          store := t.store, displays := t.displays, stored := t.stored, doors := t.doors, clear := t.clear
          reports := t.reports, bus := t.bus } ∧
        FrameTaken s t d live (if live then composeTiles s w h (s.layouts[shownLayout p].getD []) else []) ∧
        Reported s1 t (ns ++ doorNotices s t ++ clearNotices s t)
          (rs ++ doorRecords s t ++ clearRecords s t ++ displayRecords s t d)
    (¬ due → exec (.frameStart d) s = .next s) ∧
    (due → Calm s → s.calling = callingSet s →
      ((∀ o, s.mover ≠ .waiting d o) → (startsLive s d → taken true s [] []) ∧ (¬ startsLive s d → taken false s [] [])) ∧
      (∀ o, s.mover = .waiting d o → HoldersBounded s →
        (startsLive s d → 4 * w ≤ o.stride → h * o.stride ≤ o.room →
          taken true { s with mover := .copying d o w h s.clock (p.frameCount + 1) 0 } [] []) ∧
        (∀ c b, inHand s 1 = some (c, b) →
          let stopped (live : Bool) (r : Reason) : Prop :=
            taken live (exportEnded s c b (.failed r 0)) (exportNotices s b) [.lane 1]
          (¬ startsLive s d → stopped false .displayStopped) ∧
          (startsLive s d → o.stride < 4 * w → stopped true .badValue) ∧
          (startsLive s d → 4 * w ≤ o.stride → o.room < h * o.stride → stopped true .roomShort))))

/-- At its frame end a display leaves the lock set of every slot that holds it; a slot it leaves unlocked under the discard mark
becomes EMPTY (R31, R33, R107). No frame end comes before the period has run. -/
def Obligations.FrameEndReleasesLocks : Prop :=
  ∀ (s : State) (d : DisplayId) (g : Timing),
    let p := s.displays[d]
    p.configured = true → p.timing = some g → g.ended = false → (∀ ops w h c n r, s.mover ≠ .copying d ops w h c n r) →
    (reached s.clock (stampAfter g.start g.period) = false → exec (.frameEnd d) s = .next s) ∧
    (reached s.clock (stampAfter g.start g.period) = true → Calm s →
      ∃ t, exec (.frameEnd d) s = .next t ∧
        t = { s with store := t.store, displays := t.displays, reports := t.reports, bus := t.bus } ∧
        t.displays = s.displays.set d { p with timing := some { g with ended := true } } ∧
        StoreLeft (.display d) s t ∧ Reported s t [] [])

/-- A hold whose expiry stamp the clock has reached makes its side IDLE, and the override keeps the other side only; no other
side status is touched (R120). The override is NONE with both sides IDLE, LEFT or RIGHT with that side alone not IDLE, BOTH with
neither IDLE; an override display is a configured one of the active cab with its door-screen flag set (R117). -/
def Obligations.HoldExpiryIdlesSide : Prop :=
  (∀ (s : State) (d : DisplayId), isOverrideDisplay s d = true ↔
    s.displays[d].configured = true ∧ s.displays[d].settings.doorScreen = true ∧ s.cab = some (if d.val < 2 then .a else .b)) ∧
  ∀ (s : State) (d : DisplayId),
    let p := s.displays[d]
    (p.override = .none ↔ p.left = .idle ∧ p.right = .idle) ∧ (p.override = .left ↔ p.left ≠ .idle ∧ p.right = .idle) ∧
    (p.override = .right ↔ p.left = .idle ∧ p.right ≠ .idle) ∧ (p.override = .both ↔ p.left ≠ .idle ∧ p.right ≠ .idle) ∧
    (∀ e, p.left = .held e → reached s.clock e = true →
      exec (.holdExpiry d .left) s = .next { s with displays := s.displays.set d { p with left := .idle } } ∧
      ({ p with left := .idle } : Display).override = if p.right = .idle then .none else .right) ∧
    (∀ e, p.right = .held e → reached s.clock e = true →
      exec (.holdExpiry d .right) s = .next { s with displays := s.displays.set d { p with right := .idle } } ∧
      ({ p with right := .idle } : Display).override = if p.left = .idle then .none else .left) ∧
    ((∀ e, p.left = .held e → reached s.clock e = false) → exec (.holdExpiry d .left) s = .next s) ∧
    ((∀ e, p.right = .held e → reached s.clock e = false) → exec (.holdExpiry d .right) s = .next s)

/-! ## Doors and cabs -/

/-- An edge away from the debounced level starts the debounce timer, an edge back to it stops the timer; before its stamp a timer
does not expire, and an expiry with the raw level back at the debounced one changes no door (R126, R127). -/
def Obligations.DoorEdgesRunTheTimer : Prop :=
  ∀ (s : State) (k : DoorId) (level : Bool),
    let r := s.doors[k]
    (level = r.raw → exec (.doorLineEdge k level) s = .next s) ∧
    (level ≠ r.raw → level = r.level →
      exec (.doorLineEdge k level) s = .next { s with doors := s.doors.set k { r with raw := level, timer := none } }) ∧
    (level ≠ r.raw → level ≠ r.level → s.debounce ≠ 0 →
      exec (.doorLineEdge k level) s =
        .next { s with doors := s.doors.set k { r with raw := level, timer := some (stampAfter s.clock s.debounce) } }) ∧
    ((∀ e, r.timer = some e → reached s.clock e = false) → exec (.debounceExpiry k) s = .next s) ∧
    (∀ e, r.timer = some e → reached s.clock e = true → r.raw = r.level →
      exec (.debounceExpiry k) s = .next { s with doors := s.doors.set k { r with timer := none } })

/-- In RUN a change of a door's debounced level, by an expiry or by an edge with debounce time 0, makes the door OPENED with its
stamp, or SHUT with no lapse counted, and the calling set, the overrides and the lines follow (R118, R119, R127, R133, R137, R141,
R142, R143). Under an active cab a side calls exactly when some door on it is neither isolated nor SHUT, and under cab NONE no side
calls (R111, R116); the lines are those of R141. -/
def Obligations.DoorLevelChangesDoor : Prop :=
  (∀ s : State,
    LinesExact { s with clear := clearLines s } ∧
    (s.cab = none → (callingSet s).left = false ∧ (callingSet s).right = false) ∧
    ∀ cab, s.cab = some cab →
      let open_ (k : DoorId) : Prop := s.doors[k].isolated = false ∧ s.doors[k].state ≠ .shut
      ((callingSet s).right = true ↔ ∃ k, OnRight cab k ∧ open_ k) ∧
      ((callingSet s).left = true ↔ ∃ k, ¬ OnRight cab k ∧ open_ k)) ∧
  ∀ (s : State) (k : DoorId) (level : Bool) (i : Instr),
    let r := s.doors[k]
    (i = .doorLineEdge k level ∧ level ≠ r.raw ∧ s.debounce = 0 ∨
      i = .debounceExpiry k ∧ level = r.raw ∧ ∃ e, r.timer = some e ∧ reached s.clock e = true) →
    level ≠ r.level → Calm s → s.mode = .run → DoorsFollowLevels s →
    ∃ t, exec i s = .next t ∧
      t = { s with
        doors := t.doors, calling := t.calling, displays := t.displays, clear := t.clear, reports := t.reports, bus := t.bus } ∧
      DoorTaken s t k level ∧
      Reported s t (.door :: clearNotices s t) (.door k :: clearRecords s t)

/-- In STABLED a change of a door's debounced level wakes the part, with the door as cause, and the door change is taken
(R133, R184; that the side of an isolated door is no less clear for it, by R141, is the model's choice, log entry 31). -/
def Obligations.DoorLevelWakesPart : Prop :=
  ∀ (s : State) (k : DoorId) (level : Bool) (i : Instr),
    let r := s.doors[k]
    (i = .doorLineEdge k level ∧ level ≠ r.raw ∧ s.debounce = 0 ∨
      i = .debounceExpiry k ∧ level = r.raw ∧ ∃ e, r.timer = some e ∧ reached s.clock e = true) →
    level ≠ r.level → Calm s → s.mode = .stabled → DoorsFollowLevels s →
    ∃ t, exec i s = .next t ∧
      t = { s with
        ports := t.ports, doors := t.doors, calling := t.calling, displays := t.displays, clear := t.clear, mode := t.mode
        wakeRecord := t.wakeRecord, wakeCause := t.wakeCause, reports := t.reports, bus := t.bus } ∧
      DoorTaken s t k level ∧ Woken s t (.door k) ∧
      Reported s t (wakeNotices s ++ clearNotices s t ++ [.door, .wake]) (wakeRecords s ++ [.door k, .part])

/-! ## The register window -/

/-- While a lane is not IDLE or holds a queued head, a write of an area register is dropped with reason AREA_IN_USE; else a write
of AREA_LO (its low 12 bits as 0) or AREA_HI, and a size outside 1 to 256, takes the value and makes the area invalid (R158,
R159). -/
def Obligations.AreaWritesPlaceTheArea : Prop :=
  ∀ (s : State) (v : Word),
    let busy := ∃ l : LaneId, s.lanes[l].state ≠ .idle ∨ s.lanes[l].queue ≠ []
    let size : BitVec 9 := v.truncate 9
    let dropped := { s with window := { s.window with dropped := true, dropReason := .areaInUse } }
    (busy → exec (.areaLoWrite v) s = .next dropped ∧ exec (.areaHiWrite v) s = .next dropped ∧
      exec (.areaSizeWrite v) s = .next dropped) ∧
    (¬ busy →
      exec (.areaLoWrite v) s =
        .next { s with window := { s.window with areaLo := v &&& 0xFFFFF000#32, areaValid := false } } ∧
      exec (.areaHiWrite v) s = .next { s with window := { s.window with areaHi := v, areaValid := false } } ∧
      (size.toNat = 0 ∨ 256 < size.toNat →
        exec (.areaSizeWrite v) s = .next { s with window := { s.window with areaSize := size, areaValid := false } }))

/-- A write of AREA_SIZE of 1 to 256 with both lanes at rest validates the area: suspension ends, a pending reset announcement
raises RESET, and every record of the region is written (R158, R179). A record that stands in the region, here and wherever else one
does, has its edition at both its ends and shows the state it carries, every field at its place, an absent one by its code, every
reserved byte 0, numbers little-endian; reports flow while the area is valid and nothing is suspended, and REJECT is set else (R172,
R173, R187; section 10.1; section 12.5 with the contents that R7, R58, R67, R109, R130, R143, R166 and R177 list; the
order of the coverage entries, the lane byte of an empty fault record, the entry of a tile that is not present, and the position, head
and block of a lane without a chain or a block in hand are the model's reading, log entries 10 to 13). -/
def Obligations.AreaSizeValidatesArea : Prop :=
  (∀ (s : State) (v : Word),
    let size : BitVec 9 := v.truncate 9
    (∀ l : LaneId, s.lanes[l].state = .idle ∧ s.lanes[l].queue = []) → 1 ≤ size.toNat → size.toNat ≤ 256 → Calm s →
    ∃ t, exec (.areaSizeWrite v) s = .next t ∧
      t = { s with window := { s.window with areaSize := size, areaValid := true }, reports := t.reports, bus := t.bus } ∧
      Reported { s with
          window := { s.window with areaSize := size, areaValid := true }
          reports := { s.reports with suspended := false, announce := false } } t
        (if s.reports.announce then [.reset] else []) (.part :: recordsBeforePart) ∧
      (∀ r : Record, RecordStands t r) ∧ reject t = false) ∧
  (∀ (s : State) (r : Record), RecordStands s r →
    RecordShows s r (s.bus.mem.readBytes (areaBase s + recordPlace r) (recordLength r))) ∧
  (∀ q r : Record, r.offset = recordPlace r ∧ r.size = recordLength r ∧ (q.index = r.index → q = r) ∧
    r ∈ Record.part :: recordsBeforePart) ∧
  (∀ s : State, areaBase s = 2 ^ 32 * s.window.areaHi.toNat + s.window.areaLo.toNat ∧
    areaBytes s = 65536 * s.window.areaSize.toNat ∧
    (reportsFlow s = true ↔ s.window.areaValid = true ∧ s.reports.suspended = false) ∧ reject s = !reportsFlow s) ∧
  (∀ (w : BitVec 11) (n : Notice), n.bit = noticePlace n ∧ n.mask.toNat = 2 ^ noticePlace n ∧
    hasNotice w n = w.getLsbD (noticePlace n)) ∧
  ∀ n v : Nat, (leBytes n v).length = n ∧ number (leBytes n v) 0 n = v % 256 ^ n

/-- A read of STATUS returns each field at its place and clears DROPPED. IDENT reads the part code between two codes fixed in the
part, the area registers and COMMAND the values they hold, ATTENTION 0, RESET_CAUSE its three bits. A write of COMMAND stores the value
and nothing else; a write of a read-only register does nothing; RESET_CAUSE loses each bit written as 1; ATTENTION is captured with the
COMMAND value while BUSY is clear, and dropped with reason BUSY else (R157, R159, R160, R161; section 12.1). That the family and
revision codes are any two values is log entry 5; that a read other than of STATUS is a function of the state and no command is the
model's choice, log entry 24. -/
def Obligations.RegisterAccessesAct : Prop :=
  (∀ (s : State) (v : Word),
    exec (.registerWrite .command v) s = .next { s with window := { s.window with command := v } } ∧
    exec (.registerWrite .ident v) s = .next s ∧ exec (.registerWrite .status v) s = .next s ∧
    (∃ c : BitVec 3, exec (.resetCauseWrite v) s = .next { s with window := { s.window with resetCause := c } } ∧
      ∀ i, i < 3 → c.getLsbD i = (s.window.resetCause.getLsbD i && !v.getLsbD i)) ∧
    (s.window.attention = none →
      exec (.attentionWrite v) s = .next { s with window := { s.window with attention := some (v, s.window.command) } }) ∧
    (s.window.attention ≠ none →
      exec (.attentionWrite v) s = .next { s with window := { s.window with dropped := true, dropReason := .busy } })) ∧
  (∀ s : State,
    (readRegister s .ident).toNat / 2 ^ 8 % 2 ^ 16 = 0x1204 ∧ (∀ t : State, readRegister t .ident = readRegister s .ident) ∧
    readRegister s .areaLo = s.window.areaLo ∧ readRegister s .areaHi = s.window.areaHi ∧
    (readRegister s .areaSize).toNat = s.window.areaSize.toNat ∧ readRegister s .command = s.window.command ∧
    (readRegister s .attention).toNat = 0 ∧ (readRegister s .resetCause).toNat = s.window.resetCause.toNat) ∧
  ∀ s : State, (∀ l : LaneId, s.lanes[l].queue.length ≤ 4) →
    let lane (l : LaneId) : Nat := match s.lanes[l].state with
      | .idle => 0
      | .running _ => 1
      | .faulted => 2
    ∃ w : Word, readRegister s .status = w ∧ exec .statusRead s = .next { s with window := { s.window with readData := w, dropped := false } } ∧
      w.getLsbD 0 = s.window.attention.isSome ∧
      w.getLsbD 1 = (!s.window.areaValid || s.reports.suspended) ∧
      w.getLsbD 2 = s.reports.iv ∧
      w.getLsbD 3 = s.window.dropped ∧
      (w.extractLsb' 4 4).toNat = (match s.window.dropReason with
        | .none => 0
        | .busy => 1
        | .reject => 2
        | .full => 3
        | .badCode => 4
        | .areaInUse => 5) ∧
      (w.extractLsb' 8 2).toNat = lane 0 ∧ (w.extractLsb' 10 2).toNat = lane 1 ∧
      (w.extractLsb' 12 3).toNat = s.lanes[(0 : LaneId)].queue.length ∧
      (w.extractLsb' 15 3).toNat = s.lanes[(1 : LaneId)].queue.length ∧
      w.getLsbD 18 = decide (s.mode = .stabled) ∧
      w.getLsbD 19 = s.window.areaValid ∧
      w.toNat < 2 ^ 20

/-! ## Attention words -/

/-- A captured word of a code 0 or 6 to 15, a RUN CHAIN or HALT LANE whose target is no lane, and a RESTART with target 14 are
dropped with reason BAD_CODE, and no other word is. A RUN CHAIN of a lane is dropped with reason REJECT while REJECT is set, and else
with reason FULL while its lane's queue holds 4 heads (R161, R162). The code is in bits 3:0 of a word, the target in bits 7:4, the
argument in bits 31:16 (section 12.1). That BAD_CODE and the command of its own code both take a word of a
known code whose target names nothing is the model's reading, log entry 25; that BAD_CODE is the reason of such a RUN CHAIN also while
REJECT is set, and that REJECT comes before FULL, are its choices, log entries 32 and 19. -/
def Obligations.WordsAreDropped : Prop :=
  (∀ w : Word, attentionCode w = w.toNat % 16 ∧ attentionTarget w = w.toNat / 2 ^ 4 % 16 ∧
    attentionArgument w = w.toNat / 2 ^ 16) ∧
  ∀ (s : State) (w head : Word), s.window.attention = some (w, head) →
    let bad := attentionCode w = 0 ∨ 6 ≤ attentionCode w ∨
      (attentionCode w = 1 ∨ attentionCode w = 2) ∧ 2 ≤ attentionTarget w ∨ attentionCode w = 4 ∧ attentionTarget w = 14
    let dropped (i : Instr) (r : DropReason) : Prop :=
      ∃ t, exec i s = .next t ∧ t = { wordDropped s r with reports := t.reports, bus := t.bus } ∧ Reported (wordDropped s r) t [] []
    (bad → exec .badCode s = .next (wordDropped s .badCode)) ∧ (¬ bad → exec .badCode s = .next s) ∧
    (bad → Calm s →
      (attentionCode w = 1 → dropped .runChain .badCode) ∧ (attentionCode w = 2 → dropped .haltLane .badCode) ∧
      (attentionCode w = 4 → dropped .restart .badCode)) ∧
    (∀ l : LaneId, attentionCode w = 1 → attentionTarget w = l.val → Calm s →
      (s.window.areaValid = false ∨ s.reports.suspended = true → dropped .runChain .reject) ∧
      (s.window.areaValid = true → s.reports.suspended = false → s.lanes[l].queue.length = 4 → dropped .runChain .full))

/-- RUN CHAIN appends the captured head to its lane's queue, and an IDLE lane takes it up at once; a STABLED part wakes first
(R162, R166, R184). -/
def Obligations.RunChainAppendsHead : Prop :=
  ∀ (s : State) (w head : Word) (l : LaneId), Captured s w head 1 → attentionTarget w = l.val → Calm s →
    s.window.areaValid = true → s.reports.suspended = false → s.lanes[l].queue.length < 4 →
    (s.mode = .run →
      ∃ t, exec .runChain s = .next t ∧
        t = { wordTaken s with lanes := t.lanes, reports := t.reports, bus := t.bus } ∧
        t.lanes = s.lanes.set l (laneAppended s.lanes[l] head) ∧
        Reported (wordTaken s) t [] [.lane l]) ∧
    (s.mode = .stabled →
      ∃ t, exec .runChain s = .next t ∧
        t = { wordTaken s with
          ports := t.ports, clear := t.clear, mode := t.mode, wakeRecord := t.wakeRecord, wakeCause := t.wakeCause
          lanes := t.lanes, reports := t.reports, bus := t.bus } ∧
        t.lanes = s.lanes.set l (laneAppended s.lanes[l] head) ∧ Woken s t .runChain ∧ t.clear = clearLines t ∧
        Reported (wordTaken s) t (wakeNotices s ++ clearNotices s t ++ [.wake]) (wakeRecords s ++ [.part, .lane l]))

/-- HALT LANE, and RESTART of the lane, find no block in hand: the queue is discarded, the lane is IDLE, FAULTED is cleared, and
LANE_HALTED raised; a restart clears the counters (R163, R164). -/
def Obligations.HaltStopsLaneBetweenBlocks : Prop :=
  ∀ (s : State) (w head : Word) (l : LaneId) (i : Instr) (zero : Bool),
    (i = .haltLane ∧ zero = false ∧ Captured s w head 2 ∧ attentionTarget w = l.val ∨
      i = .restart ∧ zero = true ∧ Captured s w head 4 ∧ attentionTarget w = 12 + l.val) →
    Calm s → inHand s l = none → s.lanes[l].halting = none →
    s.lanes[l].queue.length ≤ 4 → (∀ c, s.lanes[l].state = .running c → c.position ≤ 256) →
    ∃ t, exec i s = .next t ∧
      t = { wordTaken s with lanes := t.lanes, reports := t.reports, bus := t.bus } ∧
      t.lanes = s.lanes.set l (laneStopped s.lanes[l] zero) ∧
      Reported (wordTaken s) t [.laneHalted] (stopRecords l s.lanes[l] zero)

/-- HALT LANE, and RESTART of the lane, find a block in hand. With rows still to write, or no export under way, it ends FAILED
ABORTED, an export lets its slot go, and the lane stops as between blocks; a restart does not count the ending. After the last row
of an export the queue is discarded, and the stop waits for the block's end (R154, R163, R164; that a block in hand is always at its
safe point, or behind its last row, is the model's choice, log entries 15 and 18). -/
def Obligations.HaltEndsBlockInHand : Prop :=
  (∀ m : Export, m.allRows = true ↔
    (∃ p o i w h n g rows, m = .moving p o i w h n g rows ∧ h ≤ rows) ∨ ∃ d o w h g n rows, m = .copying d o w h g n rows ∧ h ≤ rows) ∧
  ∀ (s : State) (w head : Word) (l : LaneId) (i : Instr) (zero : Bool) (c : Chain) (b : InHand),
    (i = .haltLane ∧ zero = false ∧ Captured s w head 2 ∧ attentionTarget w = l.val ∨
      i = .restart ∧ zero = true ∧ Captured s w head 4 ∧ attentionTarget w = 12 + l.val) →
    Calm s → inHand s l = some (c, b) → s.lanes[l].halting = none →
    (¬ (l = 1 ∧ s.mover.allRows = true) →
      ∃ t, exec i s = .next t ∧
        t = { wordTaken s with
          store := t.store, lanes := t.lanes, mover := t.mover, reports := t.reports, bus := t.bus } ∧
        t.lanes = s.lanes.set l (laneStopped { s.lanes[l] with failed := s.lanes[l].failed + 1 } zero) ∧
        (l = 0 ∨ s.mover = .idle → t.mover = s.mover ∧ t.store = s.store) ∧
        (l = 1 → s.mover ≠ .idle → t.mover = .idle ∧ StoreLeft .mover s t) ∧
        Reported (endingWritten (wordTaken s) c.block (.failed .aborted 0)) t
          (endNotices l b.notify ++ [.laneHalted]) [.lane l]) ∧
    (l = 1 → s.mover.allRows = true →
      ∃ t, exec i s = .next t ∧
        t = { wordTaken s with lanes := t.lanes, reports := t.reports, bus := t.bus } ∧
        t.lanes = s.lanes.set l { s.lanes[l] with queue := [], halting := some { announce := true, zero } } ∧
        Reported (wordTaken s) t []
          (if ({ s.lanes[l] with queue := [] } : Lane).contents = s.lanes[l].contents then [] else [.lane l]))

/-- ACKNOWLEDGE clears the named notice bits and IV and has the part record written with the new word; with bits left, IV is set
again and one interrupt sent while reports flow (R165, R175, R176). -/
def Obligations.AcknowledgeClearsNotices : Prop :=
  ∀ (s : State) (w head : Word), Captured s w head 3 → Calm s →
    ∃ (t : State) (word : BitVec 11), exec .acknowledge s = .next t ∧
      t = { wordTaken s with reports := t.reports, bus := t.bus } ∧
      (∀ n : Notice, hasNotice word n = (hasNotice s.reports.notice n && !(attentionArgument w).testBit n.bit)) ∧
      Reported { wordTaken s with reports := { s.reports with notice := word, iv := false } } t [] [.part] ∧
      (t.reports.iv = true ↔ word ≠ 0 ∧ reportsFlow s = true) ∧
      t.bus.interrupts = s.bus.interrupts + if word ≠ 0 ∧ reportsFlow s = true then 1 else 0

/-- RESTART of a port discards its frame, stops its timer, withdraws its slots, removes its queue entries and clears its counters;
a defined port enters SEEKING in RUN and is PARKED in STABLED, an UNDEFINED port is PARKED; learning and the reference stand
(R21, R34, R43, R48, R63). -/
def Obligations.RestartPortStartsAfresh : Prop :=
  ∀ (s : State) (w head : Word) (p : PortId), Captured s w head 4 → attentionTarget w = p.val → Calm s →
    PortSlots s.store[p] s.ports[p].frame →
    ∃ t, exec .restart s = .next t ∧
      t = { wordTaken s with
        ports := t.ports, store := t.store, soil := t.soil, evalQueue := t.evalQueue, reports := t.reports, bus := t.bus } ∧
      t.ports = s.ports.set p
        { s.ports[p] with
          frame := none
          silence := none
          sums := Vector.replicate 48 { g := 0, l := 0 }
          health := { good := 0, bad := 0, aborted := 0, mismatched := 0, patched := 0, disorder := 0, losses := 0 }
          state := if s.ports[p].undefined = false ∧ s.mode = .run then .seeking else .parked } ∧
      t.store = s.store.set p t.store[p] ∧ SlotsWithdrawn s.store[p] t.store[p] ∧
      t.soil = s.soil.set p { s.soil[p] with intervalCount := 0 } ∧
      t.evalQueue = s.evalQueue.filter (fun e => decide (e.port ≠ p)) ∧
      Reported (wordTaken s) t [.camera] [.camera p]

/-- RESTART with target 15: a block in hand ends FAILED ABORTED, an export letting go, and both lanes stop with their counters
cleared and no LANE_HALTED of this restart; behind an export whose rows are all written the stop of lane 1 waits. Notice word, IV,
fault record and suspension are cleared, RESTART is set in RESET_CAUSE, and with the area valid RESET is raised and every record
written (R154, R163, R164, R179; that the blocks end before the word is cleared, and that a restart joins a halt that waits, is the
model's reading, log entry 16; that no other halt waits, log entries 15 and 18). -/
def Obligations.RestartAllRewritesReports : Prop :=
  ∀ (s : State) (w head : Word), Captured s w head 4 → attentionTarget w = 15 → Calm s → HaltsSettled s →
    let written := abortedWritten (abortedWritten (wordTaken s) 0) 1
    let lets := s.mover ≠ .idle ∧ s.mover.allRows = false ∧ (inHand s 1).isSome = true
    ∃ t, exec .restart s = .next t ∧
      let s1 := { written with
        window := { s.window with attention := none, resetCause := s.window.resetCause ||| 4#3 }
        store := t.store
        lanes := Vector.ofFn (laneRestarted s)
        mover := t.mover
        reports := { s.reports with notice := 0, iv := false, fault := none, suspended := false } }
      t = { s1 with reports := t.reports, bus := t.bus } ∧
      (lets → t.mover = .idle ∧ StoreLeft .mover s t) ∧ (¬ lets → t.mover = s.mover ∧ t.store = s.store) ∧
      (s.window.areaValid = true →
        Reported { s1 with reports := { s1.reports with announce := false } } t [.reset] (.part :: recordsBeforePart) ∧
        ∀ r : Record, RecordStands t r) ∧
      (s.window.areaValid = false → t.reports = { s1.reports with due := [] } ∧ t.bus = s1.bus)

/-- WAKE has no effect in RUN but to clear BUSY; in STABLED it wakes the part (R165, R184). -/
def Obligations.WakeWakesStabledPart : Prop :=
  ∀ (s : State) (w head : Word), Captured s w head 5 → Calm s →
    (s.mode = .run →
      ∃ t, exec .wake s = .next t ∧ t = { wordTaken s with reports := t.reports, bus := t.bus } ∧
        Reported (wordTaken s) t [] []) ∧
    (s.mode = .stabled →
      ∃ t, exec .wake s = .next t ∧
        t = { wordTaken s with
          ports := t.ports, clear := t.clear, mode := t.mode, wakeRecord := t.wakeRecord, wakeCause := t.wakeCause
          reports := t.reports, bus := t.bus } ∧
        Woken s t .wake ∧ t.clear = clearLines t ∧
        Reported (wordTaken s) t (wakeNotices s ++ clearNotices s t ++ [.wake]) (wakeRecords s ++ [.part]))

/-! ## Resets -/

/-- Power-on: every block at its power-on values, spelled out here field by field, frame memory and host memory as they were, the door
lines sampled once, an active one starting its timer; the reset state is what power-on leaves of itself. Of these values the raw levels
of the reset state are log entry 20's, the score, the display's frame size, blink phase and override of its last frame start and record
log entry 21's, its width, height and period log entry 22's, the memories' and the link's contents log entries 2 to 4 and 6. A link
reset: the window, the lanes and the Report Writer take their reset values, an export in flight is abandoned with its slot let go, LINK
is set in RESET_CAUSE, no byte of host memory is written, and everything else is as it was (R22, R37, R39, R68, R86, R89, R110, R125,
R144, R155, R156, R171, R180, R185). -/
def Obligations.ResetsTakeTheirValues : Prop :=
  ∀ s : State,
    exec .powerOn s = .next
      { clock := 0
        ports := Vector.replicate 12
          { undefined := true
            camera :=
              { role := .other, tip := none, side := none, coverage := [], width := 0, height := 0, silence := 200000
                patchLimit := 8, interval := 4 }
            state := .parked, frame := none, silence := none
            health := { good := 0, bad := 0, aborted := 0, mismatched := 0, patched := 0, disorder := 0, losses := 0 }
            sums := Vector.replicate 48 { g := 0, l := 0 } }
        store := Vector.replicate 12
          { slots := Vector.replicate 6
              { state := .empty, count := 0, stamp := 0, width := 0, height := 0
                locks := { displays := Vector.replicate 4 false, mover := false }, discard := false }
            order := [] }
        soil := Vector.replicate 12
          { limits :=
              { dark := 24, bright := 232, minReference := 32, minMeasurable := 8, ratio := 102, low := 16, high := 48
                warn := 25, blind := 60 }
            reference := Vector.replicate 48 0, informative := Vector.replicate 48 false
            counters := Vector.replicate 48 0, blocked := Vector.replicate 48 false, state := .unlearned, score := 0
            suspended := false, learning := none, abandoned := false, skips := 0, intervalCount := 0, oneShot := false }
        evalQueue := []
        layouts := Vector.replicate 16 none
        displays := Vector.replicate 4
          { configured := false
            settings :=
              { width := 0, height := 0, period := 0, doorScreen := false, doorLeft := none, doorRight := none
                doorBoth := none, hold := 2000000, blinkN := 4, blinkD := 8, minWidth := 320, minHeight := 180 }
            selected := 0, left := .idle, right := .idle, live := false, timing := none, frameCount := 0, tiles := []
            frameWidth := 0, frameHeight := 0, blinkOn := false, verdicts := Vector.replicate 8 false, effective := 0
            startOverride := .none }
        cab := none
        doors := Vector.ofFn fun k : DoorId =>
          { raw := s.doors[k].raw, timer := if s.doors[k].raw then some (30000 : Stamp) else none, level := false
            state := .shut, isolated := false, dwell := 1500000, opened := none, lapses := 0, lastView := none }
        debounce := 30000
        stored := Vector.replicate 4 (Vector.replicate 8 none)
        calling := { left := false, right := false }
        clear := { left := false, right := false }
        mode := .run
        wakeRecord := Vector.replicate 12 false
        wakeCause := .none
        window :=
          { areaLo := 0, areaHi := 0, areaSize := 0, areaValid := false, command := 0, attention := none, dropped := false
            dropReason := .none, resetCause := 1, readData := 0 }
        lanes := Vector.replicate 2 { queue := [], state := .idle, done := 0, failed := 0, skipped := 0, halting := none }
        mover := .idle
        reports :=
          { notice := 0, iv := false, fault := none, editions := Vector.replicate 52 0, suspended := false, announce := true
            lastOverride := Vector.replicate 4 .none, due := [] }
        frameMem := s.frameMem, bus := s.bus, pending := s.pending } ∧
    exec .powerOn .reset = .next .reset ∧ State.reset.frameMem = [] ∧
    State.reset.bus = { mem := [], fate := [], interrupts := 0 } ∧ State.reset.pending = [] ∧
    (∀ k : DoorId, State.reset.doors[k].raw = false) ∧
    (∃ t, exec .linkReset s = .next t ∧
      t = { s with
        store := t.store, mover := .idle
        window :=
          { areaLo := 0, areaHi := 0, areaSize := 0, areaValid := false, command := 0, attention := none, dropped := false
            dropReason := .none, resetCause := s.window.resetCause ||| 2#3, readData := s.window.readData }
        lanes := Vector.replicate 2
          { queue := [], state := .idle, done := 0, failed := 0, skipped := 0, halting := none }
        reports := { s.reports with
          notice := 0, iv := false, fault := none, suspended := false, announce := true, due := [] } } ∧
      StoreLeft .mover s t ∧ reject t = true)

/-! ## The walk along a chain -/

/-- A lane that reaches a PENDING block of a kind of its own, within the area, of a body of at most 288 bytes, takes it: the chain
position increases, the header's fields and the body are in hand, and TAKEN is written (R168, steps 1 to 7; section 12.2). A block is in hand of a lane that has taken it;
kinds have the codes of section 12.2. That
HEADER_READ alone also reads the body, writes TAKEN and has the block in hand is the model's choice, log entry 15. -/
def Obligations.HeaderReadTakesBlock : Prop :=
  (∀ (s : State) (l : LaneId) (c : Chain) (b : InHand),
    inHand s l = some (c, b) ↔ s.lanes[l].state = .running c ∧ c.phase = .taken b) ∧
  (∀ k : Kind, k.code = match k with
    | .defineCamera => 1
    | .parkCamera => 2
    | .unparkCamera => 3
    | .loadLayout => 4
    | .clearLayout => 5
    | .selectLayout => 6
    | .setDisplay => 7
    | .setCab => 8
    | .learnReference => 9
    | .setReference => 10
    | .measureOnce => 11
    | .setSoilLimits => 12
    | .setDoorPolicy => 13
    | .enterStabling => 14
    | .exportFrame => 15
    | .exportScreen => 16) ∧
  ∀ (s : State) (l : LaneId) (c : Chain),
    let a := areaBase s + c.block.toNat
    let r (i : Nat) : Nat := (s.bus.mem.read (a + i)).toNat
    let n := r 6 + 256 * r 7
    Walks s l .reach c → s.bus.fate = [] → Placed s c.block → c.position < 256 → r 0 = 0 → n ≤ 288 →
    c.block.toNat + 32 + n ≤ areaBytes s → (l = 0 ∧ 1 ≤ r 3 ∧ r 3 ≤ 14 ∨ l = 1 ∧ (r 3 = 15 ∨ r 3 = 16)) →
    ∃ t, exec (.headerRead l) s = .next t ∧ t = { s with lanes := t.lanes, reports := t.reports, bus := t.bus } ∧
      t.lanes = s.lanes.set l
        { s.lanes[l] with
          state := .running
            { c with
              position := c.position + 1
              phase := .taken
                { kind := r 3
                  notify := (r 4).testBit 0
                  haltOnFail := (r 4).testBit 1
                  target := r 5
                  next := BitVec.ofNat 32 (r 8 + 256 * r 9 + 65536 * r 10 + 16777216 * r 11)
                  body := s.bus.mem.readBytes (a + 32) n } } } ∧
      Reported (hostWritten s a [1]) t [] [.lane l]

/-- A lane ends a block it reaches without taking it: CHAIN_TOO_LONG as the 257th of its chain, NOT_PENDING, BAD_VALUE 255 for a
body over 288 bytes, BAD_KIND for a kind not its own, the first that holds (R168, steps 2 to 5; R169). The status, reason and detail
of an ending have the codes of section 12.2 (R167). -/
def Obligations.HeaderReadEndsBlock : Prop :=
  (∀ e : Ending, (e.status, e.reason, e.detail) = match e with
    | .done => (2, 0, 0)
    | .skipped => (4, 0, 0)
    | .failed .badKind d => (3, 1, d)
    | .failed .badTarget d => (3, 2, d)
    | .failed .badValue d => (3, 3, d)
    | .failed .notAllowedNow d => (3, 4, d)
    | .failed .notPending d => (3, 5, d)
    | .failed .chainTooLong d => (3, 6, d)
    | .failed .aborted d => (3, 7, d)
    | .failed .noFrame d => (3, 8, d)
    | .failed .roomShort d => (3, 9, d)
    | .failed .displayDark d => (3, 10, d)
    | .failed .displayStopped d => (3, 11, d)
    | .failed .hostWrite d => (3, 12, d)) ∧
  ∀ (s : State) (l : LaneId) (c : Chain) (e : Ending),
    let a := areaBase s + c.block.toNat
    let r (i : Nat) : Nat := (s.bus.mem.read (a + i)).toNat
    let n := r 6 + 256 * r 7
    let within := c.block.toNat + 32 + n ≤ areaBytes s
    let own := l = 0 ∧ 1 ≤ r 3 ∧ r 3 ≤ 14 ∨ l = 1 ∧ (r 3 = 15 ∨ r 3 = 16)
    Walks s l .reach c → s.bus.fate = [] → Placed s c.block →
    (c.position = 256 ∧ e = .failed .chainTooLong 0 ∨
      c.position < 256 ∧ r 0 ≠ 0 ∧ e = .failed .notPending 0 ∨
      c.position < 256 ∧ r 0 = 0 ∧ 288 < n ∧ e = .failed .badValue 255 ∨
      c.position < 256 ∧ r 0 = 0 ∧ n ≤ 288 ∧ within ∧ ¬ own ∧ e = .failed .badKind 0) →
    ∃ t, exec (.headerRead l) s = .next t ∧ t = { s with lanes := t.lanes, reports := t.reports, bus := t.bus } ∧
      BlockEnds l s t { c with position := c.position + 1 } ((r 4).testBit 0) ((r 4).testBit 1)
        (BitVec.ofNat 32 (r 8 + 256 * r 9 + 65536 * r 10 + 16777216 * r 11)) e [] []

/-- A skip walk ends a PENDING block SKIPPED and passes any other as it stands; the 257th block of a chain ends CHAIN_TOO_LONG; it
goes on by each block's next field (R169). -/
def Obligations.SkipWalkSkipsBlock : Prop :=
  ∀ (s : State) (l : LaneId) (c : Chain),
    let a := areaBase s + c.block.toNat
    let r (i : Nat) : Nat := (s.bus.mem.read (a + i)).toNat
    let c1 := { c with position := c.position + 1 }
    let next : Word := BitVec.ofNat 32 (r 8 + 256 * r 9 + 65536 * r 10 + 16777216 * r 11)
    Walks s l .skip c → s.bus.fate = [] → Placed s c.block → c.position ≤ 256 →
    ∃ t, exec (.skipWalk l) s = .next t ∧ t = { s with lanes := t.lanes, reports := t.reports, bus := t.bus } ∧
      (c.position = 256 →
        BlockEnds l s t c1 ((r 4).testBit 0) ((r 4).testBit 1) next (.failed .chainTooLong 0) [] []) ∧
      (c.position < 256 → r 0 = 0 → BlockEnds l s t c1 ((r 4).testBit 0) ((r 4).testBit 1) next .skipped [] []) ∧
      (c.position < 256 → r 0 ≠ 0 →
        t.lanes = s.lanes.set l
          (if next = 0 then laneFree s.lanes[l]
          else { s.lanes[l] with state := .running { c1 with block := next, phase := .skip } }) ∧
        Reported s t [] [.lane l])

/-- A lane faults with PLACEMENT at a block that is misplaced, wherever in its chain, or whose body would leave the area; with
AREA_READ where the link fails the read of its header or its body; and with HOST_WRITE where it fails the write of TAKEN or of a
field of an ending. The lane is FAULTED, the fault record has the cause and the block's offset, FAULT is raised; what was written
before stands, no final status with it, and so does the action of a lane 0 block, here CLEAR LAYOUT; the block is not counted and
raises no notice (R168 to R170, R177; the transactions are those of log
entry 4, their place within HEADER_READ that of log entry 15). -/
def Obligations.MisplacedBlockFaultsLane : Prop :=
  (∀ (s : State) (l : LaneId) (c : Chain) (i : Instr),
    let a := areaBase s + c.block.toNat
    let r (i : Nat) : Nat := (s.bus.mem.read (a + i)).toNat
    let n := r 6 + 256 * r 7
    let within := c.block.toNat + 32 + n ≤ areaBytes s
    let own := l = 0 ∧ 1 ≤ r 3 ∧ r 3 ≤ 14 ∨ l = 1 ∧ (r 3 = 15 ∨ r 3 = 16)
    let takes := i = .headerRead l ∧ c.position < 256 ∧ r 0 = 0 ∧ n ≤ 288 ∧ within ∧ own
    let body := if n = 0 then 0 else 1
    let ends (e : Ending) : Prop :=
      c.position = 256 ∧ e = .failed .chainTooLong 0 ∨
      i = .skipWalk l ∧ c.position < 256 ∧ r 0 = 0 ∧ e = .skipped ∨
      i = .headerRead l ∧ c.position < 256 ∧
        (r 0 ≠ 0 ∧ e = .failed .notPending 0 ∨ r 0 = 0 ∧ 288 < n ∧ e = .failed .badValue 255 ∨
          r 0 = 0 ∧ n ≤ 288 ∧ within ∧ ¬ own ∧ e = .failed .badKind 0)
    (Walks s l .reach c ∧ i = .headerRead l ∨ Walks s l .skip c ∧ i = .skipWalk l) →
    (¬ Placed s c.block → s.bus.fate = [] → ∃ t, exec i s = .next t ∧ LaneFaults l s t .placement c.block) ∧
    (Placed s c.block →
      (i = .headerRead l → c.position < 256 → s.bus.fate = [] → r 0 = 0 → n ≤ 288 → ¬ within →
        ∃ t, exec i s = .next t ∧ LaneFaults l s t .placement c.block) ∧
      (∀ landed, s.bus.fate = failsAt 0 landed →
        ∃ t, exec i s = .next t ∧ LaneFaults l { s with bus := { s.bus with fate := [] } } t .areaRead c.block) ∧
      (∀ landed, takes → n ≠ 0 → s.bus.fate = failsAt 1 landed →
        ∃ t, exec i s = .next t ∧ LaneFaults l { s with bus := { s.bus with fate := [] } } t .areaRead c.block) ∧
      (∀ landed, takes → s.bus.fate = failsAt (1 + body) landed →
        ∃ t, exec i s = .next t ∧ LaneFaults l (cutShort s [(a, [1])] 0 landed) t .hostWrite c.block) ∧
      (∀ e k landed, ends e → k < 4 → s.bus.fate = failsAt (1 + k) landed →
        ∃ t, exec i s = .next t ∧ LaneFaults l (cutEnding s c.block e k landed) t .hostWrite c.block))) ∧
  (∀ (s : State) (c : Chain) (b : InHand) (y : LayoutId) (k landed : Nat),
    inHand s 0 = some (c, b) → b.kind = Kind.clearLayout.code → b.target = y.val → b.body = [] → k < 4 →
    s.lanes[(0 : LaneId)].halting = none → NothingDue s → s.bus.fate = failsAt k landed →
    ∃ t, exec .clearLayout s = .next t ∧
      LaneFaults 0 { cutEnding s c.block .done k landed with layouts := s.layouts.set y none } t .hostWrite
        c.block)

/-! ## Blocks of the cameras -/

/-- DEFINE CAMERA: checked for its target, a PARKED port, its length and the ranges of R3; then the record is taken and the port is
defined, its interval count 0, and its reference discarded where the size is new or the port was UNDEFINED (R3, R4, R43, R66; that
two equal doors of the coverage count once is the model's reading, log entry 10). -/
def Obligations.DefineCameraTakesRecord : Prop :=
  ∀ (s : State) (c : Chain) (b : InHand),
    let r (i : Nat) : Nat := (b.body.getD i 0).toNat
    let width := r 6 + 256 * r 7
    let height := r 8 + 256 * r 9
    let silence := if (r 5).testBit 0 then r 10 + 256 * r 11 else 200
    let patches := if (r 5).testBit 1 then r 12 else 8
    let inRange := r 0 ≤ 3 ∧ r 1 ≤ 2 ∧ r 2 ≤ 2 ∧ r 3 ≤ 8 ∧ r 4 ≤ 8 ∧ 320 ≤ width ∧ width ≤ 1280 ∧ width % 32 = 0 ∧
      240 ≤ height ∧ height ≤ 768 ∧ height % 24 = 0 ∧ 50 ≤ silence ∧ silence ≤ 1000 ∧ patches ≤ 64 ∧
      (r 0 = 1 → r 1 ≠ 0) ∧ (r 0 = 2 → r 1 ≠ 0 ∧ r 2 ≠ 0)
    BlockInHand s 0 .defineCamera c b →
    (12 ≤ b.target → OnlyEnds .defineCamera s c b (.failed .badTarget 0)) ∧
    ∀ p : PortId, b.target = p.val →
      let q := s.ports[p]
      let m := s.soil[p]
      (q.state ≠ .parked → OnlyEnds .defineCamera s c b (.failed .notAllowedNow 0)) ∧
      (q.state = .parked → b.body.length ≠ 16 → OnlyEnds .defineCamera s c b (.failed .badValue 255)) ∧
      (q.state = .parked → b.body.length = 16 → ¬ inRange → OnlyEnds .defineCamera s c b (.failed .badValue 0)) ∧
      (q.state = .parked → b.body.length = 16 → inRange →
        let resized := q.undefined = true ∨ width ≠ q.camera.width ∨ height ≠ q.camera.height
        ∃ (t : State) (k : CameraRecord), exec .defineCamera s = .next t ∧
          t = { s with ports := t.ports, soil := t.soil, lanes := t.lanes, reports := t.reports, bus := t.bus } ∧
          roleNumber k.role = r 0 ∧ abNumber k.tip = (if r 0 = 1 ∨ r 0 = 2 then r 1 else 0) ∧
          abNumber k.side = (if r 0 = 2 then r 2 else 0) ∧
          k.coverage.map (fun d => d.val + 1) = (if r 3 = r 4 then [r 3] else [r 3, r 4]).filter (fun n => decide (n ≠ 0)) ∧
          k.width = width ∧ k.height = height ∧ k.silence = 1000 * silence ∧ k.patchLimit = patches ∧
          k.interval = (if (r 5).testBit 2 then r 13 else 4) ∧
          t.ports = s.ports.set p { q with undefined := false, camera := k } ∧
          t.soil = s.soil.set p
            (if resized then
              { m with
                reference := Vector.replicate 48 0, informative := Vector.replicate 48 false
                counters := Vector.replicate 48 0, blocked := Vector.replicate 48 false
                suspended := false, learning := none, score := 0, state := .unlearned, intervalCount := 0 }
            else { m with intervalCount := 0 }) ∧
          BlockDone s t c b .done (if resized ∧ m.state ≠ .unlearned then [.soil, .camera] else [.camera])
            (if resized then [.camera p, .soil p, .reference p] else [.camera p]))

/-- PARK CAMERA parks a port: its frame and its slots are given up, its timer stops, a learning is abandoned, its queue entries
leave; a PARKED port is left alone (R5, R34, R43, R48, R63). UNPARK CAMERA takes a defined PARKED port to SEEKING, and is refused
in STABLED and for an UNDEFINED port (R6). -/
def Obligations.ParkAndUnparkMoveThePort : Prop :=
  ∀ (s : State) (c : Chain) (b : InHand),
    (BlockInHand s 0 .parkCamera c b →
      (12 ≤ b.target → OnlyEnds .parkCamera s c b (.failed .badTarget 0)) ∧
      ∀ p : PortId, b.target = p.val →
        let q := s.ports[p]
        let m := s.soil[p]
        (b.body ≠ [] → OnlyEnds .parkCamera s c b (.failed .badValue 255)) ∧
        (b.body = [] → q.state = .parked → OnlyEnds .parkCamera s c b .done) ∧
        (b.body = [] → q.state ≠ .parked → PortSlots s.store[p] q.frame →
          ∃ t, exec .parkCamera s = .next t ∧
            t = { s with
              ports := t.ports, store := t.store, soil := t.soil, evalQueue := t.evalQueue, lanes := t.lanes
              reports := t.reports, bus := t.bus } ∧
            t.ports = s.ports.set p
              { q with state := .parked, frame := none, silence := none, sums := Vector.replicate 48 { g := 0, l := 0 } } ∧
            t.store = s.store.set p t.store[p] ∧ SlotsWithdrawn s.store[p] t.store[p] ∧
            t.soil = s.soil.set p { learningDropped m with intervalCount := 0 } ∧
            t.evalQueue = s.evalQueue.filter (fun e => decide (e.port ≠ p)) ∧
            BlockDone s t c b .done (dropNotices m ++ [.camera]) (.camera p :: dropRecords p m))) ∧
    (BlockInHand s 0 .unparkCamera c b →
      (12 ≤ b.target → OnlyEnds .unparkCamera s c b (.failed .badTarget 0)) ∧
      ∀ p : PortId, b.target = p.val →
        let q := s.ports[p]
        let refused := q.undefined = true ∨ s.mode = .stabled
        (refused → OnlyEnds .unparkCamera s c b (.failed .notAllowedNow 0)) ∧
        (¬ refused → b.body ≠ [] → OnlyEnds .unparkCamera s c b (.failed .badValue 255)) ∧
        (¬ refused → b.body = [] → q.state ≠ .parked → OnlyEnds .unparkCamera s c b .done) ∧
        (¬ refused → b.body = [] → q.state = .parked →
          ∃ t, exec .unparkCamera s = .next t ∧
            t = { s with ports := t.ports, lanes := t.lanes, reports := t.reports, bus := t.bus } ∧
            t.ports = s.ports.set p { q with state := .seeking, frame := none, silence := none } ∧
            BlockDone s t c b .done [.camera] [.camera p]))

/-! ## Blocks of the layouts and displays -/

/-- LOAD LAYOUT takes the tiles of its body, in order and with their hidden marks, into the slot, where every record keeps the
ranges and conditions of R70 to R74; else it ends with the index of the first record that does not. CLEAR LAYOUT empties a slot;
SELECT LAYOUT selects a slot for a display (R70 to R78, R91; sections 12.3 and 12.4). -/
def Obligations.LayoutBlocksChangeTheTable : Prop :=
  ∀ (s : State) (c : Chain) (b : InHand),
    let n := b.body.length
    (BlockInHand s 0 .loadLayout c b →
      (16 ≤ b.target → OnlyEnds .loadLayout s c b (.failed .badTarget 0)) ∧
      ∀ y : LayoutId, b.target = y.val →
        ((n = 0 ∨ 256 < n ∨ n % 32 ≠ 0) → OnlyEnds .loadLayout s c b (.failed .badValue 255)) ∧
        (n ≠ 0 → n ≤ 256 → n % 32 = 0 →
          (∀ i, i < n / 32 → ¬ TileAllowed b.body (32 * i) → (∀ j, j < i → TileAllowed b.body (32 * j)) →
            OnlyEnds .loadLayout s c b (.failed .badValue i)) ∧
          ((∀ i, i < n / 32 → TileAllowed b.body (32 * i)) →
            ∃ (t : State) (ts : List Tile), exec .loadLayout s = .next t ∧
              t = { s with layouts := t.layouts, lanes := t.lanes, reports := t.reports, bus := t.bus } ∧
              ts.length = n / 32 ∧ (∀ i u, ts[i]? = some u → TileGiven b.body (32 * i) u) ∧
              t.layouts = s.layouts.set y (some (markHidden ts)) ∧ BlockDone s t c b .done [] []))) ∧
    (BlockInHand s 0 .clearLayout c b →
      (16 ≤ b.target → OnlyEnds .clearLayout s c b (.failed .badTarget 0)) ∧
      ∀ y : LayoutId, b.target = y.val →
        (n ≠ 0 → OnlyEnds .clearLayout s c b (.failed .badValue 255)) ∧
        (n = 0 → ∃ t, exec .clearLayout s = .next t ∧
          t = { s with layouts := t.layouts, lanes := t.lanes, reports := t.reports, bus := t.bus } ∧
          t.layouts = s.layouts.set y none ∧ BlockDone s t c b .done [] [])) ∧
    (BlockInHand s 0 .selectLayout c b →
      (4 ≤ b.target → OnlyEnds .selectLayout s c b (.failed .badTarget 0)) ∧
      ∀ d : DisplayId, b.target = d.val →
        (n ≠ 4 → OnlyEnds .selectLayout s c b (.failed .badValue 255)) ∧
        (n = 4 → 16 ≤ number b.body 0 1 → OnlyEnds .selectLayout s c b (.failed .badValue 0)) ∧
        (∀ y : LayoutId, n = 4 → number b.body 0 1 = y.val →
          ∃ t, exec .selectLayout s = .next t ∧
            t = { s with displays := t.displays, lanes := t.lanes, reports := t.reports, bus := t.bus } ∧
            t.displays = s.displays.set d { s.displays[d] with selected := y } ∧ BlockDone s t c b .done [] []))

/-- SET DISPLAY takes the settings it gives, each in its range and the blink on-count within its exponent, for an unconfigured
display with width, height and period; a changed door-screen flag has the override recomputed without hold. The first one
configures the display, which takes its first frame start, a screen export that waits for it handled as at any frame start (R87,
R89, R90, R122, R150, R186; section 12.3; that this first frame start finds the override recomputed is the model's choice, log
entry 28). -/
def Obligations.SetDisplayTakesSettings : Prop :=
  ∀ (s : State) (c : Chain) (b : InHand),
    let n := number b.body
    let has (bit : Nat) : Prop := (n 0 2).testBit bit = true
    BlockInHand s 0 .setDisplay c b →
    (4 ≤ b.target → OnlyEnds .setDisplay s c b (.failed .badTarget 0)) ∧
    ∀ d : DisplayId, b.target = d.val →
      let p := s.displays[d]
      let layout (bit off : Nat) (kept : Option LayoutId) : Option LayoutId :=
        if has bit then if h : n off 1 < 16 then some ⟨n off 1, h⟩ else none else kept
      let inRange :=
        (has 0 → 640 ≤ n 2 2 ∧ n 2 2 ≤ 1920 ∧ n 2 2 % 16 = 0) ∧ (has 1 → 480 ≤ n 4 2 ∧ n 4 2 ≤ 1200) ∧
        (has 2 → 12000 ≤ n 8 4 ∧ n 8 4 ≤ 40000) ∧ (has 3 → n 12 1 ≤ 1) ∧ (has 4 → n 13 1 ≤ 15 ∨ n 13 1 = 255) ∧
        (has 5 → n 14 1 ≤ 15 ∨ n 14 1 = 255) ∧ (has 6 → n 15 1 ≤ 15 ∨ n 15 1 = 255) ∧ (has 7 → n 16 2 ≤ 10000) ∧
        (has 8 → 2 ≤ n 18 1 ∧ n 18 1 ≤ 6) ∧ (has 9 → 1 ≤ n 19 1 ∧ n 19 1 ≤ 63) ∧
        (has 10 → 16 ≤ n 20 2 ∧ n 20 2 ≤ 1920 ∧ 16 ≤ n 22 2 ∧ n 22 2 ≤ 1200)
      let new : DisplaySettings :=
        { width := if has 0 then n 2 2 else p.settings.width
          height := if has 1 then n 4 2 else p.settings.height
          period := if has 2 then n 8 4 else p.settings.period
          doorScreen := if has 3 then decide (n 12 1 = 1) else p.settings.doorScreen
          doorLeft := layout 4 13 p.settings.doorLeft
          doorRight := layout 5 14 p.settings.doorRight
          doorBoth := layout 6 15 p.settings.doorBoth
          hold := if has 7 then 1000 * n 16 2 else p.settings.hold
          blinkN := if has 8 then n 18 1 else p.settings.blinkN
          blinkD := if has 9 then n 19 1 else p.settings.blinkD
          minWidth := if has 10 then n 20 2 else p.settings.minWidth
          minHeight := if has 10 then n 22 2 else p.settings.minHeight }
      let whole := has 0 ∧ has 1 ∧ has 2
      let allowed := inRange ∧ (p.configured = false → whole) ∧ new.blinkD ≤ 2 ^ new.blinkN - 1
      let side (calls : Bool) (kept : SideStatus) : SideStatus :=
        if new.doorScreen = p.settings.doorScreen then kept
        else if new.doorScreen = true ∧ s.cab = some (cabOf d) ∧ calls = true then .called
        else .idle
      let s1 := { s with
        displays := s.displays.set d
          { p with
            settings := new, configured := true
            left := side (callingSet s).left p.left, right := side (callingSet s).right p.right } }
      let taken (live : Bool) (s2 : State) (ns : List Notice) (rs : List Record) : Prop :=
        ∃ t, exec .setDisplay s = .next t ∧
          t = { s2 with
            store := t.store, displays := t.displays, stored := t.stored, doors := t.doors, clear := t.clear
            lanes := t.lanes, reports := t.reports, bus := t.bus } ∧
          FrameTaken s1 t d live
            (if live then composeTiles s1 new.width new.height (s.layouts[shownLayout s1.displays[d]].getD []) else []) ∧
          BlockDone s2 t c b .done (ns ++ doorNotices s t ++ clearNotices s t)
            (rs ++ doorRecords s t ++ clearRecords s t ++ [.display d])
      (b.body.length ≠ 24 → OnlyEnds .setDisplay s c b (.failed .badValue 255)) ∧
      (b.body.length = 24 → ¬ allowed → OnlyEnds .setDisplay s c b (.failed .badValue 0)) ∧
      (b.body.length = 24 → allowed → p.configured = true →
        ∃ t, exec .setDisplay s = .next t ∧ t = { s1 with lanes := t.lanes, reports := t.reports, bus := t.bus } ∧
          BlockDone s t c b .done [] []) ∧
      (b.body.length = 24 → allowed → p.configured = false → p.timing = none → s.calling = callingSet s →
        ((∀ o, s.mover ≠ .waiting d o) →
          (startsLive s d → taken true s [] []) ∧ (¬ startsLive s d → taken false s [] [])) ∧
        (∀ o, s.mover = .waiting d o → HoldersBounded s →
          (startsLive s d → 4 * new.width ≤ o.stride → new.height * o.stride ≤ o.room →
            taken true { s with mover := .copying d o new.width new.height s.clock (p.frameCount + 1) 0 } [] []) ∧
          (∀ c1 b1, inHand s 1 = some (c1, b1) →
            let stopped (live : Bool) (r : Reason) : Prop :=
              taken live (exportEnded s c1 b1 (.failed r 0)) (exportNotices s b1) [.lane 1]
            (¬ startsLive s d → stopped false .displayStopped) ∧
            (startsLive s d → o.stride < 4 * new.width → stopped true .badValue) ∧
            (startsLive s d → 4 * new.width ≤ o.stride → o.room < new.height * o.stride → stopped true .roomShort))))

/-! ## Blocks of the cab, the doors and the mode -/

/-- SET CAB to another cab, or none, hands over: VIEWING and ASSURED doors are OPENED with no lapse, the stored vectors all false,
the overrides recomputed without hold, the lines as R141 has them, and a screen export, WAITING or COPYING, of a display that is not
of the new cab ends DISPLAY_STOPPED without its four fields; the cab that is active already changes nothing (R113, R114, R122,
R140, R152; that a COPYING export stands at a row boundary is the model's choice, log entry 18). -/
def Obligations.SetCabHandsOver : Prop :=
  ∀ (s : State) (c : Chain) (b : InHand) (cab : Option AB),
    let n := (b.body.getD 0 0).toNat
    let handed (s1 : State) (ns : List Notice) (rs : List Record) : Prop :=
      ∃ t, exec .setCab s = .next t ∧
        t = { s1 with
          cab, doors := t.doors, stored := t.stored, calling := t.calling, displays := t.displays, clear := t.clear
          lanes := t.lanes, reports := t.reports, bus := t.bus } ∧
        (∀ k : DoorId, t.doors[k] =
          if s.doors[k].state = .shut then s.doors[k] else { s.doors[k] with state := .opened }) ∧
        (∀ (d : DisplayId) (k : DoorId), t.stored[d][k] = none) ∧
        t.calling = callingSet t ∧ t.clear = clearLines t ∧
        (∀ d : DisplayId, t.displays[d] =
          { s.displays[d] with
            left := if isOverrideDisplay t d = true ∧ t.calling.left = true then .called else .idle
            right := if isOverrideDisplay t d = true ∧ t.calling.right = true then .called else .idle }) ∧
        BlockDone s1 t c b .done (ns ++ doorNotices s t ++ clearNotices s t ++ [.cab]) (rs ++ doorRecords s t ++ [.part])
    BlockInHand s 0 .setCab c b →
    (b.body.length ≠ 4 → OnlyEnds .setCab s c b (.failed .badValue 255)) ∧
    (b.body.length = 4 → 2 < n → OnlyEnds .setCab s c b (.failed .badValue 0)) ∧
    (b.body.length = 4 → n = abNumber cab → cab = s.cab → OnlyEnds .setCab s c b .done) ∧
    (b.body.length = 4 → n = abNumber cab → cab ≠ s.cab →
      ((∀ d, screenOf s.mover = some d → cab = some (cabOf d)) → handed s [] []) ∧
      (∀ d c1 b1, screenOf s.mover = some d → cab ≠ some (cabOf d) → inHand s 1 = some (c1, b1) → HoldersBounded s →
        handed (exportEnded s c1 b1 (.failed .displayStopped 0)) (exportNotices s b1) [.lane 1]))

/-- SET DOOR POLICY takes the debounce time, the isolated flags and the dwells it gives; an ASSURED door whose new dwell has not
elapsed is VIEWING again; calling set, overrides and lines follow (R128, R129, R142, R143). -/
def Obligations.SetDoorPolicyTakesPolicy : Prop :=
  ∀ (s : State) (c : Chain) (b : InHand),
    let r (i : Nat) : Nat := (b.body.getD i 0).toNat
    let mask := r 0 + 256 * r 1 + 65536 * r 2 + 16777216 * r 3
    let millis (k : DoorId) : Nat := r (8 + 2 * k.val) + 256 * r (9 + 2 * k.val)
    let dwell (k : DoorId) : Nat := if mask.testBit (9 + k.val) then 1000 * millis k else s.doors[k].dwell
    let inRange := (mask.testBit 0 = true → r 4 ≤ 250) ∧
      ∀ k : DoorId, mask.testBit (9 + k.val) = true → 200 ≤ millis k ∧ millis k ≤ 5000
    BlockInHand s 0 .setDoorPolicy c b →
    (b.body.length ≠ 24 → OnlyEnds .setDoorPolicy s c b (.failed .badValue 255)) ∧
    (b.body.length = 24 → ¬ inRange → OnlyEnds .setDoorPolicy s c b (.failed .badValue 0)) ∧
    (b.body.length = 24 → inRange →
      ∃ t, exec .setDoorPolicy s = .next t ∧
        t = { s with
          debounce := if mask.testBit 0 then 1000 * r 4 else s.debounce
          doors := t.doors, calling := t.calling, displays := t.displays, clear := t.clear
          lanes := t.lanes, reports := t.reports, bus := t.bus } ∧
        (∀ k : DoorId, t.doors[k] =
          { s.doors[k] with
            isolated := if mask.testBit (1 + k.val) then (r 5).testBit k.val else s.doors[k].isolated
            dwell := dwell k
            state := match s.doors[k].state with
              | .assured since_ =>
                if dwell k ≠ s.doors[k].dwell ∧ since s.clock since_ < dwell k then .viewing since_ else .assured since_
              | .shut => .shut
              | .opened => .opened
              | .viewing since_ => .viewing since_ }) ∧
        SidesFollow s t ∧
        BlockDone s t c b .done (doorNotices s t ++ clearNotices s t) (doorRecords s t ++ clearRecords s t))

/-- ENTER STABLING with every door SHUT records and parks every port that runs, goes to STABLED and drops the lines; a COPYING screen
export ends DISPLAY_STOPPED without its four fields, any other export stays in flight. It is refused in RUN while a door is not
SHUT, and changes nothing in STABLED (R148, R152, R181, R182; that a COPYING export stands at a row boundary is the model's choice,
log entry 18, and that a WAITING one is left to its display's next frame start, log entry 30). -/
def Obligations.EnterStablingParksThePart : Prop :=
  ∀ (s : State) (c : Chain) (b : InHand),
    let shut := ∀ k : DoorId, s.doors[k].state = .shut
    let parked (p : PortId) : Prop := s.ports[p].state = .parked
    let running := (List.finRange 12).filter fun p => decide (s.ports[p].state ≠ .parked)
    let entered (s1 : State) (ns : List Notice) (rs : List Record) : Prop :=
      ∃ t, exec .enterStabling s = .next t ∧
        t = { s1 with
          ports := t.ports, store := t.store, soil := t.soil, evalQueue := t.evalQueue, clear := t.clear, mode := .stabled
          wakeRecord := t.wakeRecord, lanes := t.lanes, reports := t.reports, bus := t.bus } ∧
        t.clear.left = false ∧ t.clear.right = false ∧
        t.evalQueue = s.evalQueue.filter (fun e => decide (s.ports[e.port].state = .parked)) ∧
        (∀ p : PortId, t.wakeRecord[p] = decide (s.ports[p].state ≠ .parked)) ∧
        (∀ p : PortId, parked p → t.ports[p] = s.ports[p] ∧ t.store[p] = s.store[p] ∧ t.soil[p] = s.soil[p]) ∧
        (∀ p : PortId, ¬ parked p →
          t.ports[p] = { s.ports[p] with
            state := .parked, frame := none, silence := none, sums := Vector.replicate 48 { g := 0, l := 0 } } ∧
          SlotsWithdrawn s.store[p] t.store[p] ∧ t.soil[p] = { learningDropped s.soil[p] with intervalCount := 0 }) ∧
        BlockDone s1 t c b .done
          (ns ++ (running.flatMap fun p => dropNotices s.soil[p] ++ [.camera]) ++ clearNotices s t)
          (rs ++ (running.flatMap fun p => .camera p :: dropRecords p s.soil[p]) ++ [.part])
    BlockInHand s 0 .enterStabling c b →
    (b.body ≠ [] → OnlyEnds .enterStabling s c b (.failed .badValue 255)) ∧
    (b.body = [] → s.mode = .stabled → OnlyEnds .enterStabling s c b .done) ∧
    (b.body = [] → s.mode = .run → ¬ shut → OnlyEnds .enterStabling s c b (.failed .notAllowedNow 0)) ∧
    (b.body = [] → s.mode = .run → shut → (∀ p : PortId, PortSlots s.store[p] s.ports[p].frame) →
      ((∀ d o w h y f r, s.mover ≠ .copying d o w h y f r) → entered s [] []) ∧
      (∀ d o w h y f r c1 b1, s.mover = .copying d o w h y f r → inHand s 1 = some (c1, b1) → HoldersBounded s →
        entered (exportEnded s c1 b1 (.failed .displayStopped 0)) (exportNotices s b1) [.lane 1]))

/-! ## Blocks of the Soil Monitor -/

/-- LEARN REFERENCE takes a SEEKING or LIVE camera to LEARNING over K frames, 4 to 32, 16 where none is given, from the start even
if it is LEARNING already; SET REFERENCE gives a camera that is not LEARNING a reference, each value held to 4080 (R59, R61, R64,
R65). -/
def Obligations.ReferenceBlocksSetTheReference : Prop :=
  ∀ (s : State) (c : Chain) (b : InHand),
    let r (i : Nat) : Nat := (b.body.getD i 0).toNat
    let frames := if r 0 = 0 then 16 else r 0
    (BlockInHand s 0 .learnReference c b →
      (12 ≤ b.target → OnlyEnds .learnReference s c b (.failed .badTarget 0)) ∧
      ∀ p : PortId, b.target = p.val →
        let q := s.ports[p]
        let m := s.soil[p]
        let refused := q.undefined = true ∨ q.state = .parked ∨ q.state = .lost
        (refused → OnlyEnds .learnReference s c b (.failed .notAllowedNow 0)) ∧
        (¬ refused → b.body.length ≠ 4 → OnlyEnds .learnReference s c b (.failed .badValue 255)) ∧
        (¬ refused → b.body.length = 4 → (frames < 4 ∨ 32 < frames) →
          OnlyEnds .learnReference s c b (.failed .badValue 0)) ∧
        (¬ refused → b.body.length = 4 → 4 ≤ frames → frames ≤ 32 →
          ∃ (t : State) (saved : SoilState), exec .learnReference s = .next t ∧
            t = { s with soil := t.soil, lanes := t.lanes, reports := t.reports, bus := t.bus } ∧
            t.soil = s.soil.set p
              { m with
                state := .learning
                learning := some { target := frames, taken := 0, sums := Vector.replicate 48 0, saved }
                abandoned := false } ∧
            (m.state ≠ .learning → saved = m.state) ∧
            (∀ g, m.state = .learning → m.learning = some g → saved = g.saved) ∧
            BlockDone s t c b .done (if m.state = .learning then [] else [.soil]) [.soil p])) ∧
    (BlockInHand s 0 .setReference c b →
      (12 ≤ b.target → OnlyEnds .setReference s c b (.failed .badTarget 0)) ∧
      ∀ p : PortId, b.target = p.val →
        let m := s.soil[p]
        let refused := s.ports[p].undefined = true ∨ m.state = .learning
        (refused → OnlyEnds .setReference s c b (.failed .notAllowedNow 0)) ∧
        (¬ refused → b.body.length ≠ 96 → OnlyEnds .setReference s c b (.failed .badValue 255)) ∧
        (¬ refused → b.body.length = 96 →
          ∃ t, exec .setReference s = .next t ∧
            t = { s with soil := t.soil, lanes := t.lanes, reports := t.reports, bus := t.bus } ∧
            t.soil = s.soil.set p (withReference { m with abandoned := false }
              (Vector.ofFn fun i : Fin 48 => min (r (2 * i.val) + 256 * r (2 * i.val + 1)) 4080)) ∧
            BlockDone s t c b .done [.soil] [.soil p, .reference p]))

/-- MEASURE ONCE sets the one-shot flag of a defined port; SET SOIL LIMITS takes the limits it gives if the whole set is consistent,
and a CLEAN, SMEARED or BLINDED state is derived again from the score (R39, R40, R42, R58). -/
def Obligations.SoilBlocksSetFlagAndLimits : Prop :=
  ∀ (s : State) (c : Chain) (b : InHand),
    let r (i : Nat) : Nat := (b.body.getD i 0).toNat
    let mask := r 0 + 256 * r 1
    let pick (bit new kept : Nat) : Nat := if mask.testBit bit then new else kept
    (BlockInHand s 0 .measureOnce c b →
      (12 ≤ b.target → OnlyEnds .measureOnce s c b (.failed .badTarget 0)) ∧
      ∀ p : PortId, b.target = p.val →
        let undefined := s.ports[p].undefined = true
        (undefined → OnlyEnds .measureOnce s c b (.failed .notAllowedNow 0)) ∧
        (¬ undefined → b.body ≠ [] → OnlyEnds .measureOnce s c b (.failed .badValue 255)) ∧
        (¬ undefined → b.body = [] →
          ∃ t, exec .measureOnce s = .next t ∧
            t = { s with soil := t.soil, lanes := t.lanes, reports := t.reports, bus := t.bus } ∧
            t.soil = s.soil.set p { s.soil[p] with oneShot := true } ∧ BlockDone s t c b .done [] [])) ∧
    (BlockInHand s 0 .setSoilLimits c b →
      (12 ≤ b.target → OnlyEnds .setSoilLimits s c b (.failed .badTarget 0)) ∧
      ∀ p : PortId, b.target = p.val →
        let m := s.soil[p]
        let k : SoilLimits :=
          { dark := pick 0 (r 2) m.limits.dark, bright := pick 1 (r 3) m.limits.bright
            minReference := pick 2 (r 4 + 256 * r 5) m.limits.minReference
            minMeasurable := pick 3 (r 6) m.limits.minMeasurable, ratio := pick 4 (r 7) m.limits.ratio
            low := pick 5 (r 8) m.limits.low, high := pick 6 (r 9) m.limits.high
            warn := pick 7 (r 10) m.limits.warn, blind := pick 8 (r 11) m.limits.blind }
        let consistent := k.dark ≤ k.bright ∧ k.bright ≤ 255 ∧ k.minReference ≤ 4080 ∧ 1 ≤ k.minMeasurable ∧
          k.minMeasurable ≤ 48 ∧ 1 ≤ k.ratio ∧ k.ratio ≤ 255 ∧ k.low < k.high ∧ k.high ≤ 63 ∧ 1 ≤ k.warn ∧
          k.warn < k.blind ∧ k.blind ≤ 100
        (b.body.length ≠ 12 → OnlyEnds .setSoilLimits s c b (.failed .badValue 255)) ∧
        (b.body.length = 12 → ¬ consistent → OnlyEnds .setSoilLimits s c b (.failed .badValue 0)) ∧
        (b.body.length = 12 → consistent →
          let state := if m.state = .clean ∨ m.state = .smeared ∨ m.state = .blinded then stateOfScore k m.score else m.state
          ∃ t, exec .setSoilLimits s = .next t ∧
            t = { s with soil := t.soil, lanes := t.lanes, reports := t.reports, bus := t.bus } ∧
            t.soil = s.soil.set p { m with limits := k, state } ∧
            BlockDone s t c b .done (if state = m.state then [] else [.soil]) (if state = m.state then [] else [.soil p])))

/-! ## Exports -/

/-- EXPORT FRAME locks the newest READY slot of a LIVE or LOST port and holds its frame; EXPORT SCREEN waits for the display's next
frame start; each ends FAILED at the first check it fails, with nothing locked (R146, R149, R186; that a display is served by the
mode of its last frame start is the model's reading, log entry 17). -/
def Obligations.ExportBlocksAreTaken : Prop :=
  ∀ (s : State) (c : Chain) (b : InHand),
    let o : ExportOperands := { dest := number b.body 0 8, stride := number b.body 8 4, room := number b.body 12 4 }
    let valid := o.dest % 4 = 0 ∧ o.stride ≠ 0 ∧ o.stride % 4 = 0 ∧ o.dest + o.room ≤ 2 ^ 64
    s.mover = .idle → HoldersBounded s → SlotsCoherent s →
    (BlockInHand s 1 .exportFrame c b →
      (12 ≤ b.target → ExportEnds .exportFrame s c b (.failed .badTarget 0)) ∧
      ∀ p : PortId, b.target = p.val →
        let q := s.ports[p]
        let none_ := q.undefined = true ∨ q.state = .parked ∨ q.state = .seeking ∨ s.store[p].order = []
        (b.body.length ≠ 32 → ExportEnds .exportFrame s c b (.failed .badValue 255)) ∧
        (b.body.length = 32 → ¬ valid → ExportEnds .exportFrame s c b (.failed .badValue 0)) ∧
        (b.body.length = 32 → valid → none_ → ExportEnds .exportFrame s c b (.failed .noFrame 0)) ∧
        (∀ i, b.body.length = 32 → valid → ¬ none_ → s.store[p].order.getLast? = some i →
          let slot := s.store[p].slots[i]
          (o.stride < 2 * slot.width → ExportEnds .exportFrame s c b (.failed .badValue 0)) ∧
          (2 * slot.width ≤ o.stride → o.room < slot.height * o.stride →
            ExportEnds .exportFrame s c b (.failed .roomShort 0)) ∧
          (2 * slot.width ≤ o.stride → slot.height * o.stride ≤ o.room →
            ∃ t, exec .exportFrame s = .next t ∧
              t = { s with
                store := s.store.set p { s.store[p] with
                  slots := s.store[p].slots.set i { slot with locks := { slot.locks with mover := true } } }
                mover := .moving p o i slot.width slot.height slot.count slot.stamp 0
                reports := t.reports, bus := t.bus } ∧
              Reported s t [] []))) ∧
    (BlockInHand s 1 .exportScreen c b →
      (4 ≤ b.target → ExportEnds .exportScreen s c b (.failed .badTarget 0)) ∧
      ∀ d : DisplayId, b.target = d.val →
        let p := s.displays[d]
        let served := p.configured = true ∧ p.live = true ∧ startsLive s d
        (b.body.length ≠ 32 → ExportEnds .exportScreen s c b (.failed .badValue 255)) ∧
        (b.body.length = 32 → ¬ valid → ExportEnds .exportScreen s c b (.failed .badValue 0)) ∧
        (b.body.length = 32 → valid → ¬ served → ExportEnds .exportScreen s c b (.failed .displayDark 0)) ∧
        (b.body.length = 32 → valid → served →
          (o.stride < 4 * p.settings.width → ExportEnds .exportScreen s c b (.failed .badValue 0)) ∧
          (4 * p.settings.width ≤ o.stride → o.room < p.settings.height * o.stride →
            ExportEnds .exportScreen s c b (.failed .roomShort 0)) ∧
          (4 * p.settings.width ≤ o.stride → p.settings.height * o.stride ≤ o.room →
            ∃ t, exec .exportScreen s = .next t ∧
              t = { s with mover := .waiting d o, reports := t.reports, bus := t.bus } ∧ Reported s t [] [])))

/-- Each row of an exported frame is written at the destination plus its number times the stride, as it lies in the slot; after the
last one the four fields are written, the slot is let go, and the block ends DONE. A row or a field whose write the link fails ends
the block FAILED HOST_WRITE, the slot is let go and lane 1 is FAULTED; where a write of that ending fails too, the fault is counted as a
further one and the block holds no final status (R32, R145, R147, R153, R170; that the fields written before
a failed one stand is the model's choice, log entry 29). -/
def Obligations.FrameRowsAreWritten : Prop :=
  ∀ (s : State) (p : PortId) (o : ExportOperands) (i : SlotId) (w h : Nat) (count : Half) (stamp : Stamp) (row : Nat),
    let line := s.frameMem.readBytes (lineBase p i w row) (2 * w)
    let s1 := { hostWritten s (o.dest + row * o.stride) line with mover := .moving p o i w h count stamp (row + 1) }
    s.mover = .moving p o i w h count stamp row → row < h → FrameSize w h →
    let fields (block : Word) := fieldList s block count.toNat stamp w h
    (row + 1 < h → s.bus.fate = [] → exec .exportFrameRow s = .next s1) ∧
    (∀ c b, row + 1 = h → BlockInHand s 1 .exportFrame c b →
      ∃ t, exec .exportFrameRow s = .next t ∧
        t = { s with store := t.store, lanes := t.lanes, mover := .idle, reports := t.reports, bus := t.bus } ∧
        StoreLeft .mover s t ∧
        BlockEnds 1 (allWritten s1 (fields c.block)) t c b.notify b.haltOnFail b.next .done [] []) ∧
    (∀ c b (ending : EndingFate), inHand s 1 = some (c, b) → NothingDue s →
      let broken (s2 : State) : Prop :=
        ∃ t, exec .exportFrameRow s = .next t ∧
          t = { s with store := t.store, lanes := t.lanes, mover := .idle, reports := t.reports, bus := t.bus } ∧
          StoreLeft .mover s t ∧ ExportBreaks s2 t c b ending
      (∀ landed, s.bus.fate = failsAt 0 landed ++ ending.outcomes →
        broken (cutShort s [(o.dest + row * o.stride, line)] 0 landed)) ∧
      (∀ k landed, row + 1 = h → k < 4 → s.bus.fate = failsAt (1 + k) landed ++ ending.outcomes →
        broken (cutShort s1 (fields c.block) k landed)))

/-- Each output line of an exported screen is written at the destination plus its number times the stride, four bytes a pixel: R,
G, B and 0. At the display's frame end the four fields are written, the display leaves its locks, and the block ends DONE; a halt
that waited behind the rows stops lane 1 there. A row or a field whose write the link fails ends the block FAILED HOST_WRITE, and
lane 1 is FAULTED; where a write of that ending fails too, the fault is counted as a further one and the block holds no final status
(R31, R102, R107, R151, R153, R154, R163, R170; that the fields written before a failed one stand is the model's
choice, log entry 29; that lane 1 is IDLE where a halt waited behind the failed write, log entry 16). -/
def Obligations.ScreenRowsAreWritten : Prop :=
  ∀ (s : State) (d : DisplayId) (o : ExportOperands) (w h : Nat) (stamp : Stamp) (count : Word) (row : Nat),
    let p := s.displays[d]
    let pixels := (List.range w).flatMap fun x =>
      [(pixelAt s p x row).r, (pixelAt s p x row).g, (pixelAt s p x row).b, 0]
    s.mover = .copying d o w h stamp count row →
    (row < h → FramesInBounds s →
      (s.bus.fate = [] →
        exec .exportScreenRow s = .next { hostWritten s (o.dest + row * o.stride) pixels with
          mover := .copying d o w h stamp count (row + 1) }) ∧
      (∀ c b landed (ending : EndingFate), inHand s 1 = some (c, b) → NothingDue s →
        s.bus.fate = failsAt 0 landed ++ ending.outcomes →
        ∃ t, exec .exportScreenRow s = .next t ∧
          t = { s with store := t.store, lanes := t.lanes, mover := .idle, reports := t.reports, bus := t.bus } ∧
          StoreLeft .mover s t ∧ ExportBreaks (cutShort s [(o.dest + row * o.stride, pixels)] 0 landed) t c b ending)) ∧
    (∀ g c b, h ≤ row → p.configured = true → p.timing = some g → g.ended = false →
      reached s.clock (stampAfter g.start g.period) = true → HoldersBounded s → inHand s 1 = some (c, b) → NothingDue s →
      let ended (left : State → Prop) : Prop :=
        ∃ t, exec (.frameEnd d) s = .next t ∧
          t = { s with
            store := t.store, displays := t.displays, lanes := t.lanes, mover := .idle, reports := t.reports, bus := t.bus } ∧
          t.displays = s.displays.set d { p with timing := some { g with ended := true } } ∧
          StoreLeft (.display d) s t ∧ left t
      let fields := fieldList s c.block count.toNat stamp w h
      (s.bus.fate = [] →
        ended fun t => BlockEnds 1 (allWritten s fields) t c b.notify b.haltOnFail b.next .done [] []) ∧
      (∀ k landed (ending : EndingFate), k < 4 → s.bus.fate = failsAt k landed ++ ending.outcomes →
        ended fun t => ExportBreaks (cutShort s fields k landed) t c b ending))
end

