-- ==== Sys2Proof/Laws/Memory.lean ====
section
/-! SUPPORT. The laws of the two memories: what a byte reads as after a write, the canonical form, and what a link
transaction does to host memory. -/

namespace Sys2Proof.Machine

/-! ## Reading -/

@[simp] theorem Memory.read_nil (x : Nat) : Memory.read [] x = 0 := rfl

theorem Memory.read_append (m k : Memory) (x : Nat) (h : ∀ c ∈ m, c.1 ≠ x) : Memory.read (m ++ k) x = Memory.read k x := by
  induction m with
  | nil => rfl
  | cons c m ih =>
    have hc : c.1 ≠ x := h c (by simp)
    simp [Memory.read, hc, ih fun d hd => h d (by simp [hd])]

theorem Memory.read_append_left (m k : Memory) (x : Nat) (h : ∀ c ∈ k, c.1 ≠ x) :
    Memory.read (m ++ k) x = Memory.read m x := by
  induction m with
  | nil => simpa [Memory.read] using Memory.read_append k [] x h
  | cons c m ih => by_cases hc : c.1 = x <;> simp [Memory.read, hc, ih]

theorem Memory.read_filter (m : Memory) (test : Host.Cell → Bool) (x : Nat) (h : ∀ c ∈ m, c.1 = x → test c = true) :
    Memory.read (m.filter test) x = Memory.read m x := by
  induction m with
  | nil => rfl
  | cons c m ih =>
    have ih := ih fun d hd => h d (by simp [hd])
    by_cases hc : c.1 = x
    · simp [Memory.read, h c (by simp) hc, hc]
    · by_cases ht : test c = true <;> simp [Memory.read, ht, hc, ih]

theorem Memory.cells_address {a : Nat} {bs : List Byte} {c : Host.Cell} (h : c ∈ Memory.cells a bs) :
    a ≤ c.1 ∧ c.1 < a + bs.length := by
  induction bs generalizing a with
  | nil => simp [Memory.cells] at h
  | cons b bs ih =>
    simp only [Memory.cells] at h
    split at h
    · have := ih h; simp only [List.length_cons]; omega
    · rcases List.mem_cons.mp h with rfl | h
      · simp
      · have := ih h; simp only [List.length_cons]; omega

theorem Memory.read_cells (a : Nat) (bs : List Byte) (x : Nat) :
    Memory.read (Memory.cells a bs) x = if a ≤ x then bs.getD (x - a) 0 else 0 := by
  induction bs generalizing a with
  | nil => simp [Memory.cells]
  | cons b bs ih =>
    rcases Nat.lt_trichotomy x a with hx | rfl | hx
    · have hn : ¬ a ≤ x := by omega
      have hn' : ¬ a + 1 ≤ x := by omega
      have ha : ¬ a = x := by omega
      simp only [Memory.cells, hn, if_false]
      split <;> simp [Memory.read, ih, hn', ha]
    · have hn : ¬ x + 1 ≤ x := by omega
      simp only [Memory.cells]
      split
      · rename_i hb; simp [ih, hb]
      · simp [Memory.read]
    · have ha : ¬ a = x := by omega
      obtain ⟨k, rfl⟩ : ∃ k, x = a + 1 + k := ⟨x - (a + 1), by omega⟩
      have h1 : a + 1 + k - a = k + 1 := by omega
      simp only [Memory.cells]
      split <;> simp [Memory.read, ih, ha, h1, show a ≤ a + 1 + k by omega]

/-- A byte after a write: one of the bytes written at its address, else as it was. -/
theorem Memory.read_write (m : Memory) (a : Nat) (bs : List Byte) (x : Nat) :
    (m.write a bs).read x = if a ≤ x ∧ x < a + bs.length then bs.getD (x - a) 0 else m.read x := by
  unfold Memory.write
  by_cases hlow : x < a
  · have h1 : ¬ (a ≤ x ∧ x < a + bs.length) := by omega
    rw [if_neg h1, List.append_assoc, Memory.read_append_left, Memory.read_filter]
    · intro c _ hc; simp [hc, hlow]
    · intro c hc
      rcases List.mem_append.mp hc with hc | hc
      · have := Memory.cells_address hc; omega
      · have := (List.mem_filter.mp hc).2; simp at this; omega
  · have hfirst : ∀ c ∈ m.filter (fun c => decide (c.1 < a)), c.1 ≠ x := by
      intro c hc; have := (List.mem_filter.mp hc).2; simp at this; omega
    rw [List.append_assoc, Memory.read_append _ _ _ hfirst]
    by_cases hin : x < a + bs.length
    · rw [if_pos ⟨by omega, hin⟩, Memory.read_append_left, Memory.read_cells, if_pos (by omega)]
      intro c hc; have := (List.mem_filter.mp hc).2; simp at this; omega
    · rw [if_neg (by omega), Memory.read_append, Memory.read_filter]
      · intro c _ hc; simp; omega
      · intro c hc; have := Memory.cells_address hc; omega

theorem Memory.read_write_outside {m : Memory} {a : Nat} {bs : List Byte} {x : Nat} (h : x < a ∨ a + bs.length ≤ x) :
    (m.write a bs).read x = m.read x := by
  rw [Memory.read_write, if_neg (by omega)]

theorem Memory.readRun_eq (m : Memory) (a n : Nat) : m.readRun a n = (List.range n).map fun i => m.read (a + i) := by
  induction n generalizing a with
  | zero => rfl
  | succ n ih =>
    simp only [Memory.readRun, ih, List.range_succ_eq_map, List.map_cons, List.map_map, Nat.add_zero]
    congr 1
    apply List.map_congr_left
    intro i _
    simp only [Function.comp_apply]
    congr 1; omega

/-- A run of bytes reads as its bytes one by one. -/
theorem Memory.readBytes_eq (m : Memory) (a n : Nat) : m.readBytes a n = (List.range n).map fun i => m.read (a + i) := by
  rw [Memory.readBytes, Memory.readRun_eq]
  apply List.map_congr_left
  intro i hi
  have := List.mem_range.mp hi
  apply Memory.read_filter
  intro c _ hc
  simp; omega

@[simp] theorem Memory.length_readBytes (m : Memory) (a n : Nat) : (m.readBytes a n).length = n := by
  simp [Memory.readBytes_eq]

theorem Memory.readBytes_congr {m k : Memory} {a n : Nat} (h : ∀ x, a ≤ x → x < a + n → m.read x = k.read x) :
    m.readBytes a n = k.readBytes a n := by
  rw [Memory.readBytes_eq, Memory.readBytes_eq]
  apply List.map_congr_left
  intro i hi
  have := List.mem_range.mp hi
  exact h _ (by omega) (by omega)

theorem Memory.readBytes_add (m : Memory) (a n k : Nat) :
    m.readBytes a (n + k) = m.readBytes a n ++ m.readBytes (a + n) k := by
  simp only [Memory.readBytes_eq, List.range_add, List.map_append, List.map_map]
  congr 1
  apply List.map_congr_left
  intro i _
  simp [Nat.add_assoc]

/-- A run of bytes reads back as it was written. -/
theorem Memory.readBytes_write (m : Memory) (a : Nat) (bs : List Byte) : (m.write a bs).readBytes a bs.length = bs := by
  rw [Memory.readBytes_eq]
  apply List.ext_getElem
  · simp
  · intro i h1 h2
    simp only [List.getElem_map, List.getElem_range, Memory.read_write]
    rw [if_pos (by omega)]
    simp [h2]

theorem Memory.readBytes_write_outside {m : Memory} {a n b : Nat} {bs : List Byte} (h : a + n ≤ b ∨ b + bs.length ≤ a) :
    (m.write b bs).readBytes a n = m.readBytes a n :=
  Memory.readBytes_congr fun _ _ _ => Memory.read_write_outside (by omega)

/-! ## The canonical form -/

theorem Memory.wf_nil : Memory.wf [] := by simp [Memory.wf]

theorem Memory.cells_wf (a : Nat) (bs : List Byte) : (Memory.cells a bs).wf := by
  induction bs generalizing a with
  | nil => simp [Memory.cells, Memory.wf]
  | cons b bs ih =>
    obtain ⟨hp, hz⟩ := ih (a + 1)
    simp only [Memory.cells]
    split
    · exact ⟨hp, hz⟩
    · rename_i hb
      refine ⟨List.pairwise_cons.mpr ⟨fun c hc => ?_, hp⟩, fun c hc => ?_⟩
      · have := Memory.cells_address hc; simp only; omega
      · rcases List.mem_cons.mp hc with rfl | hc
        · exact hb
        · exact hz c hc

/-- A write keeps the canonical form. -/
theorem Memory.write_wf {m : Memory} (h : m.wf) (a : Nat) (bs : List Byte) : (m.write a bs).wf := by
  obtain ⟨hp, hz⟩ := h
  obtain ⟨cp, cz⟩ := Memory.cells_wf a bs
  refine ⟨?_, fun c hc => ?_⟩
  · unfold Memory.write
    rw [List.pairwise_append, List.pairwise_append]
    refine ⟨⟨hp.filter _, cp, fun c hc d hd => ?_⟩, hp.filter _, fun c hc d hd => ?_⟩
    · have h1 := (List.mem_filter.mp hc).2
      have h2 := Memory.cells_address hd
      simp at h1; omega
    · have h2 := (List.mem_filter.mp hd).2
      simp at h2
      rcases List.mem_append.mp hc with hc | hc
      · have h1 := (List.mem_filter.mp hc).2
        simp at h1; omega
      · have h1 := Memory.cells_address hc; omega
  · unfold Memory.write at hc
    simp only [List.mem_append, List.mem_filter] at hc
    rcases hc with (⟨hc, _⟩ | hc) | ⟨hc, _⟩
    · exact hz c hc
    · exact cz c hc
    · exact hz c hc

/-! ## The link -/

/-- What one write transaction does: it leaves the canonical form, every byte outside the run, the count of interrupts; on a
quiet link it completes with the run written. -/
theorem Bus.write_spec (b : Bus) (a : Nat) (bs : List Byte) :
    (b.mem.wf → (b.write a bs).1.mem.wf) ∧
    (∀ x, x < a ∨ a + bs.length ≤ x → (b.write a bs).1.mem.read x = b.mem.read x) ∧
    (b.write a bs).1.interrupts = b.interrupts ∧
    (b.fate = [] → b.write a bs = ({ b with mem := b.mem.write a bs }, true)) := by
  unfold Bus.write
  rcases hf : b.fate with _ | ⟨_ | n, rest⟩
  · exact ⟨fun h => Memory.write_wf h _ _, fun x hx => Memory.read_write_outside hx, rfl, fun _ => rfl⟩
  · exact ⟨fun h => Memory.write_wf h _ _, fun x hx => Memory.read_write_outside hx, rfl, fun h => by cases h⟩
  · refine ⟨fun h => Memory.write_wf h _ _, fun x hx => Memory.read_write_outside ?_, rfl, fun h => by cases h⟩
    simp only [List.length_take]; omega

/-- The runs of a list of writes as they end in memory where every one completes. -/
def Memory.writeAll (m : Memory) : List (Nat × List Byte) → Memory
  | [] => m
  | (a, bs) :: rest => Memory.writeAll (m.write a bs) rest

theorem Memory.read_writeAll_outside {m : Memory} {ws : List (Nat × List Byte)} {x : Nat}
    (h : ∀ w ∈ ws, x < w.1 ∨ w.1 + w.2.length ≤ x) : (m.writeAll ws).read x = m.read x := by
  induction ws generalizing m with
  | nil => rfl
  | cons w ws ih =>
    simp only [Memory.writeAll]
    rw [ih fun v hv => h v (by simp [hv]), Memory.read_write_outside (h w (by simp))]

/-- What a list of write transactions does; see `Bus.write_spec`. -/
theorem Bus.writeAll_spec (b : Bus) (ws : List (Nat × List Byte)) :
    (b.mem.wf → (b.writeAll ws).1.mem.wf) ∧
    (∀ x, (∀ w ∈ ws, x < w.1 ∨ w.1 + w.2.length ≤ x) → (b.writeAll ws).1.mem.read x = b.mem.read x) ∧
    (b.writeAll ws).1.interrupts = b.interrupts ∧
    (b.fate = [] → b.writeAll ws = ({ b with mem := b.mem.writeAll ws }, true)) := by
  induction ws generalizing b with
  | nil => exact ⟨id, fun _ _ => rfl, rfl, fun _ => rfl⟩
  | cons w ws ih =>
    obtain ⟨h1, h2, h3, h4⟩ := Bus.write_spec b w.1 w.2
    unfold Bus.writeAll
    rcases hw : b.write w.1 w.2 with ⟨b', ok⟩
    rw [hw] at h1 h2 h3 h4
    cases ok with
    | false =>
      refine ⟨h1, fun x hx => h2 x (hx w (by simp)), h3, fun hq => ?_⟩
      have := h4 hq
      simp at this
    | true =>
      obtain ⟨i1, i2, i3, i4⟩ := ih b'
      refine ⟨fun h => i1 (h1 h), fun x hx => ?_, i3.trans h3, fun hq => ?_⟩
      · show (b'.writeAll ws).1.mem.read x = _
        rw [i2 x fun v hv => hx v (by simp [hv]), h2 x (hx w (by simp))]
      · have hb : b' = { b with mem := b.mem.write w.1 w.2 } := by simpa using congrArg Prod.fst (h4 hq)
        have hq' : b'.fate = [] := by rw [hb]; exact hq
        show b'.writeAll ws = _
        rw [i4 hq', hb]
        rfl

/-- What a write does of which a failure lands nothing: as `Bus.write_spec`, and a failure leaves every byte (R170). -/
theorem Bus.writeWhole_spec (b : Bus) (a : Nat) (bs : List Byte) :
    (b.mem.wf → (b.writeWhole a bs).1.mem.wf) ∧
    (∀ x, x < a ∨ a + bs.length ≤ x → (b.writeWhole a bs).1.mem.read x = b.mem.read x) ∧
    (b.writeWhole a bs).1.interrupts = b.interrupts ∧
    (b.fate = [] → b.writeWhole a bs = ({ b with mem := b.mem.write a bs }, true)) ∧
    ((b.writeWhole a bs).2 = false → (b.writeWhole a bs).1.mem = b.mem) := by
  obtain ⟨h1, h2, h3, h4⟩ := Bus.write_spec b a bs
  have whole (h : b.writeWhole a bs = b.write a bs) (ok : (b.write a bs).2 = true) :
      (b.mem.wf → (b.writeWhole a bs).1.mem.wf) ∧
      (∀ x, x < a ∨ a + bs.length ≤ x → (b.writeWhole a bs).1.mem.read x = b.mem.read x) ∧
      (b.writeWhole a bs).1.interrupts = b.interrupts ∧
      (b.fate = [] → b.writeWhole a bs = ({ b with mem := b.mem.write a bs }, true)) ∧
      ((b.writeWhole a bs).2 = false → (b.writeWhole a bs).1.mem = b.mem) := by
    rw [h]
    exact ⟨h1, h2, h3, h4, fun hf => by rw [ok] at hf; cases hf⟩
  rcases hf : b.fate with _ | ⟨_ | n, rest⟩
  · simpa only [hf] using whole (by simp only [Bus.writeWhole, hf]) (by simp only [Bus.write, hf])
  · simpa only [hf] using whole (by simp only [Bus.writeWhole, hf]) (by simp only [Bus.write, hf])
  · simp only [Bus.writeWhole, hf]
    exact ⟨id, fun _ _ => trivial, trivial, fun h => by simp at h, fun _ => trivial⟩

/-- What a sealed list of write transactions does: as `Bus.writeAll_spec`, and where one fails, the last leaves every byte that those
before it do not write (R170, R173). -/
theorem Bus.writeSealed_spec (b : Bus) (ws : List (Nat × List Byte)) :
    (b.mem.wf → (b.writeSealed ws).1.mem.wf) ∧
    (∀ x, (∀ w ∈ ws, x < w.1 ∨ w.1 + w.2.length ≤ x) → (b.writeSealed ws).1.mem.read x = b.mem.read x) ∧
    (b.writeSealed ws).1.interrupts = b.interrupts ∧
    (b.fate = [] → b.writeSealed ws = ({ b with mem := b.mem.writeAll ws }, true)) ∧
    ((b.writeSealed ws).2 = false → ∀ x, (∀ w ∈ ws.dropLast, x < w.1 ∨ w.1 + w.2.length ≤ x) →
      (b.writeSealed ws).1.mem.read x = b.mem.read x) := by
  induction ws generalizing b with
  | nil => exact ⟨id, fun _ _ => rfl, rfl, fun _ => rfl, nofun⟩
  | cons w ws ih =>
    rcases ws with _ | ⟨v, rest⟩
    · obtain ⟨h1, h2, h3, h4, h5⟩ := Bus.writeWhole_spec b w.1 w.2
      exact ⟨h1, fun x hx => h2 x (hx w (by simp)), h3, h4, fun hf x _ => congrArg (·.read x) (h5 hf)⟩
    · obtain ⟨h1, h2, h3, h4⟩ := Bus.write_spec b w.1 w.2
      unfold Bus.writeSealed
      rw [List.dropLast_cons_cons]
      rcases hw : b.write w.1 w.2 with ⟨b', ok⟩
      rw [hw] at h1 h2 h3 h4
      cases ok with
      | false =>
        refine ⟨h1, fun x hx => h2 x (hx w (by simp)), h3, fun hq => ?_, fun _ x hx => h2 x (hx w (by simp))⟩
        have := h4 hq
        simp at this
      | true =>
        obtain ⟨i1, i2, i3, i4, i5⟩ := ih b'
        refine ⟨fun h => i1 (h1 h), fun x hx => ?_, i3.trans h3, fun hq => ?_, fun hf x hx => ?_⟩
        · exact (i2 x fun u hu => hx u (by simp [hu])).trans (h2 x (hx w (by simp)))
        · have hb : b' = { b with mem := b.mem.write w.1 w.2 } := by simpa using congrArg Prod.fst (h4 hq)
          have hq' : b'.fate = [] := by rw [hb]; exact hq
          show b'.writeSealed (v :: rest) = _
          rw [i4 hq', hb]
          rfl
        · exact (i5 hf x fun u hu => hx u (by simp [hu])).trans (h2 x (hx w (by simp)))

/-- What one read transaction does: it leaves host memory and the count of interrupts; on a quiet link it returns the bytes. -/
theorem Bus.read_spec (b : Bus) (a n : Nat) :
    (b.read a n).1.mem = b.mem ∧ (b.read a n).1.interrupts = b.interrupts ∧
    (b.fate = [] → b.read a n = (b, some (b.mem.readBytes a n))) := by
  unfold Bus.read
  rcases hf : b.fate with _ | ⟨_ | k, rest⟩
  · exact ⟨rfl, rfl, fun _ => rfl⟩
  · exact ⟨rfl, rfl, fun h => by cases h⟩
  · exact ⟨rfl, rfl, fun h => by cases h⟩

end Sys2Proof.Machine
end

