-- ==== Sys2Proof/Laws/State.lean ====
section
/-! SUPPORT. What each update of a block of the state leaves in each field. -/

namespace Sys2Proof.Machine

/-! ## setPort -/

@[simp] theorem State.setPort_clock (s : State) (p : PortId) (v : CapturePort) : (s.setPort p v).clock = s.clock := rfl

@[simp] theorem State.setPort_ports (s : State) (p : PortId) (v : CapturePort) : (s.setPort p v).ports = s.ports.set p v := rfl

@[simp] theorem State.setPort_store (s : State) (p : PortId) (v : CapturePort) : (s.setPort p v).store = s.store := rfl

@[simp] theorem State.setPort_soil (s : State) (p : PortId) (v : CapturePort) : (s.setPort p v).soil = s.soil := rfl

@[simp] theorem State.setPort_evalQueue (s : State) (p : PortId) (v : CapturePort) : (s.setPort p v).evalQueue = s.evalQueue := rfl

@[simp] theorem State.setPort_layouts (s : State) (p : PortId) (v : CapturePort) : (s.setPort p v).layouts = s.layouts := rfl

@[simp] theorem State.setPort_displays (s : State) (p : PortId) (v : CapturePort) : (s.setPort p v).displays = s.displays := rfl

@[simp] theorem State.setPort_cab (s : State) (p : PortId) (v : CapturePort) : (s.setPort p v).cab = s.cab := rfl

@[simp] theorem State.setPort_doors (s : State) (p : PortId) (v : CapturePort) : (s.setPort p v).doors = s.doors := rfl

@[simp] theorem State.setPort_debounce (s : State) (p : PortId) (v : CapturePort) : (s.setPort p v).debounce = s.debounce := rfl

@[simp] theorem State.setPort_stored (s : State) (p : PortId) (v : CapturePort) : (s.setPort p v).stored = s.stored := rfl

@[simp] theorem State.setPort_calling (s : State) (p : PortId) (v : CapturePort) : (s.setPort p v).calling = s.calling := rfl

@[simp] theorem State.setPort_clear (s : State) (p : PortId) (v : CapturePort) : (s.setPort p v).clear = s.clear := rfl

@[simp] theorem State.setPort_mode (s : State) (p : PortId) (v : CapturePort) : (s.setPort p v).mode = s.mode := rfl

@[simp] theorem State.setPort_wakeRecord (s : State) (p : PortId) (v : CapturePort) : (s.setPort p v).wakeRecord = s.wakeRecord := rfl

@[simp] theorem State.setPort_wakeCause (s : State) (p : PortId) (v : CapturePort) : (s.setPort p v).wakeCause = s.wakeCause := rfl

@[simp] theorem State.setPort_window (s : State) (p : PortId) (v : CapturePort) : (s.setPort p v).window = s.window := rfl

@[simp] theorem State.setPort_lanes (s : State) (p : PortId) (v : CapturePort) : (s.setPort p v).lanes = s.lanes := rfl

@[simp] theorem State.setPort_mover (s : State) (p : PortId) (v : CapturePort) : (s.setPort p v).mover = s.mover := rfl

@[simp] theorem State.setPort_reports (s : State) (p : PortId) (v : CapturePort) : (s.setPort p v).reports = s.reports := rfl

@[simp] theorem State.setPort_frameMem (s : State) (p : PortId) (v : CapturePort) : (s.setPort p v).frameMem = s.frameMem := rfl

@[simp] theorem State.setPort_bus (s : State) (p : PortId) (v : CapturePort) : (s.setPort p v).bus = s.bus := rfl

@[simp] theorem State.setPort_pending (s : State) (p : PortId) (v : CapturePort) : (s.setPort p v).pending = s.pending := rfl

/-! ## setStore -/

@[simp] theorem State.setStore_clock (s : State) (p : PortId) (v : StorePort) : (s.setStore p v).clock = s.clock := rfl

@[simp] theorem State.setStore_ports (s : State) (p : PortId) (v : StorePort) : (s.setStore p v).ports = s.ports := rfl

@[simp] theorem State.setStore_store (s : State) (p : PortId) (v : StorePort) : (s.setStore p v).store = s.store.set p v := rfl

@[simp] theorem State.setStore_soil (s : State) (p : PortId) (v : StorePort) : (s.setStore p v).soil = s.soil := rfl

@[simp] theorem State.setStore_evalQueue (s : State) (p : PortId) (v : StorePort) : (s.setStore p v).evalQueue = s.evalQueue := rfl

@[simp] theorem State.setStore_layouts (s : State) (p : PortId) (v : StorePort) : (s.setStore p v).layouts = s.layouts := rfl

@[simp] theorem State.setStore_displays (s : State) (p : PortId) (v : StorePort) : (s.setStore p v).displays = s.displays := rfl

@[simp] theorem State.setStore_cab (s : State) (p : PortId) (v : StorePort) : (s.setStore p v).cab = s.cab := rfl

@[simp] theorem State.setStore_doors (s : State) (p : PortId) (v : StorePort) : (s.setStore p v).doors = s.doors := rfl

@[simp] theorem State.setStore_debounce (s : State) (p : PortId) (v : StorePort) : (s.setStore p v).debounce = s.debounce := rfl

@[simp] theorem State.setStore_stored (s : State) (p : PortId) (v : StorePort) : (s.setStore p v).stored = s.stored := rfl

@[simp] theorem State.setStore_calling (s : State) (p : PortId) (v : StorePort) : (s.setStore p v).calling = s.calling := rfl

@[simp] theorem State.setStore_clear (s : State) (p : PortId) (v : StorePort) : (s.setStore p v).clear = s.clear := rfl

@[simp] theorem State.setStore_mode (s : State) (p : PortId) (v : StorePort) : (s.setStore p v).mode = s.mode := rfl

@[simp] theorem State.setStore_wakeRecord (s : State) (p : PortId) (v : StorePort) : (s.setStore p v).wakeRecord = s.wakeRecord := rfl

@[simp] theorem State.setStore_wakeCause (s : State) (p : PortId) (v : StorePort) : (s.setStore p v).wakeCause = s.wakeCause := rfl

@[simp] theorem State.setStore_window (s : State) (p : PortId) (v : StorePort) : (s.setStore p v).window = s.window := rfl

@[simp] theorem State.setStore_lanes (s : State) (p : PortId) (v : StorePort) : (s.setStore p v).lanes = s.lanes := rfl

@[simp] theorem State.setStore_mover (s : State) (p : PortId) (v : StorePort) : (s.setStore p v).mover = s.mover := rfl

@[simp] theorem State.setStore_reports (s : State) (p : PortId) (v : StorePort) : (s.setStore p v).reports = s.reports := rfl

@[simp] theorem State.setStore_frameMem (s : State) (p : PortId) (v : StorePort) : (s.setStore p v).frameMem = s.frameMem := rfl

@[simp] theorem State.setStore_bus (s : State) (p : PortId) (v : StorePort) : (s.setStore p v).bus = s.bus := rfl

@[simp] theorem State.setStore_pending (s : State) (p : PortId) (v : StorePort) : (s.setStore p v).pending = s.pending := rfl

/-! ## setSoil -/

@[simp] theorem State.setSoil_clock (s : State) (p : PortId) (v : Soil) : (s.setSoil p v).clock = s.clock := rfl

@[simp] theorem State.setSoil_ports (s : State) (p : PortId) (v : Soil) : (s.setSoil p v).ports = s.ports := rfl

@[simp] theorem State.setSoil_store (s : State) (p : PortId) (v : Soil) : (s.setSoil p v).store = s.store := rfl

@[simp] theorem State.setSoil_soil (s : State) (p : PortId) (v : Soil) : (s.setSoil p v).soil = s.soil.set p v := rfl

@[simp] theorem State.setSoil_evalQueue (s : State) (p : PortId) (v : Soil) : (s.setSoil p v).evalQueue = s.evalQueue := rfl

@[simp] theorem State.setSoil_layouts (s : State) (p : PortId) (v : Soil) : (s.setSoil p v).layouts = s.layouts := rfl

@[simp] theorem State.setSoil_displays (s : State) (p : PortId) (v : Soil) : (s.setSoil p v).displays = s.displays := rfl

@[simp] theorem State.setSoil_cab (s : State) (p : PortId) (v : Soil) : (s.setSoil p v).cab = s.cab := rfl

@[simp] theorem State.setSoil_doors (s : State) (p : PortId) (v : Soil) : (s.setSoil p v).doors = s.doors := rfl

@[simp] theorem State.setSoil_debounce (s : State) (p : PortId) (v : Soil) : (s.setSoil p v).debounce = s.debounce := rfl

@[simp] theorem State.setSoil_stored (s : State) (p : PortId) (v : Soil) : (s.setSoil p v).stored = s.stored := rfl

@[simp] theorem State.setSoil_calling (s : State) (p : PortId) (v : Soil) : (s.setSoil p v).calling = s.calling := rfl

@[simp] theorem State.setSoil_clear (s : State) (p : PortId) (v : Soil) : (s.setSoil p v).clear = s.clear := rfl

@[simp] theorem State.setSoil_mode (s : State) (p : PortId) (v : Soil) : (s.setSoil p v).mode = s.mode := rfl

@[simp] theorem State.setSoil_wakeRecord (s : State) (p : PortId) (v : Soil) : (s.setSoil p v).wakeRecord = s.wakeRecord := rfl

@[simp] theorem State.setSoil_wakeCause (s : State) (p : PortId) (v : Soil) : (s.setSoil p v).wakeCause = s.wakeCause := rfl

@[simp] theorem State.setSoil_window (s : State) (p : PortId) (v : Soil) : (s.setSoil p v).window = s.window := rfl

@[simp] theorem State.setSoil_lanes (s : State) (p : PortId) (v : Soil) : (s.setSoil p v).lanes = s.lanes := rfl

@[simp] theorem State.setSoil_mover (s : State) (p : PortId) (v : Soil) : (s.setSoil p v).mover = s.mover := rfl

@[simp] theorem State.setSoil_reports (s : State) (p : PortId) (v : Soil) : (s.setSoil p v).reports = s.reports := rfl

@[simp] theorem State.setSoil_frameMem (s : State) (p : PortId) (v : Soil) : (s.setSoil p v).frameMem = s.frameMem := rfl

@[simp] theorem State.setSoil_bus (s : State) (p : PortId) (v : Soil) : (s.setSoil p v).bus = s.bus := rfl

@[simp] theorem State.setSoil_pending (s : State) (p : PortId) (v : Soil) : (s.setSoil p v).pending = s.pending := rfl

/-! ## setDisplay -/

@[simp] theorem State.setDisplay_clock (s : State) (d : DisplayId) (v : Display) : (s.setDisplay d v).clock = s.clock := rfl

@[simp] theorem State.setDisplay_ports (s : State) (d : DisplayId) (v : Display) : (s.setDisplay d v).ports = s.ports := rfl

@[simp] theorem State.setDisplay_store (s : State) (d : DisplayId) (v : Display) : (s.setDisplay d v).store = s.store := rfl

@[simp] theorem State.setDisplay_soil (s : State) (d : DisplayId) (v : Display) : (s.setDisplay d v).soil = s.soil := rfl

@[simp] theorem State.setDisplay_evalQueue (s : State) (d : DisplayId) (v : Display) : (s.setDisplay d v).evalQueue = s.evalQueue := rfl

@[simp] theorem State.setDisplay_layouts (s : State) (d : DisplayId) (v : Display) : (s.setDisplay d v).layouts = s.layouts := rfl

@[simp] theorem State.setDisplay_displays (s : State) (d : DisplayId) (v : Display) : (s.setDisplay d v).displays = s.displays.set d v := rfl

@[simp] theorem State.setDisplay_cab (s : State) (d : DisplayId) (v : Display) : (s.setDisplay d v).cab = s.cab := rfl

@[simp] theorem State.setDisplay_doors (s : State) (d : DisplayId) (v : Display) : (s.setDisplay d v).doors = s.doors := rfl

@[simp] theorem State.setDisplay_debounce (s : State) (d : DisplayId) (v : Display) : (s.setDisplay d v).debounce = s.debounce := rfl

@[simp] theorem State.setDisplay_stored (s : State) (d : DisplayId) (v : Display) : (s.setDisplay d v).stored = s.stored := rfl

@[simp] theorem State.setDisplay_calling (s : State) (d : DisplayId) (v : Display) : (s.setDisplay d v).calling = s.calling := rfl

@[simp] theorem State.setDisplay_clear (s : State) (d : DisplayId) (v : Display) : (s.setDisplay d v).clear = s.clear := rfl

@[simp] theorem State.setDisplay_mode (s : State) (d : DisplayId) (v : Display) : (s.setDisplay d v).mode = s.mode := rfl

@[simp] theorem State.setDisplay_wakeRecord (s : State) (d : DisplayId) (v : Display) : (s.setDisplay d v).wakeRecord = s.wakeRecord := rfl

@[simp] theorem State.setDisplay_wakeCause (s : State) (d : DisplayId) (v : Display) : (s.setDisplay d v).wakeCause = s.wakeCause := rfl

@[simp] theorem State.setDisplay_window (s : State) (d : DisplayId) (v : Display) : (s.setDisplay d v).window = s.window := rfl

@[simp] theorem State.setDisplay_lanes (s : State) (d : DisplayId) (v : Display) : (s.setDisplay d v).lanes = s.lanes := rfl

@[simp] theorem State.setDisplay_mover (s : State) (d : DisplayId) (v : Display) : (s.setDisplay d v).mover = s.mover := rfl

@[simp] theorem State.setDisplay_reports (s : State) (d : DisplayId) (v : Display) : (s.setDisplay d v).reports = s.reports := rfl

@[simp] theorem State.setDisplay_frameMem (s : State) (d : DisplayId) (v : Display) : (s.setDisplay d v).frameMem = s.frameMem := rfl

@[simp] theorem State.setDisplay_bus (s : State) (d : DisplayId) (v : Display) : (s.setDisplay d v).bus = s.bus := rfl

@[simp] theorem State.setDisplay_pending (s : State) (d : DisplayId) (v : Display) : (s.setDisplay d v).pending = s.pending := rfl

/-! ## setDoor -/

@[simp] theorem State.setDoor_clock (s : State) (d : DoorId) (v : Door) : (s.setDoor d v).clock = s.clock := rfl

@[simp] theorem State.setDoor_ports (s : State) (d : DoorId) (v : Door) : (s.setDoor d v).ports = s.ports := rfl

@[simp] theorem State.setDoor_store (s : State) (d : DoorId) (v : Door) : (s.setDoor d v).store = s.store := rfl

@[simp] theorem State.setDoor_soil (s : State) (d : DoorId) (v : Door) : (s.setDoor d v).soil = s.soil := rfl

@[simp] theorem State.setDoor_evalQueue (s : State) (d : DoorId) (v : Door) : (s.setDoor d v).evalQueue = s.evalQueue := rfl

@[simp] theorem State.setDoor_layouts (s : State) (d : DoorId) (v : Door) : (s.setDoor d v).layouts = s.layouts := rfl

@[simp] theorem State.setDoor_displays (s : State) (d : DoorId) (v : Door) : (s.setDoor d v).displays = s.displays := rfl

@[simp] theorem State.setDoor_cab (s : State) (d : DoorId) (v : Door) : (s.setDoor d v).cab = s.cab := rfl

@[simp] theorem State.setDoor_doors (s : State) (d : DoorId) (v : Door) : (s.setDoor d v).doors = s.doors.set d v := rfl

@[simp] theorem State.setDoor_debounce (s : State) (d : DoorId) (v : Door) : (s.setDoor d v).debounce = s.debounce := rfl

@[simp] theorem State.setDoor_stored (s : State) (d : DoorId) (v : Door) : (s.setDoor d v).stored = s.stored := rfl

@[simp] theorem State.setDoor_calling (s : State) (d : DoorId) (v : Door) : (s.setDoor d v).calling = s.calling := rfl

@[simp] theorem State.setDoor_clear (s : State) (d : DoorId) (v : Door) : (s.setDoor d v).clear = s.clear := rfl

@[simp] theorem State.setDoor_mode (s : State) (d : DoorId) (v : Door) : (s.setDoor d v).mode = s.mode := rfl

@[simp] theorem State.setDoor_wakeRecord (s : State) (d : DoorId) (v : Door) : (s.setDoor d v).wakeRecord = s.wakeRecord := rfl

@[simp] theorem State.setDoor_wakeCause (s : State) (d : DoorId) (v : Door) : (s.setDoor d v).wakeCause = s.wakeCause := rfl

@[simp] theorem State.setDoor_window (s : State) (d : DoorId) (v : Door) : (s.setDoor d v).window = s.window := rfl

@[simp] theorem State.setDoor_lanes (s : State) (d : DoorId) (v : Door) : (s.setDoor d v).lanes = s.lanes := rfl

@[simp] theorem State.setDoor_mover (s : State) (d : DoorId) (v : Door) : (s.setDoor d v).mover = s.mover := rfl

@[simp] theorem State.setDoor_reports (s : State) (d : DoorId) (v : Door) : (s.setDoor d v).reports = s.reports := rfl

@[simp] theorem State.setDoor_frameMem (s : State) (d : DoorId) (v : Door) : (s.setDoor d v).frameMem = s.frameMem := rfl

@[simp] theorem State.setDoor_bus (s : State) (d : DoorId) (v : Door) : (s.setDoor d v).bus = s.bus := rfl

@[simp] theorem State.setDoor_pending (s : State) (d : DoorId) (v : Door) : (s.setDoor d v).pending = s.pending := rfl

/-! ## setLane -/

@[simp] theorem State.setLane_clock (s : State) (l : LaneId) (v : Lane) : (s.setLane l v).clock = s.clock := rfl

@[simp] theorem State.setLane_ports (s : State) (l : LaneId) (v : Lane) : (s.setLane l v).ports = s.ports := rfl

@[simp] theorem State.setLane_store (s : State) (l : LaneId) (v : Lane) : (s.setLane l v).store = s.store := rfl

@[simp] theorem State.setLane_soil (s : State) (l : LaneId) (v : Lane) : (s.setLane l v).soil = s.soil := rfl

@[simp] theorem State.setLane_evalQueue (s : State) (l : LaneId) (v : Lane) : (s.setLane l v).evalQueue = s.evalQueue := rfl

@[simp] theorem State.setLane_layouts (s : State) (l : LaneId) (v : Lane) : (s.setLane l v).layouts = s.layouts := rfl

@[simp] theorem State.setLane_displays (s : State) (l : LaneId) (v : Lane) : (s.setLane l v).displays = s.displays := rfl

@[simp] theorem State.setLane_cab (s : State) (l : LaneId) (v : Lane) : (s.setLane l v).cab = s.cab := rfl

@[simp] theorem State.setLane_doors (s : State) (l : LaneId) (v : Lane) : (s.setLane l v).doors = s.doors := rfl

@[simp] theorem State.setLane_debounce (s : State) (l : LaneId) (v : Lane) : (s.setLane l v).debounce = s.debounce := rfl

@[simp] theorem State.setLane_stored (s : State) (l : LaneId) (v : Lane) : (s.setLane l v).stored = s.stored := rfl

@[simp] theorem State.setLane_calling (s : State) (l : LaneId) (v : Lane) : (s.setLane l v).calling = s.calling := rfl

@[simp] theorem State.setLane_clear (s : State) (l : LaneId) (v : Lane) : (s.setLane l v).clear = s.clear := rfl

@[simp] theorem State.setLane_mode (s : State) (l : LaneId) (v : Lane) : (s.setLane l v).mode = s.mode := rfl

@[simp] theorem State.setLane_wakeRecord (s : State) (l : LaneId) (v : Lane) : (s.setLane l v).wakeRecord = s.wakeRecord := rfl

@[simp] theorem State.setLane_wakeCause (s : State) (l : LaneId) (v : Lane) : (s.setLane l v).wakeCause = s.wakeCause := rfl

@[simp] theorem State.setLane_window (s : State) (l : LaneId) (v : Lane) : (s.setLane l v).window = s.window := rfl

@[simp] theorem State.setLane_lanes (s : State) (l : LaneId) (v : Lane) : (s.setLane l v).lanes = s.lanes.set l v := rfl

@[simp] theorem State.setLane_mover (s : State) (l : LaneId) (v : Lane) : (s.setLane l v).mover = s.mover := rfl

@[simp] theorem State.setLane_reports (s : State) (l : LaneId) (v : Lane) : (s.setLane l v).reports = s.reports := rfl

@[simp] theorem State.setLane_frameMem (s : State) (l : LaneId) (v : Lane) : (s.setLane l v).frameMem = s.frameMem := rfl

@[simp] theorem State.setLane_bus (s : State) (l : LaneId) (v : Lane) : (s.setLane l v).bus = s.bus := rfl

@[simp] theorem State.setLane_pending (s : State) (l : LaneId) (v : Lane) : (s.setLane l v).pending = s.pending := rfl

/-! ## setReports -/

@[simp] theorem State.setReports_clock (s : State) (v : Reports) : (s.setReports v).clock = s.clock := rfl

@[simp] theorem State.setReports_ports (s : State) (v : Reports) : (s.setReports v).ports = s.ports := rfl

@[simp] theorem State.setReports_store (s : State) (v : Reports) : (s.setReports v).store = s.store := rfl

@[simp] theorem State.setReports_soil (s : State) (v : Reports) : (s.setReports v).soil = s.soil := rfl

@[simp] theorem State.setReports_evalQueue (s : State) (v : Reports) : (s.setReports v).evalQueue = s.evalQueue := rfl

@[simp] theorem State.setReports_layouts (s : State) (v : Reports) : (s.setReports v).layouts = s.layouts := rfl

@[simp] theorem State.setReports_displays (s : State) (v : Reports) : (s.setReports v).displays = s.displays := rfl

@[simp] theorem State.setReports_cab (s : State) (v : Reports) : (s.setReports v).cab = s.cab := rfl

@[simp] theorem State.setReports_doors (s : State) (v : Reports) : (s.setReports v).doors = s.doors := rfl

@[simp] theorem State.setReports_debounce (s : State) (v : Reports) : (s.setReports v).debounce = s.debounce := rfl

@[simp] theorem State.setReports_stored (s : State) (v : Reports) : (s.setReports v).stored = s.stored := rfl

@[simp] theorem State.setReports_calling (s : State) (v : Reports) : (s.setReports v).calling = s.calling := rfl

@[simp] theorem State.setReports_clear (s : State) (v : Reports) : (s.setReports v).clear = s.clear := rfl

@[simp] theorem State.setReports_mode (s : State) (v : Reports) : (s.setReports v).mode = s.mode := rfl

@[simp] theorem State.setReports_wakeRecord (s : State) (v : Reports) : (s.setReports v).wakeRecord = s.wakeRecord := rfl

@[simp] theorem State.setReports_wakeCause (s : State) (v : Reports) : (s.setReports v).wakeCause = s.wakeCause := rfl

@[simp] theorem State.setReports_window (s : State) (v : Reports) : (s.setReports v).window = s.window := rfl

@[simp] theorem State.setReports_lanes (s : State) (v : Reports) : (s.setReports v).lanes = s.lanes := rfl

@[simp] theorem State.setReports_mover (s : State) (v : Reports) : (s.setReports v).mover = s.mover := rfl

@[simp] theorem State.setReports_reports (s : State) (v : Reports) : (s.setReports v).reports = v := rfl

@[simp] theorem State.setReports_frameMem (s : State) (v : Reports) : (s.setReports v).frameMem = s.frameMem := rfl

@[simp] theorem State.setReports_bus (s : State) (v : Reports) : (s.setReports v).bus = s.bus := rfl

@[simp] theorem State.setReports_pending (s : State) (v : Reports) : (s.setReports v).pending = s.pending := rfl

/-! ## setBus -/

@[simp] theorem State.setBus_clock (s : State) (v : Bus) : (s.setBus v).clock = s.clock := rfl

@[simp] theorem State.setBus_ports (s : State) (v : Bus) : (s.setBus v).ports = s.ports := rfl

@[simp] theorem State.setBus_store (s : State) (v : Bus) : (s.setBus v).store = s.store := rfl

@[simp] theorem State.setBus_soil (s : State) (v : Bus) : (s.setBus v).soil = s.soil := rfl

@[simp] theorem State.setBus_evalQueue (s : State) (v : Bus) : (s.setBus v).evalQueue = s.evalQueue := rfl

@[simp] theorem State.setBus_layouts (s : State) (v : Bus) : (s.setBus v).layouts = s.layouts := rfl

@[simp] theorem State.setBus_displays (s : State) (v : Bus) : (s.setBus v).displays = s.displays := rfl

@[simp] theorem State.setBus_cab (s : State) (v : Bus) : (s.setBus v).cab = s.cab := rfl

@[simp] theorem State.setBus_doors (s : State) (v : Bus) : (s.setBus v).doors = s.doors := rfl

@[simp] theorem State.setBus_debounce (s : State) (v : Bus) : (s.setBus v).debounce = s.debounce := rfl

@[simp] theorem State.setBus_stored (s : State) (v : Bus) : (s.setBus v).stored = s.stored := rfl

@[simp] theorem State.setBus_calling (s : State) (v : Bus) : (s.setBus v).calling = s.calling := rfl

@[simp] theorem State.setBus_clear (s : State) (v : Bus) : (s.setBus v).clear = s.clear := rfl

@[simp] theorem State.setBus_mode (s : State) (v : Bus) : (s.setBus v).mode = s.mode := rfl

@[simp] theorem State.setBus_wakeRecord (s : State) (v : Bus) : (s.setBus v).wakeRecord = s.wakeRecord := rfl

@[simp] theorem State.setBus_wakeCause (s : State) (v : Bus) : (s.setBus v).wakeCause = s.wakeCause := rfl

@[simp] theorem State.setBus_window (s : State) (v : Bus) : (s.setBus v).window = s.window := rfl

@[simp] theorem State.setBus_lanes (s : State) (v : Bus) : (s.setBus v).lanes = s.lanes := rfl

@[simp] theorem State.setBus_mover (s : State) (v : Bus) : (s.setBus v).mover = s.mover := rfl

@[simp] theorem State.setBus_reports (s : State) (v : Bus) : (s.setBus v).reports = s.reports := rfl

@[simp] theorem State.setBus_frameMem (s : State) (v : Bus) : (s.setBus v).frameMem = s.frameMem := rfl

@[simp] theorem State.setBus_bus (s : State) (v : Bus) : (s.setBus v).bus = v := rfl

@[simp] theorem State.setBus_pending (s : State) (v : Bus) : (s.setBus v).pending = s.pending := rfl

/-! ## setWindow -/

@[simp] theorem State.setWindow_clock (s : State) (v : Window) : (s.setWindow v).clock = s.clock := rfl

@[simp] theorem State.setWindow_ports (s : State) (v : Window) : (s.setWindow v).ports = s.ports := rfl

@[simp] theorem State.setWindow_store (s : State) (v : Window) : (s.setWindow v).store = s.store := rfl

@[simp] theorem State.setWindow_soil (s : State) (v : Window) : (s.setWindow v).soil = s.soil := rfl

@[simp] theorem State.setWindow_evalQueue (s : State) (v : Window) : (s.setWindow v).evalQueue = s.evalQueue := rfl

@[simp] theorem State.setWindow_layouts (s : State) (v : Window) : (s.setWindow v).layouts = s.layouts := rfl

@[simp] theorem State.setWindow_displays (s : State) (v : Window) : (s.setWindow v).displays = s.displays := rfl

@[simp] theorem State.setWindow_cab (s : State) (v : Window) : (s.setWindow v).cab = s.cab := rfl

@[simp] theorem State.setWindow_doors (s : State) (v : Window) : (s.setWindow v).doors = s.doors := rfl

@[simp] theorem State.setWindow_debounce (s : State) (v : Window) : (s.setWindow v).debounce = s.debounce := rfl

@[simp] theorem State.setWindow_stored (s : State) (v : Window) : (s.setWindow v).stored = s.stored := rfl

@[simp] theorem State.setWindow_calling (s : State) (v : Window) : (s.setWindow v).calling = s.calling := rfl

@[simp] theorem State.setWindow_clear (s : State) (v : Window) : (s.setWindow v).clear = s.clear := rfl

@[simp] theorem State.setWindow_mode (s : State) (v : Window) : (s.setWindow v).mode = s.mode := rfl

@[simp] theorem State.setWindow_wakeRecord (s : State) (v : Window) : (s.setWindow v).wakeRecord = s.wakeRecord := rfl

@[simp] theorem State.setWindow_wakeCause (s : State) (v : Window) : (s.setWindow v).wakeCause = s.wakeCause := rfl

@[simp] theorem State.setWindow_window (s : State) (v : Window) : (s.setWindow v).window = v := rfl

@[simp] theorem State.setWindow_lanes (s : State) (v : Window) : (s.setWindow v).lanes = s.lanes := rfl

@[simp] theorem State.setWindow_mover (s : State) (v : Window) : (s.setWindow v).mover = s.mover := rfl

@[simp] theorem State.setWindow_reports (s : State) (v : Window) : (s.setWindow v).reports = s.reports := rfl

@[simp] theorem State.setWindow_frameMem (s : State) (v : Window) : (s.setWindow v).frameMem = s.frameMem := rfl

@[simp] theorem State.setWindow_bus (s : State) (v : Window) : (s.setWindow v).bus = s.bus := rfl

@[simp] theorem State.setWindow_pending (s : State) (v : Window) : (s.setWindow v).pending = s.pending := rfl

end Sys2Proof.Machine
end

