-- ==== Sys2Proof/Laws/Reports.lean ====
section
/-! SUPPORT. What the shared operations of the Report Writer can do: the fields they leave, the notices they keep, the bytes of
host memory they reach, and what they come to while the link is quiet. A lemma `_unseen` says that an observation blind to the
fields an operation writes does not see the operation; a lemma `_keeps` lists the fields it leaves. -/

namespace Sys2Proof.Machine

/-! ## What each operation leaves -/

theorem mark_unseen (r : Record) (s : State) {α : Type} (f : State → α)
    (h : ∀ s r, f { s with reports := r } = f s) : f (mark r s) = f s := by
  exact h s _

@[simp] theorem mark_keeps (r : Record) (s : State) :
    (mark r s).clock = s.clock ∧ (mark r s).ports = s.ports ∧ (mark r s).store = s.store ∧ (mark r s).soil = s.soil ∧
    (mark r s).evalQueue = s.evalQueue ∧ (mark r s).layouts = s.layouts ∧ (mark r s).displays = s.displays ∧
    (mark r s).cab = s.cab ∧ (mark r s).doors = s.doors ∧ (mark r s).debounce = s.debounce ∧
    (mark r s).stored = s.stored ∧ (mark r s).calling = s.calling ∧ (mark r s).clear = s.clear ∧
    (mark r s).mode = s.mode ∧ (mark r s).wakeRecord = s.wakeRecord ∧ (mark r s).wakeCause = s.wakeCause ∧
    (mark r s).window = s.window ∧ (mark r s).lanes = s.lanes ∧ (mark r s).mover = s.mover ∧
    (mark r s).frameMem = s.frameMem ∧ (mark r s).bus = s.bus ∧ (mark r s).pending = s.pending := by
  simpa only [Prod.mk.injEq] using mark_unseen r s (fun s => (
    s.clock, s.ports, s.store, s.soil, s.evalQueue, s.layouts, s.displays, s.cab, s.doors, s.debounce, s.stored,
    s.calling, s.clear, s.mode, s.wakeRecord, s.wakeCause, s.window, s.lanes, s.mover, s.frameMem, s.bus, s.pending)) fun _ _ => rfl

theorem raise_unseen (n : Notice) (s : State) {α : Type} (f : State → α)
    (h : ∀ s r, f { s with reports := r } = f s) : f (raise n s) = f s := by
  unfold raise
  split
  · split
    · rfl
    · rw [mark_unseen _ _ f h]; exact h s _
  · rfl

@[simp] theorem raise_keeps (n : Notice) (s : State) :
    (raise n s).clock = s.clock ∧ (raise n s).ports = s.ports ∧ (raise n s).store = s.store ∧
    (raise n s).soil = s.soil ∧ (raise n s).evalQueue = s.evalQueue ∧ (raise n s).layouts = s.layouts ∧
    (raise n s).displays = s.displays ∧ (raise n s).cab = s.cab ∧ (raise n s).doors = s.doors ∧
    (raise n s).debounce = s.debounce ∧ (raise n s).stored = s.stored ∧ (raise n s).calling = s.calling ∧
    (raise n s).clear = s.clear ∧ (raise n s).mode = s.mode ∧ (raise n s).wakeRecord = s.wakeRecord ∧
    (raise n s).wakeCause = s.wakeCause ∧ (raise n s).window = s.window ∧ (raise n s).lanes = s.lanes ∧
    (raise n s).mover = s.mover ∧ (raise n s).frameMem = s.frameMem ∧ (raise n s).bus = s.bus ∧
    (raise n s).pending = s.pending := by
  simpa only [Prod.mk.injEq] using raise_unseen n s (fun s => (
    s.clock, s.ports, s.store, s.soil, s.evalQueue, s.layouts, s.displays, s.cab, s.doors, s.debounce, s.stored,
    s.calling, s.clear, s.mode, s.wakeRecord, s.wakeCause, s.window, s.lanes, s.mover, s.frameMem, s.bus, s.pending)) fun _ _ => rfl

theorem recordFault_unseen (c : FaultCause) (l : Option LaneId) (a : Nat) (s : State) {α : Type} (f : State → α)
    (h : ∀ s r, f { s with reports := r } = f s) : f (recordFault c l a s) = f s := by
  rw [recordFault, raise_unseen _ _ f h, mark_unseen _ _ f h]; exact h s _

@[simp] theorem recordFault_keeps (c : FaultCause) (l : Option LaneId) (a : Nat) (s : State) :
    (recordFault c l a s).clock = s.clock ∧ (recordFault c l a s).ports = s.ports ∧
    (recordFault c l a s).store = s.store ∧ (recordFault c l a s).soil = s.soil ∧
    (recordFault c l a s).evalQueue = s.evalQueue ∧ (recordFault c l a s).layouts = s.layouts ∧
    (recordFault c l a s).displays = s.displays ∧ (recordFault c l a s).cab = s.cab ∧
    (recordFault c l a s).doors = s.doors ∧ (recordFault c l a s).debounce = s.debounce ∧
    (recordFault c l a s).stored = s.stored ∧ (recordFault c l a s).calling = s.calling ∧
    (recordFault c l a s).clear = s.clear ∧ (recordFault c l a s).mode = s.mode ∧
    (recordFault c l a s).wakeRecord = s.wakeRecord ∧ (recordFault c l a s).wakeCause = s.wakeCause ∧
    (recordFault c l a s).window = s.window ∧ (recordFault c l a s).lanes = s.lanes ∧
    (recordFault c l a s).mover = s.mover ∧ (recordFault c l a s).frameMem = s.frameMem ∧
    (recordFault c l a s).bus = s.bus ∧ (recordFault c l a s).pending = s.pending := by
  simpa only [Prod.mk.injEq] using recordFault_unseen c l a s (fun s => (
    s.clock, s.ports, s.store, s.soil, s.evalQueue, s.layouts, s.displays, s.cab, s.doors, s.debounce, s.stored,
    s.calling, s.clear, s.mode, s.wakeRecord, s.wakeCause, s.window, s.lanes, s.mover, s.frameMem, s.bus, s.pending)) fun _ _ => rfl

theorem dropWord_unseen (r : DropReason) (s : State) {α : Type} (f : State → α)
    (h : ∀ s w, f { s with window := w } = f s) : f (dropWord r s) = f s := by
  exact h s _

@[simp] theorem dropWord_keeps (r : DropReason) (s : State) :
    (dropWord r s).clock = s.clock ∧ (dropWord r s).ports = s.ports ∧ (dropWord r s).store = s.store ∧
    (dropWord r s).soil = s.soil ∧ (dropWord r s).evalQueue = s.evalQueue ∧ (dropWord r s).layouts = s.layouts ∧
    (dropWord r s).displays = s.displays ∧ (dropWord r s).cab = s.cab ∧ (dropWord r s).doors = s.doors ∧
    (dropWord r s).debounce = s.debounce ∧ (dropWord r s).stored = s.stored ∧ (dropWord r s).calling = s.calling ∧
    (dropWord r s).clear = s.clear ∧ (dropWord r s).mode = s.mode ∧ (dropWord r s).wakeRecord = s.wakeRecord ∧
    (dropWord r s).wakeCause = s.wakeCause ∧ (dropWord r s).lanes = s.lanes ∧ (dropWord r s).mover = s.mover ∧
    (dropWord r s).reports = s.reports ∧ (dropWord r s).frameMem = s.frameMem ∧ (dropWord r s).bus = s.bus ∧
    (dropWord r s).pending = s.pending := by
  simpa only [Prod.mk.injEq] using dropWord_unseen r s (fun s => (
    s.clock, s.ports, s.store, s.soil, s.evalQueue, s.layouts, s.displays, s.cab, s.doors, s.debounce, s.stored,
    s.calling, s.clear, s.mode, s.wakeRecord, s.wakeCause, s.lanes, s.mover, s.reports, s.frameMem, s.bus, s.pending)) fun _ _ => rfl

theorem reportError_unseen (r : Record) (s : State) {α : Type} (f : State → α)
    (h : ∀ s r, f { s with reports := r } = f s) : f (reportError r s) = f s := by
  rw [reportError, recordFault_unseen _ _ _ _ f h]; exact h s _

@[simp] theorem reportError_keeps (r : Record) (s : State) :
    (reportError r s).clock = s.clock ∧ (reportError r s).ports = s.ports ∧ (reportError r s).store = s.store ∧
    (reportError r s).soil = s.soil ∧ (reportError r s).evalQueue = s.evalQueue ∧
    (reportError r s).layouts = s.layouts ∧ (reportError r s).displays = s.displays ∧ (reportError r s).cab = s.cab ∧
    (reportError r s).doors = s.doors ∧ (reportError r s).debounce = s.debounce ∧
    (reportError r s).stored = s.stored ∧ (reportError r s).calling = s.calling ∧ (reportError r s).clear = s.clear ∧
    (reportError r s).mode = s.mode ∧ (reportError r s).wakeRecord = s.wakeRecord ∧
    (reportError r s).wakeCause = s.wakeCause ∧ (reportError r s).window = s.window ∧
    (reportError r s).lanes = s.lanes ∧ (reportError r s).mover = s.mover ∧ (reportError r s).frameMem = s.frameMem ∧
    (reportError r s).bus = s.bus ∧ (reportError r s).pending = s.pending := by
  simpa only [Prod.mk.injEq] using reportError_unseen r s (fun s => (
    s.clock, s.ports, s.store, s.soil, s.evalQueue, s.layouts, s.displays, s.cab, s.doors, s.debounce, s.stored,
    s.calling, s.clear, s.mode, s.wakeRecord, s.wakeCause, s.window, s.lanes, s.mover, s.frameMem, s.bus, s.pending)) fun _ _ => rfl

theorem writeRecord_unseen (r : Record) (s : State) {α : Type} (f : State → α)
    (h : ∀ s r b, f { s with reports := r, bus := b } = f s) : f (writeRecord r s) = f s := by
  have hr : ∀ s r, f { s with reports := r } = f s := fun s r => h s r s.bus
  unfold writeRecord
  split
  · dsimp only
    split
    · exact h s _ _
    · rw [reportError_unseen _ _ f hr]; exact h s _ _
  · rfl

@[simp] theorem writeRecord_keeps (r : Record) (s : State) :
    (writeRecord r s).clock = s.clock ∧ (writeRecord r s).ports = s.ports ∧ (writeRecord r s).store = s.store ∧
    (writeRecord r s).soil = s.soil ∧ (writeRecord r s).evalQueue = s.evalQueue ∧
    (writeRecord r s).layouts = s.layouts ∧ (writeRecord r s).displays = s.displays ∧ (writeRecord r s).cab = s.cab ∧
    (writeRecord r s).doors = s.doors ∧ (writeRecord r s).debounce = s.debounce ∧
    (writeRecord r s).stored = s.stored ∧ (writeRecord r s).calling = s.calling ∧ (writeRecord r s).clear = s.clear ∧
    (writeRecord r s).mode = s.mode ∧ (writeRecord r s).wakeRecord = s.wakeRecord ∧
    (writeRecord r s).wakeCause = s.wakeCause ∧ (writeRecord r s).window = s.window ∧
    (writeRecord r s).lanes = s.lanes ∧ (writeRecord r s).mover = s.mover ∧ (writeRecord r s).frameMem = s.frameMem ∧
    (writeRecord r s).pending = s.pending := by
  simpa only [Prod.mk.injEq] using writeRecord_unseen r s (fun s => (
    s.clock, s.ports, s.store, s.soil, s.evalQueue, s.layouts, s.displays, s.cab, s.doors, s.debounce, s.stored,
    s.calling, s.clear, s.mode, s.wakeRecord, s.wakeCause, s.window, s.lanes, s.mover, s.frameMem, s.pending)) fun _ _ _ => rfl

theorem settleIv_unseen (s : State) {α : Type} (f : State → α)
    (h : ∀ s r b, f { s with reports := r, bus := b } = f s) : f (settleIv s) = f s := by
  unfold settleIv
  split
  · exact h s _ _
  · rfl

@[simp] theorem settleIv_keeps (s : State) :
    (settleIv s).clock = s.clock ∧ (settleIv s).ports = s.ports ∧ (settleIv s).store = s.store ∧
    (settleIv s).soil = s.soil ∧ (settleIv s).evalQueue = s.evalQueue ∧ (settleIv s).layouts = s.layouts ∧
    (settleIv s).displays = s.displays ∧ (settleIv s).cab = s.cab ∧ (settleIv s).doors = s.doors ∧
    (settleIv s).debounce = s.debounce ∧ (settleIv s).stored = s.stored ∧ (settleIv s).calling = s.calling ∧
    (settleIv s).clear = s.clear ∧ (settleIv s).mode = s.mode ∧ (settleIv s).wakeRecord = s.wakeRecord ∧
    (settleIv s).wakeCause = s.wakeCause ∧ (settleIv s).window = s.window ∧ (settleIv s).lanes = s.lanes ∧
    (settleIv s).mover = s.mover ∧ (settleIv s).frameMem = s.frameMem ∧ (settleIv s).pending = s.pending := by
  simpa only [Prod.mk.injEq] using settleIv_unseen s (fun s => (
    s.clock, s.ports, s.store, s.soil, s.evalQueue, s.layouts, s.displays, s.cab, s.doors, s.debounce, s.stored,
    s.calling, s.clear, s.mode, s.wakeRecord, s.wakeCause, s.window, s.lanes, s.mover, s.frameMem, s.pending)) fun _ _ _ => rfl

theorem writeRecords_unseen (rs : List Record) (s : State) {α : Type} (f : State → α)
    (h : ∀ s r b, f { s with reports := r, bus := b } = f s) : f (rs.foldl (fun t r => writeRecord r t) s) = f s := by
  induction rs generalizing s with
  | nil => rfl
  | cons r rs ih => rw [List.foldl_cons, ih, writeRecord_unseen _ _ f h]

@[simp] theorem writeRecords_keeps (rs : List Record) (s : State) :
    (rs.foldl (fun t r => writeRecord r t) s).clock = s.clock ∧
    (rs.foldl (fun t r => writeRecord r t) s).ports = s.ports ∧
    (rs.foldl (fun t r => writeRecord r t) s).store = s.store ∧
    (rs.foldl (fun t r => writeRecord r t) s).soil = s.soil ∧
    (rs.foldl (fun t r => writeRecord r t) s).evalQueue = s.evalQueue ∧
    (rs.foldl (fun t r => writeRecord r t) s).layouts = s.layouts ∧
    (rs.foldl (fun t r => writeRecord r t) s).displays = s.displays ∧
    (rs.foldl (fun t r => writeRecord r t) s).cab = s.cab ∧
    (rs.foldl (fun t r => writeRecord r t) s).doors = s.doors ∧
    (rs.foldl (fun t r => writeRecord r t) s).debounce = s.debounce ∧
    (rs.foldl (fun t r => writeRecord r t) s).stored = s.stored ∧
    (rs.foldl (fun t r => writeRecord r t) s).calling = s.calling ∧
    (rs.foldl (fun t r => writeRecord r t) s).clear = s.clear ∧
    (rs.foldl (fun t r => writeRecord r t) s).mode = s.mode ∧
    (rs.foldl (fun t r => writeRecord r t) s).wakeRecord = s.wakeRecord ∧
    (rs.foldl (fun t r => writeRecord r t) s).wakeCause = s.wakeCause ∧
    (rs.foldl (fun t r => writeRecord r t) s).window = s.window ∧
    (rs.foldl (fun t r => writeRecord r t) s).lanes = s.lanes ∧
    (rs.foldl (fun t r => writeRecord r t) s).mover = s.mover ∧
    (rs.foldl (fun t r => writeRecord r t) s).frameMem = s.frameMem ∧
    (rs.foldl (fun t r => writeRecord r t) s).pending = s.pending := by
  simpa only [Prod.mk.injEq] using writeRecords_unseen rs s (fun s => (
    s.clock, s.ports, s.store, s.soil, s.evalQueue, s.layouts, s.displays, s.cab, s.doors, s.debounce, s.stored,
    s.calling, s.clear, s.mode, s.wakeRecord, s.wakeCause, s.window, s.lanes, s.mover, s.frameMem, s.pending)) fun _ _ _ => rfl

theorem finishEvent_unseen (s : State) {α : Type} (f : State → α)
    (h : ∀ s r b, f { s with reports := r, bus := b } = f s) : f (finishEvent s) = f s := by
  have hr : ∀ s r, f { s with reports := r } = f s := fun s r => h s r s.bus
  unfold finishEvent
  dsimp only
  rw [settleIv_unseen _ f h]
  refine (hr _ _).trans ?_
  split
  · rw [writeRecord_unseen _ _ f h, writeRecords_unseen _ _ f h]
  · rw [writeRecords_unseen _ _ f h]

@[simp] theorem finishEvent_keeps (s : State) :
    (finishEvent s).clock = s.clock ∧ (finishEvent s).ports = s.ports ∧ (finishEvent s).store = s.store ∧
    (finishEvent s).soil = s.soil ∧ (finishEvent s).evalQueue = s.evalQueue ∧ (finishEvent s).layouts = s.layouts ∧
    (finishEvent s).displays = s.displays ∧ (finishEvent s).cab = s.cab ∧ (finishEvent s).doors = s.doors ∧
    (finishEvent s).debounce = s.debounce ∧ (finishEvent s).stored = s.stored ∧ (finishEvent s).calling = s.calling ∧
    (finishEvent s).clear = s.clear ∧ (finishEvent s).mode = s.mode ∧ (finishEvent s).wakeRecord = s.wakeRecord ∧
    (finishEvent s).wakeCause = s.wakeCause ∧ (finishEvent s).window = s.window ∧ (finishEvent s).lanes = s.lanes ∧
    (finishEvent s).mover = s.mover ∧ (finishEvent s).frameMem = s.frameMem ∧ (finishEvent s).pending = s.pending := by
  simpa only [Prod.mk.injEq] using finishEvent_unseen s (fun s => (
    s.clock, s.ports, s.store, s.soil, s.evalQueue, s.layouts, s.displays, s.cab, s.doors, s.debounce, s.stored,
    s.calling, s.clear, s.mode, s.wakeRecord, s.wakeCause, s.window, s.lanes, s.mover, s.frameMem, s.pending)) fun _ _ _ => rfl

theorem markAll_unseen (s : State) {α : Type} (f : State → α)
    (h : ∀ s r, f { s with reports := r } = f s) : f (markAll s) = f s := by
  exact h s _

@[simp] theorem markAll_keeps (s : State) :
    (markAll s).clock = s.clock ∧ (markAll s).ports = s.ports ∧ (markAll s).store = s.store ∧
    (markAll s).soil = s.soil ∧ (markAll s).evalQueue = s.evalQueue ∧ (markAll s).layouts = s.layouts ∧
    (markAll s).displays = s.displays ∧ (markAll s).cab = s.cab ∧ (markAll s).doors = s.doors ∧
    (markAll s).debounce = s.debounce ∧ (markAll s).stored = s.stored ∧ (markAll s).calling = s.calling ∧
    (markAll s).clear = s.clear ∧ (markAll s).mode = s.mode ∧ (markAll s).wakeRecord = s.wakeRecord ∧
    (markAll s).wakeCause = s.wakeCause ∧ (markAll s).window = s.window ∧ (markAll s).lanes = s.lanes ∧
    (markAll s).mover = s.mover ∧ (markAll s).frameMem = s.frameMem ∧ (markAll s).bus = s.bus ∧
    (markAll s).pending = s.pending := by
  simpa only [Prod.mk.injEq] using markAll_unseen s (fun s => (
    s.clock, s.ports, s.store, s.soil, s.evalQueue, s.layouts, s.displays, s.cab, s.doors, s.debounce, s.stored,
    s.calling, s.clear, s.mode, s.wakeRecord, s.wakeCause, s.window, s.lanes, s.mover, s.frameMem, s.bus, s.pending)) fun _ _ => rfl

theorem fullReport_unseen (b : Bool) (s : State) {α : Type} (f : State → α)
    (h : ∀ s r, f { s with reports := r } = f s) : f (fullReport b s) = f s := by
  unfold fullReport
  dsimp only
  rw [markAll_unseen _ f h]
  split
  · rw [raise_unseen _ _ f h]; exact h s _
  · exact h s _

@[simp] theorem fullReport_keeps (b : Bool) (s : State) :
    (fullReport b s).clock = s.clock ∧ (fullReport b s).ports = s.ports ∧ (fullReport b s).store = s.store ∧
    (fullReport b s).soil = s.soil ∧ (fullReport b s).evalQueue = s.evalQueue ∧ (fullReport b s).layouts = s.layouts ∧
    (fullReport b s).displays = s.displays ∧ (fullReport b s).cab = s.cab ∧ (fullReport b s).doors = s.doors ∧
    (fullReport b s).debounce = s.debounce ∧ (fullReport b s).stored = s.stored ∧
    (fullReport b s).calling = s.calling ∧ (fullReport b s).clear = s.clear ∧ (fullReport b s).mode = s.mode ∧
    (fullReport b s).wakeRecord = s.wakeRecord ∧ (fullReport b s).wakeCause = s.wakeCause ∧
    (fullReport b s).window = s.window ∧ (fullReport b s).lanes = s.lanes ∧ (fullReport b s).mover = s.mover ∧
    (fullReport b s).frameMem = s.frameMem ∧ (fullReport b s).bus = s.bus ∧ (fullReport b s).pending = s.pending := by
  simpa only [Prod.mk.injEq] using fullReport_unseen b s (fun s => (
    s.clock, s.ports, s.store, s.soil, s.evalQueue, s.layouts, s.displays, s.cab, s.doors, s.debounce, s.stored,
    s.calling, s.clear, s.mode, s.wakeRecord, s.wakeCause, s.window, s.lanes, s.mover, s.frameMem, s.bus, s.pending)) fun _ _ => rfl

/-! ## Notices -/

theorem Notice.bit_lt (n : Notice) : n.bit < 11 := by cases n <;> decide

theorem hasNotice_or_mask (w : BitVec 11) (n m : Notice) :
    hasNotice (w ||| n.mask) m = (hasNotice w m || decide (n = m)) := by
  have : n.mask.getLsbD m.bit = decide (n = m) := by cases n <;> cases m <;> decide
  simp [hasNotice, this]

theorem or_mask_ne_zero (w : BitVec 11) (n : Notice) : w ||| n.mask ≠ 0 := by
  intro h
  have h2 := hasNotice_or_mask w n n
  rw [h] at h2
  simp [hasNotice] at h2

/-- What `mark` does to the Report Writer: one more record is due. -/
@[simp] theorem mark_reports (r : Record) (s : State) :
    (mark r s).reports = { s.reports with due := r :: s.reports.due } := rfl

/-- What `raise` does to the Report Writer: in a valid area the bit is set; else nothing. -/
theorem raise_reports (n : Notice) (s : State) :
    ∃ due, (raise n s).reports =
      { s.reports with notice := bif s.window.areaValid then s.reports.notice ||| n.mask else s.reports.notice, due } := by
  unfold raise
  by_cases hv : s.window.areaValid = true
  · rw [if_pos hv, hv, cond_true]
    split
    · rename_i hn
      refine ⟨s.reports.due, ?_⟩
      have : s.reports.notice ||| n.mask = s.reports.notice := by
        apply BitVec.eq_of_getLsbD_eq
        intro i hi
        rw [BitVec.getLsbD_or]
        by_cases hb : i = n.bit
        · subst hb; simp [hasNotice] at hn; simp [hn]
        · have : n.mask.getLsbD i = false := by
            have key : ∀ (n : Notice) (i : Fin 11), i.val ≠ n.bit → n.mask.getLsbD i.val = false := by
              intro n; cases n <;> decide
            exact key n ⟨i, hi⟩ hb
          simp [this]
      rw [this]
    · exact ⟨_, rfl⟩
  · rw [if_neg hv, Bool.eq_false_iff.mpr hv]
    exact ⟨s.reports.due, rfl⟩

@[simp] theorem raise_reports_fields (n : Notice) (s : State) :
    (raise n s).reports.iv = s.reports.iv ∧ (raise n s).reports.fault = s.reports.fault ∧
    (raise n s).reports.editions = s.reports.editions ∧ (raise n s).reports.suspended = s.reports.suspended ∧
    (raise n s).reports.announce = s.reports.announce ∧ (raise n s).reports.lastOverride = s.reports.lastOverride := by
  obtain ⟨due, h⟩ := raise_reports n s
  rw [h]
  exact ⟨rfl, rfl, rfl, rfl, rfl, rfl⟩

@[simp] theorem raise_notice (n : Notice) (s : State) :
    (raise n s).reports.notice = bif s.window.areaValid then s.reports.notice ||| n.mask else s.reports.notice := by
  obtain ⟨due, h⟩ := raise_reports n s
  rw [h]

@[simp] theorem recordFault_reports_fields (c : FaultCause) (l : Option LaneId) (a : Nat) (s : State) :
    (recordFault c l a s).reports.iv = s.reports.iv ∧ (recordFault c l a s).reports.editions = s.reports.editions ∧
    (recordFault c l a s).reports.suspended = s.reports.suspended ∧
    (recordFault c l a s).reports.announce = s.reports.announce ∧
    (recordFault c l a s).reports.lastOverride = s.reports.lastOverride ∧
    (recordFault c l a s).reports.fault = some (nextFault c l a s.clock s.reports.fault) ∧
    (recordFault c l a s).reports.notice =
      bif s.window.areaValid then s.reports.notice ||| Notice.fault.mask else s.reports.notice := by
  cases hv : s.window.areaValid <;> simp [recordFault, hv]

/-! ## Records and their places -/

@[simp] theorem length_leBytes (n v : Nat) : (leBytes n v).length = n := by
  induction n generalizing v with
  | zero => rfl
  | succ n ih => simp [leBytes, ih]

@[simp] theorem length_zeros (n : Nat) : (zeros n).length = n := by simp [zeros]

theorem length_tileEntry (t : Option FrameTile) : (tileEntry t).length = 6 := by
  unfold tileEntry
  split
  · rfl
  · dsimp only; split <;> simp

theorem length_flatMap_const {α β : Type} (l : List α) (f : α → List β) (n : Nat) (h : ∀ a, (f a).length = n) :
    (l.flatMap f).length = n * l.length := by
  induction l with
  | nil => simp
  | cons a l ih => simp [h, ih, Nat.mul_succ, Nat.add_comm]

/-- The contents of a record fill it between its two editions (R173). -/
theorem length_recordContents (s : State) (r : Record) : (recordContents s r).length + 4 = r.size := by
  cases r with
  | fault =>
    simp only [recordContents, faultContents, Record.size]
    split <;> simp
  | camera p => simp [recordContents, cameraContents, Record.size]
  | soil p =>
    simp only [recordContents, soilContents, Record.size]
    cases s.soil[p].learning <;> simp
  | door d =>
    have hs : ∀ o : Option Stamp, (stampBytes o).length = 4 := by intro o; cases o <;> simp [stampBytes]
    simp only [recordContents, doorContents, Record.size, List.length_append, hs]
    cases s.doors[d].lastView <;> simp
  | display d =>
    simp [recordContents, displayContents, Record.size, length_tileEntry]
  | lane l => simp [recordContents, laneContents, Lane.contents, Record.size]
  | reference p =>
    simp only [recordContents, referenceContents, Record.size, List.length_append]
    rw [length_flatMap_const _ _ 2 (by simp)]
    simp
  | part => simp [recordContents, partContents, Record.size]

/-- Every record lies in the report region (section 10.1). -/
theorem Record.in_region (r : Record) : r.offset + r.size ≤ 8192 := by
  cases r <;> simp [Record.offset, Record.size] <;> omega

/-- Two records share no byte (section 10.1). -/
theorem Record.apart {r q : Record} (h : r ≠ q) : r.offset + r.size ≤ q.offset ∨ q.offset + q.size ≤ r.offset := by
  cases r <;> cases q <;> simp only [Record.offset, Record.size] <;>
    first
    | omega
    | (exact absurd rfl h)
    | (rename_i i j; have : i.val ≠ j.val := fun e => h (by rw [Fin.ext e]); omega)

theorem Record.index_inj {r q : Record} (h : r.index = q.index) : r = q := by
  have hv : r.index.val = q.index.val := congrArg Fin.val h
  cases r <;> cases q <;> simp only [Record.index] at hv <;>
    first
    | rfl
    | (exfalso; omega)
    | (congr 1; apply Fin.ext; omega)

theorem mem_recordsBeforePart (r : Record) : r ∈ recordsBeforePart ↔ r ≠ .part := by
  cases r <;> simp only [recordsBeforePart, List.mem_append, List.mem_cons, List.mem_map, List.mem_finRange, true_and] <;>
    simp

theorem recordsBeforePart_nodup : recordsBeforePart.Nodup := by decide

/-! ## Writing -/

theorem recordWrites_range {s : State} {r : Record} {e : Half} {w : Nat × List Byte} (h : w ∈ recordWrites s r e) :
    areaBase s + r.offset ≤ w.1 ∧ w.1 + w.2.length ≤ areaBase s + r.offset + r.size := by
  have hl := length_recordContents s r
  simp only [recordWrites, List.mem_cons, List.not_mem_nil, or_false] at h
  rcases h with rfl | rfl | rfl <;> simp <;> omega

@[simp] theorem reportError_reports_fields (r : Record) (s : State) :
    (reportError r s).reports.iv = s.reports.iv ∧ (reportError r s).reports.editions = s.reports.editions ∧
    (reportError r s).reports.announce = s.reports.announce ∧
    (reportError r s).reports.lastOverride = s.reports.lastOverride ∧
    (reportError r s).reports.suspended = true ∧
    (reportError r s).reports.notice =
      bif s.window.areaValid then s.reports.notice ||| Notice.fault.mask else s.reports.notice := by
  cases hv : s.window.areaValid <;> simp [reportError, hv]

/-- What the write of one record can do, whatever the link reports: the canonical form and the bytes outside the record
stay, IV stays, notices are only added. -/
theorem writeRecord_spec (r : Record) (s : State) :
    (s.bus.mem.wf → (writeRecord r s).bus.mem.wf) ∧
    (∀ x, x < areaBase s + r.offset ∨ areaBase s + r.offset + r.size ≤ x →
      (writeRecord r s).bus.mem.read x = s.bus.mem.read x) ∧
    (writeRecord r s).reports.iv = s.reports.iv ∧
    (∀ n, hasNotice s.reports.notice n = true → hasNotice (writeRecord r s).reports.notice n = true) ∧
    (writeRecord r s).bus.interrupts = s.bus.interrupts ∧
    (writeRecord r s).reports.announce = s.reports.announce := by
  unfold writeRecord
  split
  · obtain ⟨h1, h2, h3, -, -⟩ := Bus.writeSealed_spec s.bus (recordWrites s r (s.reports.editions[r.index] + 1))
    have h2 : ∀ x, x < areaBase s + r.offset ∨ areaBase s + r.offset + r.size ≤ x →
        (s.bus.writeSealed (recordWrites s r (s.reports.editions[r.index] + 1))).1.mem.read x = s.bus.mem.read x := by
      intro x hx
      refine h2 x fun w hw => ?_
      have := recordWrites_range hw
      omega
    dsimp only
    split
    · rename_i b hb
      rw [hb] at h1 h2 h3
      exact ⟨h1, h2, rfl, fun _ h => h, h3, rfl⟩
    · rename_i b hb
      rw [hb] at h1 h2 h3
      refine ⟨by simpa using h1, by simpa using h2, by simp, fun n hn => ?_, by simpa using h3, by simp⟩
      simp only [reportError_reports_fields, State.setBus_reports, State.setBus_window, State.setReports_window,
        State.setReports_reports]
      cases s.window.areaValid
      · exact hn
      · rw [cond_true, hasNotice_or_mask, hn]; rfl
  · exact ⟨id, fun _ _ => rfl, rfl, fun _ h => h, rfl, rfl⟩

/-- What the writes of an event's records can do; see `writeRecord_spec`. -/
theorem writeRecords_spec (rs : List Record) (s : State) :
    (s.bus.mem.wf → (rs.foldl (fun t r => writeRecord r t) s).bus.mem.wf) ∧
    (∀ x, x < areaBase s ∨ areaBase s + 8192 ≤ x →
      (rs.foldl (fun t r => writeRecord r t) s).bus.mem.read x = s.bus.mem.read x) ∧
    (rs.foldl (fun t r => writeRecord r t) s).reports.iv = s.reports.iv ∧
    (∀ n, hasNotice s.reports.notice n = true →
      hasNotice (rs.foldl (fun t r => writeRecord r t) s).reports.notice n = true) ∧
    (rs.foldl (fun t r => writeRecord r t) s).bus.interrupts = s.bus.interrupts ∧
    (rs.foldl (fun t r => writeRecord r t) s).reports.announce = s.reports.announce := by
  induction rs generalizing s with
  | nil => exact ⟨id, fun _ _ => rfl, rfl, fun _ h => h, rfl, rfl⟩
  | cons r rs ih =>
    obtain ⟨a1, a2, a3, a4, a5, a6⟩ := writeRecord_spec r s
    obtain ⟨b1, b2, b3, b4, b5, b6⟩ := ih (writeRecord r s)
    have hb : areaBase (writeRecord r s) = areaBase s := by simp [areaBase]
    have := r.in_region
    refine ⟨fun h => b1 (a1 h), fun x hx => ?_, b3.trans a3, fun n h => b4 n (a4 n h), b5.trans a5, b6.trans a6⟩
    rw [List.foldl_cons, b2 x (by omega), a2 x (by omega)]

@[simp] theorem settleIv_reports_fields (s : State) :
    (settleIv s).reports.notice = s.reports.notice ∧ (settleIv s).reports.fault = s.reports.fault ∧
    (settleIv s).reports.editions = s.reports.editions ∧ (settleIv s).reports.suspended = s.reports.suspended ∧
    (settleIv s).reports.announce = s.reports.announce ∧ (settleIv s).reports.lastOverride = s.reports.lastOverride ∧
    (settleIv s).reports.due = s.reports.due ∧ (settleIv s).bus.mem = s.bus.mem ∧
    (settleIv s).bus.fate = s.bus.fate := by
  unfold settleIv
  split <;> simp

/-- IV and the interrupt after `settleIv` (R175). -/
theorem settleIv_spec (s : State) :
    ((settleIv s).reports.iv = true ↔ s.reports.iv = true ∨ s.reports.notice ≠ 0 ∧ reportsFlow s = true) ∧
    (settleIv s).bus.interrupts =
      s.bus.interrupts + (if s.reports.iv = false ∧ (settleIv s).reports.iv = true then 1 else 0) := by
  unfold settleIv
  split
  · rename_i h; exact ⟨⟨fun _ => .inr ⟨h.1, h.2.1⟩, fun _ => rfl⟩, by simp [h.2.2]⟩
  · rename_i h
    cases hi : s.reports.iv
    · simp [hi] at h ⊢; exact h
    · simp

/-- What the end of an event can do, whatever the link reports: the canonical form and the bytes outside the report region
stay, notices are only added, IV stands only over a notice. -/
theorem finishEvent_spec (s : State) :
    (s.bus.mem.wf → (finishEvent s).bus.mem.wf) ∧
    (∀ x, x < areaBase s ∨ areaBase s + 8192 ≤ x → (finishEvent s).bus.mem.read x = s.bus.mem.read x) ∧
    (∀ n, hasNotice s.reports.notice n = true → hasNotice (finishEvent s).reports.notice n = true) ∧
    ((s.reports.iv = true → s.reports.notice ≠ 0) →
      (finishEvent s).reports.iv = true → (finishEvent s).reports.notice ≠ 0) ∧
    (finishEvent s).reports.due = [] ∧ (finishEvent s).reports.announce = s.reports.announce := by
  have grown : ∀ {w v : BitVec 11}, (∀ n, hasNotice w n = true → hasNotice v n = true) → w ≠ 0 → v ≠ 0 := by
    intro w v h hw hv
    subst hv
    refine hw (BitVec.eq_of_getLsbD_eq fun i hi => ?_)
    have cover : ∀ i : Fin 11, ∃ n : Notice, n.bit = i.val := by
      intro i
      fin_cases i
      exacts [⟨.lane0Done, rfl⟩, ⟨.lane1Done, rfl⟩, ⟨.laneHalted, rfl⟩, ⟨.camera, rfl⟩, ⟨.soil, rfl⟩, ⟨.door, rfl⟩,
        ⟨.clear, rfl⟩, ⟨.cab, rfl⟩, ⟨.fault, rfl⟩, ⟨.reset, rfl⟩, ⟨.wake, rfl⟩]
    obtain ⟨n, hn⟩ := cover ⟨i, hi⟩
    have := h n
    simp only [hasNotice, hn] at this
    cases hb : w.getLsbD i
    · simp
    · simp [hb] at this
  unfold finishEvent
  dsimp only
  obtain ⟨a1, a2, a3, a4, a5, a6⟩ := writeRecords_spec (dueRecords s) s
  generalize hs1 : (dueRecords s).foldl (fun t r => writeRecord r t) s = s1 at *
  have hb1 : areaBase s1 = areaBase s := by rw [← hs1]; simp [areaBase]
  obtain ⟨b1, b2, b3, b4, b5, b6⟩ := writeRecord_spec .part s1
  have hs2 : ∀ s2, s2 = (if s1.reports.due.contains .part = true then writeRecord .part s1 else s1) →
      (s.bus.mem.wf → s2.bus.mem.wf) ∧
      (∀ x, x < areaBase s ∨ areaBase s + 8192 ≤ x → s2.bus.mem.read x = s.bus.mem.read x) ∧
      s2.reports.iv = s.reports.iv ∧ (∀ n, hasNotice s.reports.notice n = true → hasNotice s2.reports.notice n = true) ∧
      s2.reports.announce = s.reports.announce := by
    intro s2 h
    split at h
    · subst h
      have hp : Record.part.offset = 0 ∧ Record.part.size = 64 := ⟨rfl, rfl⟩
      refine ⟨fun h => b1 (a1 h), fun x hx => ?_, b3.trans a3, fun n h => b4 n (a4 n h), b6.trans a6⟩
      rw [b2 x (by omega), a2 x (by omega)]
    · subst h
      exact ⟨a1, a2, a3, a4, a6⟩
  obtain ⟨c1, c2, c3, c4, c5⟩ := hs2 _ rfl
  generalize (if s1.reports.due.contains .part = true then writeRecord .part s1 else s1) = s2 at *
  refine ⟨by simpa using c1, by simpa using c2, by simpa using c4, fun hiv => ?_, by simp, by simpa using c5⟩
  intro h
  rw [(settleIv_spec _).1] at h
  simp only [settleIv_reports_fields]
  rcases h with h | h
  · simp only [State.setReports_reports, c3] at h ⊢
    exact grown c4 (hiv h)
  · exact h.1

/-! ## The Report Writer while the link is quiet -/

/-- The write of one record while the link is quiet and reports flow: its edition goes up by one at both its ends, with its
contents between (R173). -/
theorem writeRecord_quiet {r : Record} {s : State} (hq : s.bus.fate = []) (hf : reportsFlow s = true) :
    writeRecord r s =
      { s with
        reports :=
          { s.reports with
            editions := s.reports.editions.set r.index (s.reports.editions[r.index] + 1), lastOverride := noteOverride s r }
        bus := { s.bus with mem := s.bus.mem.writeAll (recordWrites s r (s.reports.editions[r.index] + 1)) } } := by
  unfold writeRecord
  dsimp only
  rw [if_pos hf, (Bus.writeSealed_spec _ _).2.2.2.1 hq]
  rfl

theorem writeRecord_still {r : Record} {s : State} (hf : reportsFlow s = false) : writeRecord r s = s := by
  unfold writeRecord
  rw [if_neg (by simp [hf])]

/-- A record as it stands in the report region after its edition has gone up by one (R173). -/
def recordImage (s : State) (r : Record) : List Byte :=
  leBytes 2 (s.reports.editions[r.index] + 1).toNat ++ recordContents s r ++ leBytes 2 (s.reports.editions[r.index] + 1).toNat

theorem length_recordImage (s : State) (r : Record) : (recordImage s r).length = r.size := by
  have := length_recordContents s r
  simp [recordImage]; omega

/-- A run of bytes reads back as it was written, its length given. -/
theorem Memory.readBytes_write_of (m : Memory) (a : Nat) {n : Nat} {bs : List Byte} (h : bs.length = n) :
    (m.write a bs).readBytes a n = bs := by subst h; exact Memory.readBytes_write m a bs

/-- The three writes of a record leave its image in memory (R173). -/
theorem readBytes_recordWrites (s : State) (r : Record) (m : Memory) :
    (m.writeAll (recordWrites s r (s.reports.editions[r.index] + 1))).readBytes (areaBase s + r.offset) r.size =
      recordImage s r := by
  have hl := length_recordContents s r
  have he := length_leBytes 2 (s.reports.editions[r.index] + 1).toNat
  rw [show r.size = 2 + (recordContents s r).length + 2 by omega, Memory.readBytes_add, Memory.readBytes_add]
  simp only [recordWrites, Memory.writeAll, recordImage]
  congr 1
  · congr 1
    · rw [Memory.readBytes_write_outside (by omega), Memory.readBytes_write_outside (by omega),
        Memory.readBytes_write_of _ _ he]
    · rw [Memory.readBytes_write_outside (by omega), Memory.readBytes_write]
  · rw [show areaBase s + r.offset + (2 + (recordContents s r).length) = areaBase s + r.offset + r.size - 2 by omega,
      Memory.readBytes_write_of _ _ he]

theorem writeRecords_quiet (rs : List Record) (s : State) (hn : rs.Nodup) (hq : s.bus.fate = [])
    (hf : reportsFlow s = true) :
    ∃ eds last mem,
      rs.foldl (fun t r => writeRecord r t) s =
        { s with
          reports := { s.reports with editions := eds, lastOverride := last }
          bus := { s.bus with mem } } ∧
      (∀ r : Record, eds[r.index] =
        if r ∈ rs then s.reports.editions[r.index] + 1 else s.reports.editions[r.index]) ∧
      (∀ d : DisplayId, last[d] =
        if Record.display d ∈ rs then s.displays[d].startOverride else s.reports.lastOverride[d]) ∧
      (∀ r ∈ rs, mem.readBytes (areaBase s + r.offset) r.size = recordImage s r) ∧
      (∀ x, (∀ r ∈ rs, x < areaBase s + r.offset ∨ areaBase s + r.offset + r.size ≤ x) →
        mem.read x = s.bus.mem.read x) := by
  induction rs generalizing s with
  | nil => exact ⟨_, _, _, rfl, fun r => by simp, fun d => by simp, by simp, fun _ _ => rfl⟩
  | cons r rs ih =>
    obtain ⟨hr, hn⟩ := List.nodup_cons.mp hn
    have h1 := writeRecord_quiet hq hf (r := r)
    obtain ⟨eds, last, mem, e1, e2, e5, e3, e4⟩ := ih (writeRecord r s) hn (by rw [h1]; exact hq) (by rw [h1]; exact hf)
    have hb : areaBase (writeRecord r s) = areaBase s := by simp [areaBase]
    have ed : ∀ q : Record, (writeRecord r s).reports.editions[q.index] =
        if q = r then s.reports.editions[q.index] + 1 else s.reports.editions[q.index] := by
      intro q
      rw [h1]
      simp only [Fin.getElem_fin]
      rw [Vector.getElem_set]
      by_cases hqr : q = r
      · subst hqr; simp
      · have : ¬ r.index.val = q.index.val := fun e => hqr (Record.index_inj (Fin.ext e)).symm
        simp [hqr, this]
    have im : ∀ q ∈ rs, recordImage (writeRecord r s) q = recordImage s q := by
      intro q hq'
      have hne : ¬ q = r := fun e => hr (e ▸ hq')
      have hc : recordContents (writeRecord r s) q = recordContents s q := by rw [h1]; cases q <;> rfl
      simp only [recordImage, ed q, hc, if_neg hne]
    refine ⟨eds, last, mem, ?_, fun q => ?_, fun d => ?_, fun q hq' => ?_, fun x hx => ?_⟩
    · rw [List.foldl_cons, e1, h1]
    · rw [e2 q, ed q]
      by_cases hqr : q = r
      · subst hqr; simp [hr]
      · simp [hqr]
    · have lo : (writeRecord r s).reports.lastOverride[d] =
          if Record.display d = r then s.displays[d].startOverride else s.reports.lastOverride[d] := by
        rw [h1]
        cases r <;> simp only [noteOverride, reduceCtorEq, if_false, Record.display.injEq]
        rename_i k
        by_cases hk : d = k
        · subst hk; simp
        · have : ¬ k.val = d.val := fun e => hk (Fin.ext e).symm
          simp only [Fin.getElem_fin, if_neg hk]
          rw [Vector.getElem_set_ne _ _ this]
      rw [e5 d, lo]
      have hd : (writeRecord r s).displays = s.displays := by simp
      rw [hd]
      by_cases h1 : Record.display d ∈ rs
      · simp [h1]
      · by_cases h2 : Record.display d = r
        · simp [h2]
        · simp [h1, h2]
    · rcases List.mem_cons.mp hq' with rfl | hq'
      · rw [← readBytes_recordWrites s q s.bus.mem]
        apply Memory.readBytes_congr
        intro x hx1 hx2
        rw [e4 x, h1]
        intro p hp
        have := Record.apart (r := q) (q := p) (fun e => hr (e ▸ hp))
        rw [hb]; omega
      · rw [← im q hq', ← hb]; exact e3 q hq'
    · rw [e4 x (by rw [hb]; exact fun p hp => hx p (by simp [hp]))]
      exact (writeRecord_spec r s).2.1 x (hx r (by simp))

theorem mem_dueRecords (s : State) (r : Record) : r ∈ dueRecords s ↔ r ∈ s.reports.due ∧ r ≠ .part := by
  simp [dueRecords, mem_recordsBeforePart, and_comm]

theorem dueRecords_nodup (s : State) : (dueRecords s).Nodup := recordsBeforePart_nodup.filter _

/-- The end of an event while the link is quiet and reports flow: every due record stands in the report region with its
edition gone up, no other byte is changed, and the notices are those the event left (R172, R173, R175). -/
theorem finishEvent_quiet (s : State) (hq : s.bus.fate = []) (hf : reportsFlow s = true) :
    (finishEvent s).reports.notice = s.reports.notice ∧ (finishEvent s).reports.fault = s.reports.fault ∧
    (finishEvent s).reports.suspended = s.reports.suspended ∧ (finishEvent s).bus.fate = [] ∧
    ((finishEvent s).reports.iv = true ↔ s.reports.iv = true ∨ s.reports.notice ≠ 0) ∧
    (finishEvent s).bus.interrupts =
      s.bus.interrupts + (if s.reports.iv = false ∧ (finishEvent s).reports.iv = true then 1 else 0) ∧
    (∀ r : Record, (finishEvent s).reports.editions[r.index] =
      if r ∈ s.reports.due then s.reports.editions[r.index] + 1 else s.reports.editions[r.index]) ∧
    (∀ d : DisplayId, (finishEvent s).reports.lastOverride[d] =
      if Record.display d ∈ s.reports.due then s.displays[d].startOverride else s.reports.lastOverride[d]) ∧
    (∀ r ∈ s.reports.due, (finishEvent s).bus.mem.readBytes (areaBase s + r.offset) r.size = recordImage s r) ∧
    (∀ x, (∀ r ∈ s.reports.due, x < areaBase s + r.offset ∨ areaBase s + r.offset + r.size ≤ x) →
      (finishEvent s).bus.mem.read x = s.bus.mem.read x) := by
  have hperm : ∃ rs : List Record, rs.Nodup ∧ (∀ r, r ∈ rs ↔ r ∈ s.reports.due) ∧
      ((dueRecords s).foldl (fun t r => writeRecord r t) s).reports.due = s.reports.due ∧
      (if ((dueRecords s).foldl (fun t r => writeRecord r t) s).reports.due.contains .part = true then
        writeRecord .part ((dueRecords s).foldl (fun t r => writeRecord r t) s)
      else (dueRecords s).foldl (fun t r => writeRecord r t) s) = rs.foldl (fun t r => writeRecord r t) s := by
    obtain ⟨eds, last, mem, h1, -⟩ := writeRecords_quiet (dueRecords s) s (dueRecords_nodup s) hq hf
    have hd : ((dueRecords s).foldl (fun t r => writeRecord r t) s).reports.due = s.reports.due := by rw [h1]
    by_cases hp : Record.part ∈ s.reports.due
    · refine ⟨dueRecords s ++ [.part], ?_, fun r => ?_, hd, ?_⟩
      · rw [List.nodup_append]
        refine ⟨dueRecords_nodup s, by simp, fun r hr q hq' e => ?_⟩
        simp only [List.mem_singleton] at hq'
        exact ((mem_dueRecords s r).mp hr).2 (e.trans hq')
      · simp only [List.mem_append, mem_dueRecords, List.mem_singleton]
        constructor
        · rintro (h | rfl)
          exacts [h.1, hp]
        · intro h
          by_cases e : r = .part
          exacts [.inr e, .inl ⟨h, e⟩]
      · rw [hd, if_pos (by simpa using hp), List.foldl_append]; rfl
    · refine ⟨dueRecords s, dueRecords_nodup s, fun r => ?_, hd, ?_⟩
      · rw [mem_dueRecords]
        exact ⟨And.left, fun h => ⟨h, fun e => hp (e ▸ h)⟩⟩
      · rw [hd, if_neg (by simpa using hp)]
  obtain ⟨rs, hn, hm, -, he⟩ := hperm
  obtain ⟨eds, last, mem, h1, h2, h5, h3, h4⟩ := writeRecords_quiet rs s hn hq hf
  have hfin : finishEvent s = settleIv
      { s with
        reports := { s.reports with editions := eds, lastOverride := last, due := [] }
        bus := { s.bus with mem } } := by
    unfold finishEvent
    dsimp only
    rw [he, h1]
    rfl
  have hflow : reportsFlow { s with
        reports := { s.reports with editions := eds, lastOverride := last, due := [] }
        bus := { s.bus with mem } } = true := hf
  obtain ⟨i1, i2⟩ := settleIv_spec { s with
        reports := { s.reports with editions := eds, lastOverride := last, due := [] }
        bus := { s.bus with mem } }
  rw [hfin]
  refine ⟨by simp, by simp, by simp, by simpa using hq, ?_, i2, fun r => ?_, fun d => ?_, fun r hr => ?_, fun x hx => ?_⟩
  · rw [i1]; simp only [hflow, and_true]
  · simpa only [settleIv_reports_fields, hm] using h2 r
  · simpa only [settleIv_reports_fields, hm] using h5 d
  · simpa only [settleIv_reports_fields] using h3 r ((hm r).mpr hr)
  · simpa only [settleIv_reports_fields] using h4 x fun r hr => hx r ((hm r).mp hr)

/-- The end of an event while reports do not flow: nothing is written and nothing is sent (R172, R175). -/
theorem finishEvent_still (s : State) (hf : reportsFlow s = false) :
    finishEvent s = s.setReports { s.reports with due := [] } := by
  have hrs : ∀ rs : List Record, rs.foldl (fun t r => writeRecord r t) s = s := by
    intro rs
    induction rs with
    | nil => rfl
    | cons r rs ih => rw [List.foldl_cons, writeRecord_still hf, ih]
  have hf' : reportsFlow (s.setReports { s.reports with due := [] }) = false := hf
  unfold finishEvent
  dsimp only
  rw [hrs, writeRecord_still hf, ite_self]
  unfold settleIv
  rw [if_neg (by simp [hf'])]

end Sys2Proof.Machine
end

