-- ==== Sys2Proof/Laws/Capture.lean ====
section
/-! SUPPORT. What the operations of the Soil Monitor and of the camera ports leave. A lemma `_unseen` says that an observation blind to the fields an operation writes does not see the operation;
a lemma `_keeps` lists the fields it leaves. -/

namespace Sys2Proof.Machine

/-! ## The Soil Monitor -/

theorem updateSoil_unseen (p : PortId) (a : Bool) (m : Soil) (s : State) {α : Type} (f : State → α)
    (h : ∀ s o r, f { s with soil := o, reports := r } = f s) : f (updateSoil p a m s) = f s := by
  unfold updateSoil
  dsimp only
  split
  · rw [raise_unseen _ _ f (fun s r => h s s.soil r), mark_unseen _ _ f (fun s r => h s s.soil r)]; exact h s _ _
  · rw [mark_unseen _ _ f (fun s r => h s s.soil r)]; exact h s _ _

@[simp] theorem updateSoil_keeps (p : PortId) (a : Bool) (m : Soil) (s : State) :
    (updateSoil p a m s).clock = s.clock ∧ (updateSoil p a m s).ports = s.ports ∧
    (updateSoil p a m s).store = s.store ∧ (updateSoil p a m s).evalQueue = s.evalQueue ∧
    (updateSoil p a m s).layouts = s.layouts ∧ (updateSoil p a m s).displays = s.displays ∧
    (updateSoil p a m s).cab = s.cab ∧ (updateSoil p a m s).doors = s.doors ∧
    (updateSoil p a m s).debounce = s.debounce ∧ (updateSoil p a m s).stored = s.stored ∧
    (updateSoil p a m s).calling = s.calling ∧ (updateSoil p a m s).clear = s.clear ∧
    (updateSoil p a m s).mode = s.mode ∧ (updateSoil p a m s).wakeRecord = s.wakeRecord ∧
    (updateSoil p a m s).wakeCause = s.wakeCause ∧ (updateSoil p a m s).window = s.window ∧
    (updateSoil p a m s).lanes = s.lanes ∧ (updateSoil p a m s).mover = s.mover ∧
    (updateSoil p a m s).frameMem = s.frameMem ∧ (updateSoil p a m s).bus = s.bus ∧
    (updateSoil p a m s).pending = s.pending := by
  simpa only [Prod.mk.injEq] using updateSoil_unseen p a m s (fun s => (
    s.clock, s.ports, s.store, s.evalQueue, s.layouts, s.displays, s.cab, s.doors, s.debounce, s.stored, s.calling,
    s.clear, s.mode, s.wakeRecord, s.wakeCause, s.window, s.lanes, s.mover, s.frameMem, s.bus, s.pending)) fun _ _ _ => rfl

theorem abandonLearning_unseen (p : PortId) (s : State) {α : Type} (f : State → α)
    (h : ∀ s o r, f { s with soil := o, reports := r } = f s) : f (abandonLearning p s) = f s := by
  unfold abandonLearning
  dsimp only
  split
  · rfl
  · rw [updateSoil_unseen _ _ _ _ f (fun s o r => h s o r)]

@[simp] theorem abandonLearning_keeps (p : PortId) (s : State) :
    (abandonLearning p s).clock = s.clock ∧ (abandonLearning p s).ports = s.ports ∧
    (abandonLearning p s).store = s.store ∧ (abandonLearning p s).evalQueue = s.evalQueue ∧
    (abandonLearning p s).layouts = s.layouts ∧ (abandonLearning p s).displays = s.displays ∧
    (abandonLearning p s).cab = s.cab ∧ (abandonLearning p s).doors = s.doors ∧
    (abandonLearning p s).debounce = s.debounce ∧ (abandonLearning p s).stored = s.stored ∧
    (abandonLearning p s).calling = s.calling ∧ (abandonLearning p s).clear = s.clear ∧
    (abandonLearning p s).mode = s.mode ∧ (abandonLearning p s).wakeRecord = s.wakeRecord ∧
    (abandonLearning p s).wakeCause = s.wakeCause ∧ (abandonLearning p s).window = s.window ∧
    (abandonLearning p s).lanes = s.lanes ∧ (abandonLearning p s).mover = s.mover ∧
    (abandonLearning p s).frameMem = s.frameMem ∧ (abandonLearning p s).bus = s.bus ∧
    (abandonLearning p s).pending = s.pending := by
  simpa only [Prod.mk.injEq] using abandonLearning_unseen p s (fun s => (
    s.clock, s.ports, s.store, s.evalQueue, s.layouts, s.displays, s.cab, s.doors, s.debounce, s.stored, s.calling,
    s.clear, s.mode, s.wakeRecord, s.wakeCause, s.window, s.lanes, s.mover, s.frameMem, s.bus, s.pending)) fun _ _ _ => rfl

theorem learnSample_unseen (e : EvalEntry) (r : Learning) (s : State) {α : Type} (f : State → α)
    (h : ∀ s o r, f { s with soil := o, reports := r } = f s) : f (learnSample e r s) = f s := by
  unfold learnSample
  dsimp only
  split
  · rw [mark_unseen _ _ f (fun s r => h s s.soil r), updateSoil_unseen _ _ _ _ f (fun s o r => h s o r)]
  · rw [updateSoil_unseen _ _ _ _ f (fun s o r => h s o r)]

@[simp] theorem learnSample_keeps (e : EvalEntry) (r : Learning) (s : State) :
    (learnSample e r s).clock = s.clock ∧ (learnSample e r s).ports = s.ports ∧ (learnSample e r s).store = s.store ∧
    (learnSample e r s).evalQueue = s.evalQueue ∧ (learnSample e r s).layouts = s.layouts ∧
    (learnSample e r s).displays = s.displays ∧ (learnSample e r s).cab = s.cab ∧
    (learnSample e r s).doors = s.doors ∧ (learnSample e r s).debounce = s.debounce ∧
    (learnSample e r s).stored = s.stored ∧ (learnSample e r s).calling = s.calling ∧
    (learnSample e r s).clear = s.clear ∧ (learnSample e r s).mode = s.mode ∧
    (learnSample e r s).wakeRecord = s.wakeRecord ∧ (learnSample e r s).wakeCause = s.wakeCause ∧
    (learnSample e r s).window = s.window ∧ (learnSample e r s).lanes = s.lanes ∧
    (learnSample e r s).mover = s.mover ∧ (learnSample e r s).frameMem = s.frameMem ∧
    (learnSample e r s).bus = s.bus ∧ (learnSample e r s).pending = s.pending := by
  simpa only [Prod.mk.injEq] using learnSample_unseen e r s (fun s => (
    s.clock, s.ports, s.store, s.evalQueue, s.layouts, s.displays, s.cab, s.doors, s.debounce, s.stored, s.calling,
    s.clear, s.mode, s.wakeRecord, s.wakeCause, s.window, s.lanes, s.mover, s.frameMem, s.bus, s.pending)) fun _ _ _ => rfl

theorem evaluate_unseen (e : EvalEntry) (s : State) {α : Type} (f : State → α)
    (h : ∀ s o r, f { s with soil := o, reports := r } = f s) : f (evaluate e s) = f s := by
  unfold evaluate
  dsimp only
  split
  · exact h s _ _
  · rw [updateSoil_unseen _ _ _ _ f (fun s o r => h s o r)]

@[simp] theorem evaluate_keeps (e : EvalEntry) (s : State) :
    (evaluate e s).clock = s.clock ∧ (evaluate e s).ports = s.ports ∧ (evaluate e s).store = s.store ∧
    (evaluate e s).evalQueue = s.evalQueue ∧ (evaluate e s).layouts = s.layouts ∧
    (evaluate e s).displays = s.displays ∧ (evaluate e s).cab = s.cab ∧ (evaluate e s).doors = s.doors ∧
    (evaluate e s).debounce = s.debounce ∧ (evaluate e s).stored = s.stored ∧ (evaluate e s).calling = s.calling ∧
    (evaluate e s).clear = s.clear ∧ (evaluate e s).mode = s.mode ∧ (evaluate e s).wakeRecord = s.wakeRecord ∧
    (evaluate e s).wakeCause = s.wakeCause ∧ (evaluate e s).window = s.window ∧ (evaluate e s).lanes = s.lanes ∧
    (evaluate e s).mover = s.mover ∧ (evaluate e s).frameMem = s.frameMem ∧ (evaluate e s).bus = s.bus ∧
    (evaluate e s).pending = s.pending := by
  simpa only [Prod.mk.injEq] using evaluate_unseen e s (fun s => (
    s.clock, s.ports, s.store, s.evalQueue, s.layouts, s.displays, s.cab, s.doors, s.debounce, s.stored, s.calling,
    s.clear, s.mode, s.wakeRecord, s.wakeCause, s.window, s.lanes, s.mover, s.frameMem, s.bus, s.pending)) fun _ _ _ => rfl

theorem serveEntry_unseen (e : EvalEntry) (s : State) {α : Type} (f : State → α)
    (h : ∀ s o r, f { s with soil := o, reports := r } = f s) : f (serveEntry e s) = f s := by
  unfold serveEntry
  dsimp only
  split
  · rw [evaluate_unseen _ _ f (fun s o r => h s o r)]
  · split
    · rw [learnSample_unseen _ _ _ f (fun s o r => h s o r)]
    · rfl

@[simp] theorem serveEntry_keeps (e : EvalEntry) (s : State) :
    (serveEntry e s).clock = s.clock ∧ (serveEntry e s).ports = s.ports ∧ (serveEntry e s).store = s.store ∧
    (serveEntry e s).evalQueue = s.evalQueue ∧ (serveEntry e s).layouts = s.layouts ∧
    (serveEntry e s).displays = s.displays ∧ (serveEntry e s).cab = s.cab ∧ (serveEntry e s).doors = s.doors ∧
    (serveEntry e s).debounce = s.debounce ∧ (serveEntry e s).stored = s.stored ∧
    (serveEntry e s).calling = s.calling ∧ (serveEntry e s).clear = s.clear ∧ (serveEntry e s).mode = s.mode ∧
    (serveEntry e s).wakeRecord = s.wakeRecord ∧ (serveEntry e s).wakeCause = s.wakeCause ∧
    (serveEntry e s).window = s.window ∧ (serveEntry e s).lanes = s.lanes ∧ (serveEntry e s).mover = s.mover ∧
    (serveEntry e s).frameMem = s.frameMem ∧ (serveEntry e s).bus = s.bus ∧ (serveEntry e s).pending = s.pending := by
  simpa only [Prod.mk.injEq] using serveEntry_unseen e s (fun s => (
    s.clock, s.ports, s.store, s.evalQueue, s.layouts, s.displays, s.cab, s.doors, s.debounce, s.stored, s.calling,
    s.clear, s.mode, s.wakeRecord, s.wakeCause, s.window, s.lanes, s.mover, s.frameMem, s.bus, s.pending)) fun _ _ _ => rfl

theorem discardReference_unseen (p : PortId) (s : State) {α : Type} (f : State → α)
    (h : ∀ s o r, f { s with soil := o, reports := r } = f s) : f (discardReference p s) = f s := by
  unfold discardReference
  dsimp only
  rw [mark_unseen _ _ f (fun s r => h s s.soil r), updateSoil_unseen _ _ _ _ f (fun s o r => h s o r)]

@[simp] theorem discardReference_keeps (p : PortId) (s : State) :
    (discardReference p s).clock = s.clock ∧ (discardReference p s).ports = s.ports ∧
    (discardReference p s).store = s.store ∧ (discardReference p s).evalQueue = s.evalQueue ∧
    (discardReference p s).layouts = s.layouts ∧ (discardReference p s).displays = s.displays ∧
    (discardReference p s).cab = s.cab ∧ (discardReference p s).doors = s.doors ∧
    (discardReference p s).debounce = s.debounce ∧ (discardReference p s).stored = s.stored ∧
    (discardReference p s).calling = s.calling ∧ (discardReference p s).clear = s.clear ∧
    (discardReference p s).mode = s.mode ∧ (discardReference p s).wakeRecord = s.wakeRecord ∧
    (discardReference p s).wakeCause = s.wakeCause ∧ (discardReference p s).window = s.window ∧
    (discardReference p s).lanes = s.lanes ∧ (discardReference p s).mover = s.mover ∧
    (discardReference p s).frameMem = s.frameMem ∧ (discardReference p s).bus = s.bus ∧
    (discardReference p s).pending = s.pending := by
  simpa only [Prod.mk.injEq] using discardReference_unseen p s (fun s => (
    s.clock, s.ports, s.store, s.evalQueue, s.layouts, s.displays, s.cab, s.doors, s.debounce, s.stored, s.calling,
    s.clear, s.mode, s.wakeRecord, s.wakeCause, s.window, s.lanes, s.mover, s.frameMem, s.bus, s.pending)) fun _ _ _ => rfl

theorem soilClose_unseen (p : PortId) (c d : Bool) (t : Stamp) (v : Vector CellSums 48) (s : State) {α : Type} (f : State → α)
    (h : ∀ s o e r, f { s with soil := o, evalQueue := e, reports := r } = f s) : f (soilClose p c d t v s) = f s := by
  unfold soilClose
  dsimp only
  split
  · rfl
  split
  · exact h s _ _ _
  split
  · exact h s _ _ _
  · rw [mark_unseen _ _ f (fun s r => h s s.soil s.evalQueue r)]; exact h s _ _ _

@[simp] theorem soilClose_keeps (p : PortId) (c d : Bool) (t : Stamp) (v : Vector CellSums 48) (s : State) :
    (soilClose p c d t v s).clock = s.clock ∧ (soilClose p c d t v s).ports = s.ports ∧
    (soilClose p c d t v s).store = s.store ∧ (soilClose p c d t v s).layouts = s.layouts ∧
    (soilClose p c d t v s).displays = s.displays ∧ (soilClose p c d t v s).cab = s.cab ∧
    (soilClose p c d t v s).doors = s.doors ∧ (soilClose p c d t v s).debounce = s.debounce ∧
    (soilClose p c d t v s).stored = s.stored ∧ (soilClose p c d t v s).calling = s.calling ∧
    (soilClose p c d t v s).clear = s.clear ∧ (soilClose p c d t v s).mode = s.mode ∧
    (soilClose p c d t v s).wakeRecord = s.wakeRecord ∧ (soilClose p c d t v s).wakeCause = s.wakeCause ∧
    (soilClose p c d t v s).window = s.window ∧ (soilClose p c d t v s).lanes = s.lanes ∧
    (soilClose p c d t v s).mover = s.mover ∧ (soilClose p c d t v s).frameMem = s.frameMem ∧
    (soilClose p c d t v s).bus = s.bus ∧ (soilClose p c d t v s).pending = s.pending := by
  simpa only [Prod.mk.injEq] using soilClose_unseen p c d t v s (fun s => (
    s.clock, s.ports, s.store, s.layouts, s.displays, s.cab, s.doors, s.debounce, s.stored, s.calling, s.clear,
    s.mode, s.wakeRecord, s.wakeCause, s.window, s.lanes, s.mover, s.frameMem, s.bus, s.pending)) fun _ _ _ _ => rfl

/-! ## Camera ports -/

theorem announceCamera_unseen (p : PortId) (s : State) {α : Type} (f : State → α)
    (h : ∀ s r, f { s with reports := r } = f s) : f (announceCamera p s) = f s := by
  rw [announceCamera, raise_unseen _ _ f (fun s r => h s r), mark_unseen _ _ f (fun s r => h s r)]

@[simp] theorem announceCamera_keeps (p : PortId) (s : State) :
    (announceCamera p s).clock = s.clock ∧ (announceCamera p s).ports = s.ports ∧
    (announceCamera p s).store = s.store ∧ (announceCamera p s).soil = s.soil ∧
    (announceCamera p s).evalQueue = s.evalQueue ∧ (announceCamera p s).layouts = s.layouts ∧
    (announceCamera p s).displays = s.displays ∧ (announceCamera p s).cab = s.cab ∧
    (announceCamera p s).doors = s.doors ∧ (announceCamera p s).debounce = s.debounce ∧
    (announceCamera p s).stored = s.stored ∧ (announceCamera p s).calling = s.calling ∧
    (announceCamera p s).clear = s.clear ∧ (announceCamera p s).mode = s.mode ∧
    (announceCamera p s).wakeRecord = s.wakeRecord ∧ (announceCamera p s).wakeCause = s.wakeCause ∧
    (announceCamera p s).window = s.window ∧ (announceCamera p s).lanes = s.lanes ∧
    (announceCamera p s).mover = s.mover ∧ (announceCamera p s).frameMem = s.frameMem ∧
    (announceCamera p s).bus = s.bus ∧ (announceCamera p s).pending = s.pending := by
  simpa only [Prod.mk.injEq] using announceCamera_unseen p s (fun s => (
    s.clock, s.ports, s.store, s.soil, s.evalQueue, s.layouts, s.displays, s.cab, s.doors, s.debounce, s.stored,
    s.calling, s.clear, s.mode, s.wakeRecord, s.wakeCause, s.window, s.lanes, s.mover, s.frameMem, s.bus, s.pending)) fun _ _ => rfl

theorem discardFrame_unseen (p : PortId) (s : State) {α : Type} (f : State → α)
    (h : ∀ s p q, f { s with ports := p, store := q } = f s) : f (discardFrame p s) = f s := by
  unfold discardFrame
  dsimp only
  split <;> exact h s _ _

@[simp] theorem discardFrame_keeps (p : PortId) (s : State) :
    (discardFrame p s).clock = s.clock ∧ (discardFrame p s).soil = s.soil ∧
    (discardFrame p s).evalQueue = s.evalQueue ∧ (discardFrame p s).layouts = s.layouts ∧
    (discardFrame p s).displays = s.displays ∧ (discardFrame p s).cab = s.cab ∧ (discardFrame p s).doors = s.doors ∧
    (discardFrame p s).debounce = s.debounce ∧ (discardFrame p s).stored = s.stored ∧
    (discardFrame p s).calling = s.calling ∧ (discardFrame p s).clear = s.clear ∧ (discardFrame p s).mode = s.mode ∧
    (discardFrame p s).wakeRecord = s.wakeRecord ∧ (discardFrame p s).wakeCause = s.wakeCause ∧
    (discardFrame p s).window = s.window ∧ (discardFrame p s).lanes = s.lanes ∧ (discardFrame p s).mover = s.mover ∧
    (discardFrame p s).reports = s.reports ∧ (discardFrame p s).frameMem = s.frameMem ∧
    (discardFrame p s).bus = s.bus ∧ (discardFrame p s).pending = s.pending := by
  simpa only [Prod.mk.injEq] using discardFrame_unseen p s (fun s => (
    s.clock, s.soil, s.evalQueue, s.layouts, s.displays, s.cab, s.doors, s.debounce, s.stored, s.calling, s.clear,
    s.mode, s.wakeRecord, s.wakeCause, s.window, s.lanes, s.mover, s.reports, s.frameMem, s.bus, s.pending)) fun _ _ _ => rfl

theorem abortFrame_unseen (p : PortId) (s : State) {α : Type} (f : State → α)
    (h : ∀ s p q r, f { s with ports := p, store := q, reports := r } = f s) : f (abortFrame p s) = f s := by
  unfold abortFrame
  split
  · rfl
  · dsimp only
    rw [mark_unseen _ _ f (fun s r => h s s.ports s.store r)]
    exact (h (discardFrame p s) _ _ _).trans (discardFrame_unseen _ _ f (fun s p q => h s p q s.reports))

@[simp] theorem abortFrame_keeps (p : PortId) (s : State) :
    (abortFrame p s).clock = s.clock ∧ (abortFrame p s).soil = s.soil ∧ (abortFrame p s).evalQueue = s.evalQueue ∧
    (abortFrame p s).layouts = s.layouts ∧ (abortFrame p s).displays = s.displays ∧ (abortFrame p s).cab = s.cab ∧
    (abortFrame p s).doors = s.doors ∧ (abortFrame p s).debounce = s.debounce ∧ (abortFrame p s).stored = s.stored ∧
    (abortFrame p s).calling = s.calling ∧ (abortFrame p s).clear = s.clear ∧ (abortFrame p s).mode = s.mode ∧
    (abortFrame p s).wakeRecord = s.wakeRecord ∧ (abortFrame p s).wakeCause = s.wakeCause ∧
    (abortFrame p s).window = s.window ∧ (abortFrame p s).lanes = s.lanes ∧ (abortFrame p s).mover = s.mover ∧
    (abortFrame p s).frameMem = s.frameMem ∧ (abortFrame p s).bus = s.bus ∧ (abortFrame p s).pending = s.pending := by
  simpa only [Prod.mk.injEq] using abortFrame_unseen p s (fun s => (
    s.clock, s.soil, s.evalQueue, s.layouts, s.displays, s.cab, s.doors, s.debounce, s.stored, s.calling, s.clear,
    s.mode, s.wakeRecord, s.wakeCause, s.window, s.lanes, s.mover, s.frameMem, s.bus, s.pending)) fun _ _ _ _ => rfl

theorem stopPort_unseen (p : PortId) (s : State) {α : Type} (f : State → α)
    (h : ∀ s p q o e, f { s with ports := p, store := q, soil := o, evalQueue := e } = f s) : f (stopPort p s) = f s := by
  unfold stopPort
  dsimp only
  exact (h (discardFrame p s) _ _ _ _).trans (discardFrame_unseen _ _ f (fun s p q => h s p q s.soil s.evalQueue))

@[simp] theorem stopPort_keeps (p : PortId) (s : State) :
    (stopPort p s).clock = s.clock ∧ (stopPort p s).layouts = s.layouts ∧ (stopPort p s).displays = s.displays ∧
    (stopPort p s).cab = s.cab ∧ (stopPort p s).doors = s.doors ∧ (stopPort p s).debounce = s.debounce ∧
    (stopPort p s).stored = s.stored ∧ (stopPort p s).calling = s.calling ∧ (stopPort p s).clear = s.clear ∧
    (stopPort p s).mode = s.mode ∧ (stopPort p s).wakeRecord = s.wakeRecord ∧ (stopPort p s).wakeCause = s.wakeCause ∧
    (stopPort p s).window = s.window ∧ (stopPort p s).lanes = s.lanes ∧ (stopPort p s).mover = s.mover ∧
    (stopPort p s).reports = s.reports ∧ (stopPort p s).frameMem = s.frameMem ∧ (stopPort p s).bus = s.bus ∧
    (stopPort p s).pending = s.pending := by
  simpa only [Prod.mk.injEq] using stopPort_unseen p s (fun s => (
    s.clock, s.layouts, s.displays, s.cab, s.doors, s.debounce, s.stored, s.calling, s.clear, s.mode, s.wakeRecord,
    s.wakeCause, s.window, s.lanes, s.mover, s.reports, s.frameMem, s.bus, s.pending)) fun _ _ _ _ _ => rfl

theorem parkPort_unseen (p : PortId) (s : State) {α : Type} (f : State → α)
    (h : ∀ s p q o e r, f { s with ports := p, store := q, soil := o, evalQueue := e, reports := r } = f s) : f (parkPort p s) = f s := by
  unfold parkPort
  dsimp only
  rw [announceCamera_unseen _ _ f (fun s r => h s s.ports s.store s.soil s.evalQueue r), abandonLearning_unseen _ _ f (fun s o r => h s s.ports s.store o s.evalQueue r)]
  exact (h (stopPort p s) _ _ _ _ _).trans (stopPort_unseen _ _ f (fun s p q o e => h s p q o e s.reports))

@[simp] theorem parkPort_keeps (p : PortId) (s : State) :
    (parkPort p s).clock = s.clock ∧ (parkPort p s).layouts = s.layouts ∧ (parkPort p s).displays = s.displays ∧
    (parkPort p s).cab = s.cab ∧ (parkPort p s).doors = s.doors ∧ (parkPort p s).debounce = s.debounce ∧
    (parkPort p s).stored = s.stored ∧ (parkPort p s).calling = s.calling ∧ (parkPort p s).clear = s.clear ∧
    (parkPort p s).mode = s.mode ∧ (parkPort p s).wakeRecord = s.wakeRecord ∧ (parkPort p s).wakeCause = s.wakeCause ∧
    (parkPort p s).window = s.window ∧ (parkPort p s).lanes = s.lanes ∧ (parkPort p s).mover = s.mover ∧
    (parkPort p s).frameMem = s.frameMem ∧ (parkPort p s).bus = s.bus ∧ (parkPort p s).pending = s.pending := by
  simpa only [Prod.mk.injEq] using parkPort_unseen p s (fun s => (
    s.clock, s.layouts, s.displays, s.cab, s.doors, s.debounce, s.stored, s.calling, s.clear, s.mode, s.wakeRecord,
    s.wakeCause, s.window, s.lanes, s.mover, s.frameMem, s.bus, s.pending)) fun _ _ _ _ _ _ => rfl

theorem seekPort_unseen (p : PortId) (s : State) {α : Type} (f : State → α)
    (h : ∀ s p r, f { s with ports := p, reports := r } = f s) : f (seekPort p s) = f s := by
  rw [seekPort, announceCamera_unseen _ _ f (fun s r => h s s.ports r)]; exact h s _ _

@[simp] theorem seekPort_keeps (p : PortId) (s : State) :
    (seekPort p s).clock = s.clock ∧ (seekPort p s).store = s.store ∧ (seekPort p s).soil = s.soil ∧
    (seekPort p s).evalQueue = s.evalQueue ∧ (seekPort p s).layouts = s.layouts ∧
    (seekPort p s).displays = s.displays ∧ (seekPort p s).cab = s.cab ∧ (seekPort p s).doors = s.doors ∧
    (seekPort p s).debounce = s.debounce ∧ (seekPort p s).stored = s.stored ∧ (seekPort p s).calling = s.calling ∧
    (seekPort p s).clear = s.clear ∧ (seekPort p s).mode = s.mode ∧ (seekPort p s).wakeRecord = s.wakeRecord ∧
    (seekPort p s).wakeCause = s.wakeCause ∧ (seekPort p s).window = s.window ∧ (seekPort p s).lanes = s.lanes ∧
    (seekPort p s).mover = s.mover ∧ (seekPort p s).frameMem = s.frameMem ∧ (seekPort p s).bus = s.bus ∧
    (seekPort p s).pending = s.pending := by
  simpa only [Prod.mk.injEq] using seekPort_unseen p s (fun s => (
    s.clock, s.store, s.soil, s.evalQueue, s.layouts, s.displays, s.cab, s.doors, s.debounce, s.stored, s.calling,
    s.clear, s.mode, s.wakeRecord, s.wakeCause, s.window, s.lanes, s.mover, s.frameMem, s.bus, s.pending)) fun _ _ _ => rfl

theorem restartPort_unseen (p : PortId) (s : State) {α : Type} (f : State → α)
    (h : ∀ s p q o e r, f { s with ports := p, store := q, soil := o, evalQueue := e, reports := r } = f s) : f (restartPort p s) = f s := by
  unfold restartPort
  dsimp only
  rw [announceCamera_unseen _ _ f (fun s r => h s s.ports s.store s.soil s.evalQueue r)]
  exact (h (stopPort p s) _ _ _ _ _).trans (stopPort_unseen _ _ f (fun s p q o e => h s p q o e s.reports))

@[simp] theorem restartPort_keeps (p : PortId) (s : State) :
    (restartPort p s).clock = s.clock ∧ (restartPort p s).layouts = s.layouts ∧
    (restartPort p s).displays = s.displays ∧ (restartPort p s).cab = s.cab ∧ (restartPort p s).doors = s.doors ∧
    (restartPort p s).debounce = s.debounce ∧ (restartPort p s).stored = s.stored ∧
    (restartPort p s).calling = s.calling ∧ (restartPort p s).clear = s.clear ∧ (restartPort p s).mode = s.mode ∧
    (restartPort p s).wakeRecord = s.wakeRecord ∧ (restartPort p s).wakeCause = s.wakeCause ∧
    (restartPort p s).window = s.window ∧ (restartPort p s).lanes = s.lanes ∧ (restartPort p s).mover = s.mover ∧
    (restartPort p s).frameMem = s.frameMem ∧ (restartPort p s).bus = s.bus ∧
    (restartPort p s).pending = s.pending := by
  simpa only [Prod.mk.injEq] using restartPort_unseen p s (fun s => (
    s.clock, s.layouts, s.displays, s.cab, s.doors, s.debounce, s.stored, s.calling, s.clear, s.mode, s.wakeRecord,
    s.wakeCause, s.window, s.lanes, s.mover, s.frameMem, s.bus, s.pending)) fun _ _ _ _ _ _ => rfl

theorem storeLine_unseen (p : PortId) (g : FrameInProgress) (v : List Byte) (s : State) {α : Type} (f : State → α)
    (h : ∀ s p j, f { s with ports := p, frameMem := j } = f s) : f (storeLine p g v s) = f s := by
  exact h s _ _

@[simp] theorem storeLine_keeps (p : PortId) (g : FrameInProgress) (v : List Byte) (s : State) :
    (storeLine p g v s).clock = s.clock ∧ (storeLine p g v s).store = s.store ∧ (storeLine p g v s).soil = s.soil ∧
    (storeLine p g v s).evalQueue = s.evalQueue ∧ (storeLine p g v s).layouts = s.layouts ∧
    (storeLine p g v s).displays = s.displays ∧ (storeLine p g v s).cab = s.cab ∧
    (storeLine p g v s).doors = s.doors ∧ (storeLine p g v s).debounce = s.debounce ∧
    (storeLine p g v s).stored = s.stored ∧ (storeLine p g v s).calling = s.calling ∧
    (storeLine p g v s).clear = s.clear ∧ (storeLine p g v s).mode = s.mode ∧
    (storeLine p g v s).wakeRecord = s.wakeRecord ∧ (storeLine p g v s).wakeCause = s.wakeCause ∧
    (storeLine p g v s).window = s.window ∧ (storeLine p g v s).lanes = s.lanes ∧
    (storeLine p g v s).mover = s.mover ∧ (storeLine p g v s).reports = s.reports ∧ (storeLine p g v s).bus = s.bus ∧
    (storeLine p g v s).pending = s.pending := by
  simpa only [Prod.mk.injEq] using storeLine_unseen p g v s (fun s => (
    s.clock, s.store, s.soil, s.evalQueue, s.layouts, s.displays, s.cab, s.doors, s.debounce, s.stored, s.calling,
    s.clear, s.mode, s.wakeRecord, s.wakeCause, s.window, s.lanes, s.mover, s.reports, s.bus, s.pending)) fun _ _ _ => rfl

theorem patchLine_unseen (p : PortId) (s : State) {α : Type} (f : State → α)
    (h : ∀ s p j, f { s with ports := p, frameMem := j } = f s) : f (patchLine p s) = f s := by
  unfold patchLine
  split
  · rfl
  · dsimp only
    exact (h (storeLine p _ _ s) _ _).trans (storeLine_unseen _ _ _ _ f (fun s p j => h s p j))

@[simp] theorem patchLine_keeps (p : PortId) (s : State) :
    (patchLine p s).clock = s.clock ∧ (patchLine p s).store = s.store ∧ (patchLine p s).soil = s.soil ∧
    (patchLine p s).evalQueue = s.evalQueue ∧ (patchLine p s).layouts = s.layouts ∧
    (patchLine p s).displays = s.displays ∧ (patchLine p s).cab = s.cab ∧ (patchLine p s).doors = s.doors ∧
    (patchLine p s).debounce = s.debounce ∧ (patchLine p s).stored = s.stored ∧ (patchLine p s).calling = s.calling ∧
    (patchLine p s).clear = s.clear ∧ (patchLine p s).mode = s.mode ∧ (patchLine p s).wakeRecord = s.wakeRecord ∧
    (patchLine p s).wakeCause = s.wakeCause ∧ (patchLine p s).window = s.window ∧ (patchLine p s).lanes = s.lanes ∧
    (patchLine p s).mover = s.mover ∧ (patchLine p s).reports = s.reports ∧ (patchLine p s).bus = s.bus ∧
    (patchLine p s).pending = s.pending := by
  simpa only [Prod.mk.injEq] using patchLine_unseen p s (fun s => (
    s.clock, s.store, s.soil, s.evalQueue, s.layouts, s.displays, s.cab, s.doors, s.debounce, s.stored, s.calling,
    s.clear, s.mode, s.wakeRecord, s.wakeCause, s.window, s.lanes, s.mover, s.reports, s.bus, s.pending)) fun _ _ _ => rfl

theorem patchLines_unseen (p : PortId) (n : Nat) (s : State) {α : Type} (f : State → α)
    (h : ∀ s p j, f { s with ports := p, frameMem := j } = f s) : f (patchLines p n s) = f s := by
  induction n generalizing s with
  | zero => rfl
  | succ n ih =>
    show f (patchLines p n (patchLine p s)) = f s
    rw [ih, patchLine_unseen _ _ f h]

@[simp] theorem patchLines_keeps (p : PortId) (n : Nat) (s : State) :
    (patchLines p n s).clock = s.clock ∧ (patchLines p n s).store = s.store ∧ (patchLines p n s).soil = s.soil ∧
    (patchLines p n s).evalQueue = s.evalQueue ∧ (patchLines p n s).layouts = s.layouts ∧
    (patchLines p n s).displays = s.displays ∧ (patchLines p n s).cab = s.cab ∧ (patchLines p n s).doors = s.doors ∧
    (patchLines p n s).debounce = s.debounce ∧ (patchLines p n s).stored = s.stored ∧
    (patchLines p n s).calling = s.calling ∧ (patchLines p n s).clear = s.clear ∧ (patchLines p n s).mode = s.mode ∧
    (patchLines p n s).wakeRecord = s.wakeRecord ∧ (patchLines p n s).wakeCause = s.wakeCause ∧
    (patchLines p n s).window = s.window ∧ (patchLines p n s).lanes = s.lanes ∧ (patchLines p n s).mover = s.mover ∧
    (patchLines p n s).reports = s.reports ∧ (patchLines p n s).bus = s.bus ∧
    (patchLines p n s).pending = s.pending := by
  simpa only [Prod.mk.injEq] using patchLines_unseen p n s (fun s => (
    s.clock, s.store, s.soil, s.evalQueue, s.layouts, s.displays, s.cab, s.doors, s.debounce, s.stored, s.calling,
    s.clear, s.mode, s.wakeRecord, s.wakeCause, s.window, s.lanes, s.mover, s.reports, s.bus, s.pending)) fun _ _ _ => rfl

theorem takeLine_unseen (p : PortId) (g : FrameInProgress) (n : Nat) (v : List Byte) (k : Half) (s : State) {α : Type} (f : State → α)
    (h : ∀ s p r j, f { s with ports := p, reports := r, frameMem := j } = f s) : f (takeLine p g n v k s) = f s := by
  unfold takeLine
  dsimp only
  split
  · rw [mark_unseen _ _ f (fun s r => h s s.ports r s.frameMem)]; exact h s _ _ _
  · split
    · rw [patchLines_unseen _ _ _ f (fun s p j => h s p s.reports j)]
    · split
      · rw [storeLine_unseen _ _ _ _ f (fun s p j => h s p s.reports j), patchLines_unseen _ _ _ f (fun s p j => h s p s.reports j)]
      · rw [patchLine_unseen _ _ f (fun s p j => h s p s.reports j), patchLines_unseen _ _ _ f (fun s p j => h s p s.reports j)]

@[simp] theorem takeLine_keeps (p : PortId) (g : FrameInProgress) (n : Nat) (v : List Byte) (k : Half) (s : State) :
    (takeLine p g n v k s).clock = s.clock ∧ (takeLine p g n v k s).store = s.store ∧
    (takeLine p g n v k s).soil = s.soil ∧ (takeLine p g n v k s).evalQueue = s.evalQueue ∧
    (takeLine p g n v k s).layouts = s.layouts ∧ (takeLine p g n v k s).displays = s.displays ∧
    (takeLine p g n v k s).cab = s.cab ∧ (takeLine p g n v k s).doors = s.doors ∧
    (takeLine p g n v k s).debounce = s.debounce ∧ (takeLine p g n v k s).stored = s.stored ∧
    (takeLine p g n v k s).calling = s.calling ∧ (takeLine p g n v k s).clear = s.clear ∧
    (takeLine p g n v k s).mode = s.mode ∧ (takeLine p g n v k s).wakeRecord = s.wakeRecord ∧
    (takeLine p g n v k s).wakeCause = s.wakeCause ∧ (takeLine p g n v k s).window = s.window ∧
    (takeLine p g n v k s).lanes = s.lanes ∧ (takeLine p g n v k s).mover = s.mover ∧
    (takeLine p g n v k s).bus = s.bus ∧ (takeLine p g n v k s).pending = s.pending := by
  simpa only [Prod.mk.injEq] using takeLine_unseen p g n v k s (fun s => (
    s.clock, s.store, s.soil, s.evalQueue, s.layouts, s.displays, s.cab, s.doors, s.debounce, s.stored, s.calling,
    s.clear, s.mode, s.wakeRecord, s.wakeCause, s.window, s.lanes, s.mover, s.bus, s.pending)) fun _ _ _ _ => rfl

theorem closeBad_unseen (p : PortId) (g : FrameInProgress) (s : State) {α : Type} (f : State → α)
    (h : ∀ s p q r, f { s with ports := p, store := q, reports := r } = f s) : f (closeBad p g s) = f s := by
  unfold closeBad
  dsimp only
  rw [mark_unseen _ _ f (fun s r => h s s.ports s.store r)]; exact h s _ _ _

@[simp] theorem closeBad_keeps (p : PortId) (g : FrameInProgress) (s : State) :
    (closeBad p g s).clock = s.clock ∧ (closeBad p g s).soil = s.soil ∧ (closeBad p g s).evalQueue = s.evalQueue ∧
    (closeBad p g s).layouts = s.layouts ∧ (closeBad p g s).displays = s.displays ∧ (closeBad p g s).cab = s.cab ∧
    (closeBad p g s).doors = s.doors ∧ (closeBad p g s).debounce = s.debounce ∧ (closeBad p g s).stored = s.stored ∧
    (closeBad p g s).calling = s.calling ∧ (closeBad p g s).clear = s.clear ∧ (closeBad p g s).mode = s.mode ∧
    (closeBad p g s).wakeRecord = s.wakeRecord ∧ (closeBad p g s).wakeCause = s.wakeCause ∧
    (closeBad p g s).window = s.window ∧ (closeBad p g s).lanes = s.lanes ∧ (closeBad p g s).mover = s.mover ∧
    (closeBad p g s).frameMem = s.frameMem ∧ (closeBad p g s).bus = s.bus ∧ (closeBad p g s).pending = s.pending := by
  simpa only [Prod.mk.injEq] using closeBad_unseen p g s (fun s => (
    s.clock, s.soil, s.evalQueue, s.layouts, s.displays, s.cab, s.doors, s.debounce, s.stored, s.calling, s.clear,
    s.mode, s.wakeRecord, s.wakeCause, s.window, s.lanes, s.mover, s.frameMem, s.bus, s.pending)) fun _ _ _ _ => rfl

theorem closeGood_unseen (p : PortId) (g : FrameInProgress) (s : State) {α : Type} (f : State → α)
    (h : ∀ s p q o e r, f { s with ports := p, store := q, soil := o, evalQueue := e, reports := r } = f s) : f (closeGood p g s) = f s := by
  unfold closeGood
  dsimp only
  split
  · exact (h (soilClose p _ _ _ _ s) _ _ _ _ _).trans (soilClose_unseen _ _ _ _ _ _ f (fun s o e r => h s s.ports s.store o e r))
  · rw [announceCamera_unseen _ _ f (fun s r => h s s.ports s.store s.soil s.evalQueue r)]
    exact (h (soilClose p _ _ _ _ s) _ _ _ _ _).trans (soilClose_unseen _ _ _ _ _ _ f (fun s o e r => h s s.ports s.store o e r))

@[simp] theorem closeGood_keeps (p : PortId) (g : FrameInProgress) (s : State) :
    (closeGood p g s).clock = s.clock ∧ (closeGood p g s).layouts = s.layouts ∧
    (closeGood p g s).displays = s.displays ∧ (closeGood p g s).cab = s.cab ∧ (closeGood p g s).doors = s.doors ∧
    (closeGood p g s).debounce = s.debounce ∧ (closeGood p g s).stored = s.stored ∧
    (closeGood p g s).calling = s.calling ∧ (closeGood p g s).clear = s.clear ∧ (closeGood p g s).mode = s.mode ∧
    (closeGood p g s).wakeRecord = s.wakeRecord ∧ (closeGood p g s).wakeCause = s.wakeCause ∧
    (closeGood p g s).window = s.window ∧ (closeGood p g s).lanes = s.lanes ∧ (closeGood p g s).mover = s.mover ∧
    (closeGood p g s).frameMem = s.frameMem ∧ (closeGood p g s).bus = s.bus ∧
    (closeGood p g s).pending = s.pending := by
  simpa only [Prod.mk.injEq] using closeGood_unseen p g s (fun s => (
    s.clock, s.layouts, s.displays, s.cab, s.doors, s.debounce, s.stored, s.calling, s.clear, s.mode, s.wakeRecord,
    s.wakeCause, s.window, s.lanes, s.mover, s.frameMem, s.bus, s.pending)) fun _ _ _ _ _ _ => rfl

theorem takeClose_unseen (p : PortId) (g : FrameInProgress) (n : Half) (s : State) {α : Type} (f : State → α)
    (h : ∀ s p q o e r j, f { s with ports := p, store := q, soil := o, evalQueue := e, reports := r, frameMem := j } = f s) : f (takeClose p g n s) = f s := by
  unfold takeClose
  dsimp only
  split
  · rw [patchLines_unseen _ _ _ f (fun s p j => h s p s.store s.soil s.evalQueue s.reports j)]
  · split
    · rw [closeGood_unseen _ _ _ f (fun s p q o e r => h s p q o e r s.frameMem), patchLines_unseen _ _ _ f (fun s p j => h s p s.store s.soil s.evalQueue s.reports j)]
    · rw [closeBad_unseen _ _ _ f (fun s p q r => h s p q s.soil s.evalQueue r s.frameMem), patchLines_unseen _ _ _ f (fun s p j => h s p s.store s.soil s.evalQueue s.reports j)]

@[simp] theorem takeClose_keeps (p : PortId) (g : FrameInProgress) (n : Half) (s : State) :
    (takeClose p g n s).clock = s.clock ∧ (takeClose p g n s).layouts = s.layouts ∧
    (takeClose p g n s).displays = s.displays ∧ (takeClose p g n s).cab = s.cab ∧
    (takeClose p g n s).doors = s.doors ∧ (takeClose p g n s).debounce = s.debounce ∧
    (takeClose p g n s).stored = s.stored ∧ (takeClose p g n s).calling = s.calling ∧
    (takeClose p g n s).clear = s.clear ∧ (takeClose p g n s).mode = s.mode ∧
    (takeClose p g n s).wakeRecord = s.wakeRecord ∧ (takeClose p g n s).wakeCause = s.wakeCause ∧
    (takeClose p g n s).window = s.window ∧ (takeClose p g n s).lanes = s.lanes ∧
    (takeClose p g n s).mover = s.mover ∧ (takeClose p g n s).bus = s.bus ∧
    (takeClose p g n s).pending = s.pending := by
  simpa only [Prod.mk.injEq] using takeClose_unseen p g n s (fun s => (
    s.clock, s.layouts, s.displays, s.cab, s.doors, s.debounce, s.stored, s.calling, s.clear, s.mode, s.wakeRecord,
    s.wakeCause, s.window, s.lanes, s.mover, s.bus, s.pending)) fun _ _ _ _ _ _ _ => rfl

theorem openFrame_unseen (p : PortId) (n : Half) (s : State) {α : Type} (f : State → α)
    (h : ∀ s p q, f { s with ports := p, store := q } = f s) : f (openFrame p n s) = f s := by
  unfold openFrame
  dsimp only
  split
  · rfl
  · exact h s _ _

@[simp] theorem openFrame_keeps (p : PortId) (n : Half) (s : State) :
    (openFrame p n s).clock = s.clock ∧ (openFrame p n s).soil = s.soil ∧ (openFrame p n s).evalQueue = s.evalQueue ∧
    (openFrame p n s).layouts = s.layouts ∧ (openFrame p n s).displays = s.displays ∧ (openFrame p n s).cab = s.cab ∧
    (openFrame p n s).doors = s.doors ∧ (openFrame p n s).debounce = s.debounce ∧
    (openFrame p n s).stored = s.stored ∧ (openFrame p n s).calling = s.calling ∧ (openFrame p n s).clear = s.clear ∧
    (openFrame p n s).mode = s.mode ∧ (openFrame p n s).wakeRecord = s.wakeRecord ∧
    (openFrame p n s).wakeCause = s.wakeCause ∧ (openFrame p n s).window = s.window ∧
    (openFrame p n s).lanes = s.lanes ∧ (openFrame p n s).mover = s.mover ∧ (openFrame p n s).reports = s.reports ∧
    (openFrame p n s).frameMem = s.frameMem ∧ (openFrame p n s).bus = s.bus ∧
    (openFrame p n s).pending = s.pending := by
  simpa only [Prod.mk.injEq] using openFrame_unseen p n s (fun s => (
    s.clock, s.soil, s.evalQueue, s.layouts, s.displays, s.cab, s.doors, s.debounce, s.stored, s.calling, s.clear,
    s.mode, s.wakeRecord, s.wakeCause, s.window, s.lanes, s.mover, s.reports, s.frameMem, s.bus, s.pending)) fun _ _ _ => rfl

theorem takeOpen_unseen (p : PortId) (n w k : Half) (s : State) {α : Type} (f : State → α)
    (h : ∀ s p q r, f { s with ports := p, store := q, reports := r } = f s) : f (takeOpen p n w k s) = f s := by
  unfold takeOpen
  dsimp only
  split
  · rw [openFrame_unseen _ _ _ f (fun s p q => h s p q s.reports), abortFrame_unseen _ _ f (fun s p q r => h s p q r)]
  · rw [mark_unseen _ _ f (fun s r => h s s.ports s.store r)]
    exact (h (abortFrame p s) _ _ _).trans (abortFrame_unseen _ _ f (fun s p q r => h s p q r))

@[simp] theorem takeOpen_keeps (p : PortId) (n w k : Half) (s : State) :
    (takeOpen p n w k s).clock = s.clock ∧ (takeOpen p n w k s).soil = s.soil ∧
    (takeOpen p n w k s).evalQueue = s.evalQueue ∧ (takeOpen p n w k s).layouts = s.layouts ∧
    (takeOpen p n w k s).displays = s.displays ∧ (takeOpen p n w k s).cab = s.cab ∧
    (takeOpen p n w k s).doors = s.doors ∧ (takeOpen p n w k s).debounce = s.debounce ∧
    (takeOpen p n w k s).stored = s.stored ∧ (takeOpen p n w k s).calling = s.calling ∧
    (takeOpen p n w k s).clear = s.clear ∧ (takeOpen p n w k s).mode = s.mode ∧
    (takeOpen p n w k s).wakeRecord = s.wakeRecord ∧ (takeOpen p n w k s).wakeCause = s.wakeCause ∧
    (takeOpen p n w k s).window = s.window ∧ (takeOpen p n w k s).lanes = s.lanes ∧
    (takeOpen p n w k s).mover = s.mover ∧ (takeOpen p n w k s).frameMem = s.frameMem ∧
    (takeOpen p n w k s).bus = s.bus ∧ (takeOpen p n w k s).pending = s.pending := by
  simpa only [Prod.mk.injEq] using takeOpen_unseen p n w k s (fun s => (
    s.clock, s.soil, s.evalQueue, s.layouts, s.displays, s.cab, s.doors, s.debounce, s.stored, s.calling, s.clear,
    s.mode, s.wakeRecord, s.wakeCause, s.window, s.lanes, s.mover, s.frameMem, s.bus, s.pending)) fun _ _ _ _ => rfl

theorem losePort_unseen (p : PortId) (s : State) {α : Type} (f : State → α)
    (h : ∀ s p o r, f { s with ports := p, soil := o, reports := r } = f s) : f (losePort p s) = f s := by
  unfold losePort
  dsimp only
  rw [announceCamera_unseen _ _ f (fun s r => h s s.ports s.soil r), abandonLearning_unseen _ _ f (fun s o r => h s s.ports o r)]; exact h s _ _ _

@[simp] theorem losePort_keeps (p : PortId) (s : State) :
    (losePort p s).clock = s.clock ∧ (losePort p s).store = s.store ∧ (losePort p s).evalQueue = s.evalQueue ∧
    (losePort p s).layouts = s.layouts ∧ (losePort p s).displays = s.displays ∧ (losePort p s).cab = s.cab ∧
    (losePort p s).doors = s.doors ∧ (losePort p s).debounce = s.debounce ∧ (losePort p s).stored = s.stored ∧
    (losePort p s).calling = s.calling ∧ (losePort p s).clear = s.clear ∧ (losePort p s).mode = s.mode ∧
    (losePort p s).wakeRecord = s.wakeRecord ∧ (losePort p s).wakeCause = s.wakeCause ∧
    (losePort p s).window = s.window ∧ (losePort p s).lanes = s.lanes ∧ (losePort p s).mover = s.mover ∧
    (losePort p s).frameMem = s.frameMem ∧ (losePort p s).bus = s.bus ∧ (losePort p s).pending = s.pending := by
  simpa only [Prod.mk.injEq] using losePort_unseen p s (fun s => (
    s.clock, s.store, s.evalQueue, s.layouts, s.displays, s.cab, s.doors, s.debounce, s.stored, s.calling, s.clear,
    s.mode, s.wakeRecord, s.wakeCause, s.window, s.lanes, s.mover, s.frameMem, s.bus, s.pending)) fun _ _ _ _ => rfl

end Sys2Proof.Machine
end

