-- ==== Sys2Proof/Laws/Doors.lean ====
section
/-! SUPPORT. What the operations of the Door Monitor, of the overrides and of a wake leave. A lemma `_unseen` says that an observation blind to the fields an operation writes does not see the operation;
a lemma `_keeps` lists the fields it leaves. -/

namespace Sys2Proof.Machine

/-! ## Doors, sides and wake -/

theorem recomputeLines_unseen (s : State) {α : Type} (f : State → α)
    (h : ∀ s v r, f { s with clear := v, reports := r } = f s) : f (recomputeLines s) = f s := by
  unfold recomputeLines
  split
  · rfl
  · rw [raise_unseen _ _ f (fun s r => h s s.clear r), mark_unseen _ _ f (fun s r => h s s.clear r)]; exact h s _ _

@[simp] theorem recomputeLines_keeps (s : State) :
    (recomputeLines s).clock = s.clock ∧ (recomputeLines s).ports = s.ports ∧ (recomputeLines s).store = s.store ∧
    (recomputeLines s).soil = s.soil ∧ (recomputeLines s).evalQueue = s.evalQueue ∧
    (recomputeLines s).layouts = s.layouts ∧ (recomputeLines s).displays = s.displays ∧
    (recomputeLines s).cab = s.cab ∧ (recomputeLines s).doors = s.doors ∧ (recomputeLines s).debounce = s.debounce ∧
    (recomputeLines s).stored = s.stored ∧ (recomputeLines s).calling = s.calling ∧ (recomputeLines s).mode = s.mode ∧
    (recomputeLines s).wakeRecord = s.wakeRecord ∧ (recomputeLines s).wakeCause = s.wakeCause ∧
    (recomputeLines s).window = s.window ∧ (recomputeLines s).lanes = s.lanes ∧ (recomputeLines s).mover = s.mover ∧
    (recomputeLines s).frameMem = s.frameMem ∧ (recomputeLines s).bus = s.bus ∧
    (recomputeLines s).pending = s.pending := by
  simpa only [Prod.mk.injEq] using recomputeLines_unseen s (fun s => (
    s.clock, s.ports, s.store, s.soil, s.evalQueue, s.layouts, s.displays, s.cab, s.doors, s.debounce, s.stored,
    s.calling, s.mode, s.wakeRecord, s.wakeCause, s.window, s.lanes, s.mover, s.frameMem, s.bus, s.pending)) fun _ _ _ => rfl

theorem recomputeCalling_unseen (s : State) {α : Type} (f : State → α)
    (h : ∀ s d c, f { s with displays := d, calling := c } = f s) : f (recomputeCalling s) = f s := by
  unfold recomputeCalling
  dsimp only
  split
  · rfl
  · exact h s _ _

@[simp] theorem recomputeCalling_keeps (s : State) :
    (recomputeCalling s).clock = s.clock ∧ (recomputeCalling s).ports = s.ports ∧
    (recomputeCalling s).store = s.store ∧ (recomputeCalling s).soil = s.soil ∧
    (recomputeCalling s).evalQueue = s.evalQueue ∧ (recomputeCalling s).layouts = s.layouts ∧
    (recomputeCalling s).cab = s.cab ∧ (recomputeCalling s).doors = s.doors ∧
    (recomputeCalling s).debounce = s.debounce ∧ (recomputeCalling s).stored = s.stored ∧
    (recomputeCalling s).clear = s.clear ∧ (recomputeCalling s).mode = s.mode ∧
    (recomputeCalling s).wakeRecord = s.wakeRecord ∧ (recomputeCalling s).wakeCause = s.wakeCause ∧
    (recomputeCalling s).window = s.window ∧ (recomputeCalling s).lanes = s.lanes ∧
    (recomputeCalling s).mover = s.mover ∧ (recomputeCalling s).reports = s.reports ∧
    (recomputeCalling s).frameMem = s.frameMem ∧ (recomputeCalling s).bus = s.bus ∧
    (recomputeCalling s).pending = s.pending := by
  simpa only [Prod.mk.injEq] using recomputeCalling_unseen s (fun s => (
    s.clock, s.ports, s.store, s.soil, s.evalQueue, s.layouts, s.cab, s.doors, s.debounce, s.stored, s.clear, s.mode,
    s.wakeRecord, s.wakeCause, s.window, s.lanes, s.mover, s.reports, s.frameMem, s.bus, s.pending)) fun _ _ _ => rfl

theorem recomputeOverrides_unseen (s : State) {α : Type} (f : State → α)
    (h : ∀ s d c, f { s with displays := d, calling := c } = f s) : f (recomputeOverrides s) = f s := by
  exact h s _ _

@[simp] theorem recomputeOverrides_keeps (s : State) :
    (recomputeOverrides s).clock = s.clock ∧ (recomputeOverrides s).ports = s.ports ∧
    (recomputeOverrides s).store = s.store ∧ (recomputeOverrides s).soil = s.soil ∧
    (recomputeOverrides s).evalQueue = s.evalQueue ∧ (recomputeOverrides s).layouts = s.layouts ∧
    (recomputeOverrides s).cab = s.cab ∧ (recomputeOverrides s).doors = s.doors ∧
    (recomputeOverrides s).debounce = s.debounce ∧ (recomputeOverrides s).stored = s.stored ∧
    (recomputeOverrides s).clear = s.clear ∧ (recomputeOverrides s).mode = s.mode ∧
    (recomputeOverrides s).wakeRecord = s.wakeRecord ∧ (recomputeOverrides s).wakeCause = s.wakeCause ∧
    (recomputeOverrides s).window = s.window ∧ (recomputeOverrides s).lanes = s.lanes ∧
    (recomputeOverrides s).mover = s.mover ∧ (recomputeOverrides s).reports = s.reports ∧
    (recomputeOverrides s).frameMem = s.frameMem ∧ (recomputeOverrides s).bus = s.bus ∧
    (recomputeOverrides s).pending = s.pending := by
  simpa only [Prod.mk.injEq] using recomputeOverrides_unseen s (fun s => (
    s.clock, s.ports, s.store, s.soil, s.evalQueue, s.layouts, s.cab, s.doors, s.debounce, s.stored, s.clear, s.mode,
    s.wakeRecord, s.wakeCause, s.window, s.lanes, s.mover, s.reports, s.frameMem, s.bus, s.pending)) fun _ _ _ => rfl

theorem reportDoor_unseen (u : Vector Door 8) (s : State) (k : DoorId) {α : Type} (f : State → α)
    (h : ∀ s r, f { s with reports := r } = f s) : f (reportDoor u s k) = f s := by
  unfold reportDoor
  dsimp only
  split <;> split
  · rfl
  · rw [mark_unseen _ _ f (fun s r => h s r)]
  · rw [raise_unseen _ _ f (fun s r => h s r)]
  · rw [raise_unseen _ _ f (fun s r => h s r), mark_unseen _ _ f (fun s r => h s r)]

@[simp] theorem reportDoor_keeps (u : Vector Door 8) (s : State) (k : DoorId) :
    (reportDoor u s k).clock = s.clock ∧ (reportDoor u s k).ports = s.ports ∧ (reportDoor u s k).store = s.store ∧
    (reportDoor u s k).soil = s.soil ∧ (reportDoor u s k).evalQueue = s.evalQueue ∧
    (reportDoor u s k).layouts = s.layouts ∧ (reportDoor u s k).displays = s.displays ∧
    (reportDoor u s k).cab = s.cab ∧ (reportDoor u s k).doors = s.doors ∧ (reportDoor u s k).debounce = s.debounce ∧
    (reportDoor u s k).stored = s.stored ∧ (reportDoor u s k).calling = s.calling ∧
    (reportDoor u s k).clear = s.clear ∧ (reportDoor u s k).mode = s.mode ∧
    (reportDoor u s k).wakeRecord = s.wakeRecord ∧ (reportDoor u s k).wakeCause = s.wakeCause ∧
    (reportDoor u s k).window = s.window ∧ (reportDoor u s k).lanes = s.lanes ∧ (reportDoor u s k).mover = s.mover ∧
    (reportDoor u s k).frameMem = s.frameMem ∧ (reportDoor u s k).bus = s.bus ∧
    (reportDoor u s k).pending = s.pending := by
  simpa only [Prod.mk.injEq] using reportDoor_unseen u s k (fun s => (
    s.clock, s.ports, s.store, s.soil, s.evalQueue, s.layouts, s.displays, s.cab, s.doors, s.debounce, s.stored,
    s.calling, s.clear, s.mode, s.wakeRecord, s.wakeCause, s.window, s.lanes, s.mover, s.frameMem, s.bus, s.pending)) fun _ _ => rfl

theorem reportDoors_unseen (u : Vector Door 8) (s : State) {α : Type} (f : State → α)
    (h : ∀ s r, f { s with reports := r } = f s) : f (reportDoors u s) = f s := by
  unfold reportDoors
  generalize List.finRange 8 = ks
  induction ks generalizing s with
  | nil => rfl
  | cons k ks ih => rw [List.foldl_cons, ih, reportDoor_unseen _ _ _ f h]

@[simp] theorem reportDoors_keeps (u : Vector Door 8) (s : State) :
    (reportDoors u s).clock = s.clock ∧ (reportDoors u s).ports = s.ports ∧ (reportDoors u s).store = s.store ∧
    (reportDoors u s).soil = s.soil ∧ (reportDoors u s).evalQueue = s.evalQueue ∧
    (reportDoors u s).layouts = s.layouts ∧ (reportDoors u s).displays = s.displays ∧ (reportDoors u s).cab = s.cab ∧
    (reportDoors u s).doors = s.doors ∧ (reportDoors u s).debounce = s.debounce ∧
    (reportDoors u s).stored = s.stored ∧ (reportDoors u s).calling = s.calling ∧ (reportDoors u s).clear = s.clear ∧
    (reportDoors u s).mode = s.mode ∧ (reportDoors u s).wakeRecord = s.wakeRecord ∧
    (reportDoors u s).wakeCause = s.wakeCause ∧ (reportDoors u s).window = s.window ∧
    (reportDoors u s).lanes = s.lanes ∧ (reportDoors u s).mover = s.mover ∧ (reportDoors u s).frameMem = s.frameMem ∧
    (reportDoors u s).bus = s.bus ∧ (reportDoors u s).pending = s.pending := by
  simpa only [Prod.mk.injEq] using reportDoors_unseen u s (fun s => (
    s.clock, s.ports, s.store, s.soil, s.evalQueue, s.layouts, s.displays, s.cab, s.doors, s.debounce, s.stored,
    s.calling, s.clear, s.mode, s.wakeRecord, s.wakeCause, s.window, s.lanes, s.mover, s.frameMem, s.bus, s.pending)) fun _ _ => rfl

theorem doorsChanged_unseen (u : Vector Door 8) (s : State) {α : Type} (f : State → α)
    (h : ∀ s d c v r, f { s with displays := d, calling := c, clear := v, reports := r } = f s) : f (doorsChanged u s) = f s := by
  rw [doorsChanged, reportDoors_unseen _ _ f (fun s r => h s s.displays s.calling s.clear r), recomputeLines_unseen _ f (fun s v r => h s s.displays s.calling v r),
    recomputeCalling_unseen _ f (fun s d c => h s d c s.clear s.reports)]

@[simp] theorem doorsChanged_keeps (u : Vector Door 8) (s : State) :
    (doorsChanged u s).clock = s.clock ∧ (doorsChanged u s).ports = s.ports ∧ (doorsChanged u s).store = s.store ∧
    (doorsChanged u s).soil = s.soil ∧ (doorsChanged u s).evalQueue = s.evalQueue ∧
    (doorsChanged u s).layouts = s.layouts ∧ (doorsChanged u s).cab = s.cab ∧ (doorsChanged u s).doors = s.doors ∧
    (doorsChanged u s).debounce = s.debounce ∧ (doorsChanged u s).stored = s.stored ∧
    (doorsChanged u s).mode = s.mode ∧ (doorsChanged u s).wakeRecord = s.wakeRecord ∧
    (doorsChanged u s).wakeCause = s.wakeCause ∧ (doorsChanged u s).window = s.window ∧
    (doorsChanged u s).lanes = s.lanes ∧ (doorsChanged u s).mover = s.mover ∧
    (doorsChanged u s).frameMem = s.frameMem ∧ (doorsChanged u s).bus = s.bus ∧
    (doorsChanged u s).pending = s.pending := by
  simpa only [Prod.mk.injEq] using doorsChanged_unseen u s (fun s => (
    s.clock, s.ports, s.store, s.soil, s.evalQueue, s.layouts, s.cab, s.doors, s.debounce, s.stored, s.mode,
    s.wakeRecord, s.wakeCause, s.window, s.lanes, s.mover, s.frameMem, s.bus, s.pending)) fun _ _ _ _ _ => rfl

theorem changeDoor_unseen (k : DoorId) (b : Bool) (s : State) {α : Type} (f : State → α)
    (h : ∀ s d k c v r, f { s with displays := d, doors := k, calling := c, clear := v, reports := r } = f s) : f (changeDoor k b s) = f s := by
  rw [changeDoor, doorsChanged_unseen _ _ f (fun s d c v r => h s d s.doors c v r)]; exact h s _ _ _ _ _

@[simp] theorem changeDoor_keeps (k : DoorId) (b : Bool) (s : State) :
    (changeDoor k b s).clock = s.clock ∧ (changeDoor k b s).ports = s.ports ∧ (changeDoor k b s).store = s.store ∧
    (changeDoor k b s).soil = s.soil ∧ (changeDoor k b s).evalQueue = s.evalQueue ∧
    (changeDoor k b s).layouts = s.layouts ∧ (changeDoor k b s).cab = s.cab ∧
    (changeDoor k b s).debounce = s.debounce ∧ (changeDoor k b s).stored = s.stored ∧
    (changeDoor k b s).mode = s.mode ∧ (changeDoor k b s).wakeRecord = s.wakeRecord ∧
    (changeDoor k b s).wakeCause = s.wakeCause ∧ (changeDoor k b s).window = s.window ∧
    (changeDoor k b s).lanes = s.lanes ∧ (changeDoor k b s).mover = s.mover ∧
    (changeDoor k b s).frameMem = s.frameMem ∧ (changeDoor k b s).bus = s.bus ∧
    (changeDoor k b s).pending = s.pending := by
  simpa only [Prod.mk.injEq] using changeDoor_unseen k b s (fun s => (
    s.clock, s.ports, s.store, s.soil, s.evalQueue, s.layouts, s.cab, s.debounce, s.stored, s.mode, s.wakeRecord,
    s.wakeCause, s.window, s.lanes, s.mover, s.frameMem, s.bus, s.pending)) fun _ _ _ _ _ _ => rfl

theorem wakePort_unseen (s : State) (p : PortId) {α : Type} (f : State → α)
    (h : ∀ s p r, f { s with ports := p, reports := r } = f s) : f (wakePort s p) = f s := by
  unfold wakePort
  split
  · rw [seekPort_unseen _ _ f (fun s p r => h s p r)]
  · rfl

@[simp] theorem wakePort_keeps (s : State) (p : PortId) :
    (wakePort s p).clock = s.clock ∧ (wakePort s p).store = s.store ∧ (wakePort s p).soil = s.soil ∧
    (wakePort s p).evalQueue = s.evalQueue ∧ (wakePort s p).layouts = s.layouts ∧
    (wakePort s p).displays = s.displays ∧ (wakePort s p).cab = s.cab ∧ (wakePort s p).doors = s.doors ∧
    (wakePort s p).debounce = s.debounce ∧ (wakePort s p).stored = s.stored ∧ (wakePort s p).calling = s.calling ∧
    (wakePort s p).clear = s.clear ∧ (wakePort s p).mode = s.mode ∧ (wakePort s p).wakeRecord = s.wakeRecord ∧
    (wakePort s p).wakeCause = s.wakeCause ∧ (wakePort s p).window = s.window ∧ (wakePort s p).lanes = s.lanes ∧
    (wakePort s p).mover = s.mover ∧ (wakePort s p).frameMem = s.frameMem ∧ (wakePort s p).bus = s.bus ∧
    (wakePort s p).pending = s.pending := by
  simpa only [Prod.mk.injEq] using wakePort_unseen s p (fun s => (
    s.clock, s.store, s.soil, s.evalQueue, s.layouts, s.displays, s.cab, s.doors, s.debounce, s.stored, s.calling,
    s.clear, s.mode, s.wakeRecord, s.wakeCause, s.window, s.lanes, s.mover, s.frameMem, s.bus, s.pending)) fun _ _ _ => rfl

theorem wakePorts_unseen (ps : List PortId) (s : State) {α : Type} (f : State → α)
    (h : ∀ s p r, f { s with ports := p, reports := r } = f s) : f (ps.foldl wakePort s) = f s := by
  induction ps generalizing s with
  | nil => rfl
  | cons p ps ih => rw [List.foldl_cons, ih, wakePort_unseen _ _ f h]

@[simp] theorem wakePorts_keeps (ps : List PortId) (s : State) :
    (ps.foldl wakePort s).clock = s.clock ∧ (ps.foldl wakePort s).store = s.store ∧
    (ps.foldl wakePort s).soil = s.soil ∧ (ps.foldl wakePort s).evalQueue = s.evalQueue ∧
    (ps.foldl wakePort s).layouts = s.layouts ∧ (ps.foldl wakePort s).displays = s.displays ∧
    (ps.foldl wakePort s).cab = s.cab ∧ (ps.foldl wakePort s).doors = s.doors ∧
    (ps.foldl wakePort s).debounce = s.debounce ∧ (ps.foldl wakePort s).stored = s.stored ∧
    (ps.foldl wakePort s).calling = s.calling ∧ (ps.foldl wakePort s).clear = s.clear ∧
    (ps.foldl wakePort s).mode = s.mode ∧ (ps.foldl wakePort s).wakeRecord = s.wakeRecord ∧
    (ps.foldl wakePort s).wakeCause = s.wakeCause ∧ (ps.foldl wakePort s).window = s.window ∧
    (ps.foldl wakePort s).lanes = s.lanes ∧ (ps.foldl wakePort s).mover = s.mover ∧
    (ps.foldl wakePort s).frameMem = s.frameMem ∧ (ps.foldl wakePort s).bus = s.bus ∧
    (ps.foldl wakePort s).pending = s.pending := by
  simpa only [Prod.mk.injEq] using wakePorts_unseen ps s (fun s => (
    s.clock, s.store, s.soil, s.evalQueue, s.layouts, s.displays, s.cab, s.doors, s.debounce, s.stored, s.calling,
    s.clear, s.mode, s.wakeRecord, s.wakeCause, s.window, s.lanes, s.mover, s.frameMem, s.bus, s.pending)) fun _ _ _ => rfl

theorem leaveStabling_unseen (u : WakeCause) (s : State) {α : Type} (f : State → α)
    (h : ∀ s p y a u r, f { s with ports := p, mode := y, wakeRecord := a, wakeCause := u, reports := r } = f s) : f (leaveStabling u s) = f s := by
  exact (h ((List.finRange 12).foldl wakePort s) _ _ _ _ _).trans (wakePorts_unseen _ _ f (fun s p r => h s p s.mode s.wakeRecord s.wakeCause r))

@[simp] theorem leaveStabling_keeps (u : WakeCause) (s : State) :
    (leaveStabling u s).clock = s.clock ∧ (leaveStabling u s).store = s.store ∧ (leaveStabling u s).soil = s.soil ∧
    (leaveStabling u s).evalQueue = s.evalQueue ∧ (leaveStabling u s).layouts = s.layouts ∧
    (leaveStabling u s).displays = s.displays ∧ (leaveStabling u s).cab = s.cab ∧
    (leaveStabling u s).doors = s.doors ∧ (leaveStabling u s).debounce = s.debounce ∧
    (leaveStabling u s).stored = s.stored ∧ (leaveStabling u s).calling = s.calling ∧
    (leaveStabling u s).clear = s.clear ∧ (leaveStabling u s).window = s.window ∧
    (leaveStabling u s).lanes = s.lanes ∧ (leaveStabling u s).mover = s.mover ∧
    (leaveStabling u s).frameMem = s.frameMem ∧ (leaveStabling u s).bus = s.bus ∧
    (leaveStabling u s).pending = s.pending := by
  simpa only [Prod.mk.injEq] using leaveStabling_unseen u s (fun s => (
    s.clock, s.store, s.soil, s.evalQueue, s.layouts, s.displays, s.cab, s.doors, s.debounce, s.stored, s.calling,
    s.clear, s.window, s.lanes, s.mover, s.frameMem, s.bus, s.pending)) fun _ _ _ _ _ _ => rfl

theorem announceWake_unseen (s : State) {α : Type} (f : State → α)
    (h : ∀ s r, f { s with reports := r } = f s) : f (announceWake s) = f s := by
  rw [announceWake, raise_unseen _ _ f (fun s r => h s r), mark_unseen _ _ f (fun s r => h s r)]

@[simp] theorem announceWake_keeps (s : State) :
    (announceWake s).clock = s.clock ∧ (announceWake s).ports = s.ports ∧ (announceWake s).store = s.store ∧
    (announceWake s).soil = s.soil ∧ (announceWake s).evalQueue = s.evalQueue ∧ (announceWake s).layouts = s.layouts ∧
    (announceWake s).displays = s.displays ∧ (announceWake s).cab = s.cab ∧ (announceWake s).doors = s.doors ∧
    (announceWake s).debounce = s.debounce ∧ (announceWake s).stored = s.stored ∧
    (announceWake s).calling = s.calling ∧ (announceWake s).clear = s.clear ∧ (announceWake s).mode = s.mode ∧
    (announceWake s).wakeRecord = s.wakeRecord ∧ (announceWake s).wakeCause = s.wakeCause ∧
    (announceWake s).window = s.window ∧ (announceWake s).lanes = s.lanes ∧ (announceWake s).mover = s.mover ∧
    (announceWake s).frameMem = s.frameMem ∧ (announceWake s).bus = s.bus ∧ (announceWake s).pending = s.pending := by
  simpa only [Prod.mk.injEq] using announceWake_unseen s (fun s => (
    s.clock, s.ports, s.store, s.soil, s.evalQueue, s.layouts, s.displays, s.cab, s.doors, s.debounce, s.stored,
    s.calling, s.clear, s.mode, s.wakeRecord, s.wakeCause, s.window, s.lanes, s.mover, s.frameMem, s.bus, s.pending)) fun _ _ => rfl

theorem wakePart_unseen (u : WakeCause) (s : State) {α : Type} (f : State → α)
    (h : ∀ s p v y a u r, f { s with ports := p, clear := v, mode := y, wakeRecord := a, wakeCause := u, reports := r } = f s) : f (wakePart u s) = f s := by
  unfold wakePart
  split
  · rfl
  · rw [announceWake_unseen _ f (fun s r => h s s.ports s.clear s.mode s.wakeRecord s.wakeCause r), recomputeLines_unseen _ f (fun s v r => h s s.ports v s.mode s.wakeRecord s.wakeCause r),
      leaveStabling_unseen _ _ f (fun s p y a u r => h s p s.clear y a u r)]

@[simp] theorem wakePart_keeps (u : WakeCause) (s : State) :
    (wakePart u s).clock = s.clock ∧ (wakePart u s).store = s.store ∧ (wakePart u s).soil = s.soil ∧
    (wakePart u s).evalQueue = s.evalQueue ∧ (wakePart u s).layouts = s.layouts ∧
    (wakePart u s).displays = s.displays ∧ (wakePart u s).cab = s.cab ∧ (wakePart u s).doors = s.doors ∧
    (wakePart u s).debounce = s.debounce ∧ (wakePart u s).stored = s.stored ∧ (wakePart u s).calling = s.calling ∧
    (wakePart u s).window = s.window ∧ (wakePart u s).lanes = s.lanes ∧ (wakePart u s).mover = s.mover ∧
    (wakePart u s).frameMem = s.frameMem ∧ (wakePart u s).bus = s.bus ∧ (wakePart u s).pending = s.pending := by
  simpa only [Prod.mk.injEq] using wakePart_unseen u s (fun s => (
    s.clock, s.store, s.soil, s.evalQueue, s.layouts, s.displays, s.cab, s.doors, s.debounce, s.stored, s.calling,
    s.window, s.lanes, s.mover, s.frameMem, s.bus, s.pending)) fun _ _ _ _ _ _ _ => rfl

theorem doorLevel_unseen (k : DoorId) (b : Bool) (s : State) {α : Type} (f : State → α)
    (h : ∀ s p d k c v y a u r, f { s with ports := p, displays := d, doors := k, calling := c, clear := v, mode := y, wakeRecord := a, wakeCause := u, reports := r } = f s) : f (doorLevel k b s) = f s := by
  unfold doorLevel
  split
  · rw [changeDoor_unseen _ _ _ f (fun s d k c v r => h s s.ports d k c v s.mode s.wakeRecord s.wakeCause r)]
  · rw [announceWake_unseen _ f (fun s r => h s s.ports s.displays s.doors s.calling s.clear s.mode s.wakeRecord s.wakeCause r),
      changeDoor_unseen _ _ _ f (fun s d k c v r => h s s.ports d k c v s.mode s.wakeRecord s.wakeCause r),
      leaveStabling_unseen _ _ f (fun s p y a u r => h s p s.displays s.doors s.calling s.clear y a u r)]

@[simp] theorem doorLevel_keeps (k : DoorId) (b : Bool) (s : State) :
    (doorLevel k b s).clock = s.clock ∧ (doorLevel k b s).store = s.store ∧ (doorLevel k b s).soil = s.soil ∧
    (doorLevel k b s).evalQueue = s.evalQueue ∧ (doorLevel k b s).layouts = s.layouts ∧
    (doorLevel k b s).cab = s.cab ∧ (doorLevel k b s).debounce = s.debounce ∧ (doorLevel k b s).stored = s.stored ∧
    (doorLevel k b s).window = s.window ∧ (doorLevel k b s).lanes = s.lanes ∧ (doorLevel k b s).mover = s.mover ∧
    (doorLevel k b s).frameMem = s.frameMem ∧ (doorLevel k b s).bus = s.bus ∧
    (doorLevel k b s).pending = s.pending := by
  simpa only [Prod.mk.injEq] using doorLevel_unseen k b s (fun s => (
    s.clock, s.store, s.soil, s.evalQueue, s.layouts, s.cab, s.debounce, s.stored, s.window, s.lanes, s.mover,
    s.frameMem, s.bus, s.pending)) fun _ _ _ _ _ _ _ _ _ _ => rfl

end Sys2Proof.Machine
end

