-- ==== Sys2Proof/Laws/Lanes.lean ====
section
/-! SUPPORT. What the operations of the command lanes and of the end of an export leave. A lemma `_unseen` says that an observation blind to the fields an operation writes does not see the operation;
a lemma `_keeps` lists the fields it leaves. -/

namespace Sys2Proof.Machine

/-! ## Lanes -/

theorem updateLane_unseen (l : LaneId) (v : Lane) (s : State) {α : Type} (f : State → α)
    (h : ∀ s l r, f { s with lanes := l, reports := r } = f s) : f (updateLane l v s) = f s := by
  unfold updateLane
  split
  · exact h s _ _
  · rw [mark_unseen _ _ f (fun s r => h s s.lanes r)]; exact h s _ _

@[simp] theorem updateLane_keeps (l : LaneId) (v : Lane) (s : State) :
    (updateLane l v s).clock = s.clock ∧ (updateLane l v s).ports = s.ports ∧ (updateLane l v s).store = s.store ∧
    (updateLane l v s).soil = s.soil ∧ (updateLane l v s).evalQueue = s.evalQueue ∧
    (updateLane l v s).layouts = s.layouts ∧ (updateLane l v s).displays = s.displays ∧
    (updateLane l v s).cab = s.cab ∧ (updateLane l v s).doors = s.doors ∧ (updateLane l v s).debounce = s.debounce ∧
    (updateLane l v s).stored = s.stored ∧ (updateLane l v s).calling = s.calling ∧
    (updateLane l v s).clear = s.clear ∧ (updateLane l v s).mode = s.mode ∧
    (updateLane l v s).wakeRecord = s.wakeRecord ∧ (updateLane l v s).wakeCause = s.wakeCause ∧
    (updateLane l v s).window = s.window ∧ (updateLane l v s).mover = s.mover ∧
    (updateLane l v s).frameMem = s.frameMem ∧ (updateLane l v s).bus = s.bus ∧
    (updateLane l v s).pending = s.pending := by
  simpa only [Prod.mk.injEq] using updateLane_unseen l v s (fun s => (
    s.clock, s.ports, s.store, s.soil, s.evalQueue, s.layouts, s.displays, s.cab, s.doors, s.debounce, s.stored,
    s.calling, s.clear, s.mode, s.wakeRecord, s.wakeCause, s.window, s.mover, s.frameMem, s.bus, s.pending)) fun _ _ _ => rfl

theorem takeUp_unseen (l : LaneId) (s : State) {α : Type} (f : State → α)
    (h : ∀ s l r, f { s with lanes := l, reports := r } = f s) : f (takeUp l s) = f s := by
  unfold takeUp
  dsimp only
  split
  · rw [updateLane_unseen _ _ _ f (fun s l r => h s l r)]
  · rfl

@[simp] theorem takeUp_keeps (l : LaneId) (s : State) :
    (takeUp l s).clock = s.clock ∧ (takeUp l s).ports = s.ports ∧ (takeUp l s).store = s.store ∧
    (takeUp l s).soil = s.soil ∧ (takeUp l s).evalQueue = s.evalQueue ∧ (takeUp l s).layouts = s.layouts ∧
    (takeUp l s).displays = s.displays ∧ (takeUp l s).cab = s.cab ∧ (takeUp l s).doors = s.doors ∧
    (takeUp l s).debounce = s.debounce ∧ (takeUp l s).stored = s.stored ∧ (takeUp l s).calling = s.calling ∧
    (takeUp l s).clear = s.clear ∧ (takeUp l s).mode = s.mode ∧ (takeUp l s).wakeRecord = s.wakeRecord ∧
    (takeUp l s).wakeCause = s.wakeCause ∧ (takeUp l s).window = s.window ∧ (takeUp l s).mover = s.mover ∧
    (takeUp l s).frameMem = s.frameMem ∧ (takeUp l s).bus = s.bus ∧ (takeUp l s).pending = s.pending := by
  simpa only [Prod.mk.injEq] using takeUp_unseen l s (fun s => (
    s.clock, s.ports, s.store, s.soil, s.evalQueue, s.layouts, s.displays, s.cab, s.doors, s.debounce, s.stored,
    s.calling, s.clear, s.mode, s.wakeRecord, s.wakeCause, s.window, s.mover, s.frameMem, s.bus, s.pending)) fun _ _ _ => rfl

theorem stopLane_unseen (l : LaneId) (g : Halt) (s : State) {α : Type} (f : State → α)
    (h : ∀ s l r, f { s with lanes := l, reports := r } = f s) : f (stopLane l g s) = f s := by
  unfold stopLane
  dsimp only
  rw [takeUp_unseen _ _ f (fun s l r => h s l r)]
  split <;> split
  · rw [raise_unseen _ _ f (fun s r => h s s.lanes r), updateLane_unseen _ _ _ f (fun s l r => h s l r)]
  · rw [raise_unseen _ _ f (fun s r => h s s.lanes r), updateLane_unseen _ _ _ f (fun s l r => h s l r)]
  · rw [updateLane_unseen _ _ _ f (fun s l r => h s l r)]
  · rw [updateLane_unseen _ _ _ f (fun s l r => h s l r)]

@[simp] theorem stopLane_keeps (l : LaneId) (g : Halt) (s : State) :
    (stopLane l g s).clock = s.clock ∧ (stopLane l g s).ports = s.ports ∧ (stopLane l g s).store = s.store ∧
    (stopLane l g s).soil = s.soil ∧ (stopLane l g s).evalQueue = s.evalQueue ∧ (stopLane l g s).layouts = s.layouts ∧
    (stopLane l g s).displays = s.displays ∧ (stopLane l g s).cab = s.cab ∧ (stopLane l g s).doors = s.doors ∧
    (stopLane l g s).debounce = s.debounce ∧ (stopLane l g s).stored = s.stored ∧
    (stopLane l g s).calling = s.calling ∧ (stopLane l g s).clear = s.clear ∧ (stopLane l g s).mode = s.mode ∧
    (stopLane l g s).wakeRecord = s.wakeRecord ∧ (stopLane l g s).wakeCause = s.wakeCause ∧
    (stopLane l g s).window = s.window ∧ (stopLane l g s).mover = s.mover ∧ (stopLane l g s).frameMem = s.frameMem ∧
    (stopLane l g s).bus = s.bus ∧ (stopLane l g s).pending = s.pending := by
  simpa only [Prod.mk.injEq] using stopLane_unseen l g s (fun s => (
    s.clock, s.ports, s.store, s.soil, s.evalQueue, s.layouts, s.displays, s.cab, s.doors, s.debounce, s.stored,
    s.calling, s.clear, s.mode, s.wakeRecord, s.wakeCause, s.window, s.mover, s.frameMem, s.bus, s.pending)) fun _ _ _ => rfl

theorem leaveChain_unseen (l : LaneId) (s : State) {α : Type} (f : State → α)
    (h : ∀ s l r, f { s with lanes := l, reports := r } = f s) : f (leaveChain l s) = f s := by
  unfold leaveChain
  split
  · rw [stopLane_unseen _ _ _ f (fun s l r => h s l r)]
  · rw [takeUp_unseen _ _ f (fun s l r => h s l r), updateLane_unseen _ _ _ f (fun s l r => h s l r)]

@[simp] theorem leaveChain_keeps (l : LaneId) (s : State) :
    (leaveChain l s).clock = s.clock ∧ (leaveChain l s).ports = s.ports ∧ (leaveChain l s).store = s.store ∧
    (leaveChain l s).soil = s.soil ∧ (leaveChain l s).evalQueue = s.evalQueue ∧ (leaveChain l s).layouts = s.layouts ∧
    (leaveChain l s).displays = s.displays ∧ (leaveChain l s).cab = s.cab ∧ (leaveChain l s).doors = s.doors ∧
    (leaveChain l s).debounce = s.debounce ∧ (leaveChain l s).stored = s.stored ∧
    (leaveChain l s).calling = s.calling ∧ (leaveChain l s).clear = s.clear ∧ (leaveChain l s).mode = s.mode ∧
    (leaveChain l s).wakeRecord = s.wakeRecord ∧ (leaveChain l s).wakeCause = s.wakeCause ∧
    (leaveChain l s).window = s.window ∧ (leaveChain l s).mover = s.mover ∧ (leaveChain l s).frameMem = s.frameMem ∧
    (leaveChain l s).bus = s.bus ∧ (leaveChain l s).pending = s.pending := by
  simpa only [Prod.mk.injEq] using leaveChain_unseen l s (fun s => (
    s.clock, s.ports, s.store, s.soil, s.evalQueue, s.layouts, s.displays, s.cab, s.doors, s.debounce, s.stored,
    s.calling, s.clear, s.mode, s.wakeRecord, s.wakeCause, s.window, s.mover, s.frameMem, s.bus, s.pending)) fun _ _ _ => rfl

theorem laneFault_unseen (l : LaneId) (u : FaultCause) (a : Word) (s : State) {α : Type} (f : State → α)
    (h : ∀ s l r, f { s with lanes := l, reports := r } = f s) : f (laneFault l u a s) = f s := by
  unfold laneFault
  dsimp only
  split
  · rw [stopLane_unseen _ _ _ f (fun s l r => h s l r), updateLane_unseen _ _ _ f (fun s l r => h s l r),
      recordFault_unseen _ _ _ _ f (fun s r => h s s.lanes r)]
  · rw [updateLane_unseen _ _ _ f (fun s l r => h s l r), recordFault_unseen _ _ _ _ f (fun s r => h s s.lanes r)]

@[simp] theorem laneFault_keeps (l : LaneId) (u : FaultCause) (a : Word) (s : State) :
    (laneFault l u a s).clock = s.clock ∧ (laneFault l u a s).ports = s.ports ∧ (laneFault l u a s).store = s.store ∧
    (laneFault l u a s).soil = s.soil ∧ (laneFault l u a s).evalQueue = s.evalQueue ∧
    (laneFault l u a s).layouts = s.layouts ∧ (laneFault l u a s).displays = s.displays ∧
    (laneFault l u a s).cab = s.cab ∧ (laneFault l u a s).doors = s.doors ∧
    (laneFault l u a s).debounce = s.debounce ∧ (laneFault l u a s).stored = s.stored ∧
    (laneFault l u a s).calling = s.calling ∧ (laneFault l u a s).clear = s.clear ∧
    (laneFault l u a s).mode = s.mode ∧ (laneFault l u a s).wakeRecord = s.wakeRecord ∧
    (laneFault l u a s).wakeCause = s.wakeCause ∧ (laneFault l u a s).window = s.window ∧
    (laneFault l u a s).mover = s.mover ∧ (laneFault l u a s).frameMem = s.frameMem ∧
    (laneFault l u a s).bus = s.bus ∧ (laneFault l u a s).pending = s.pending := by
  simpa only [Prod.mk.injEq] using laneFault_unseen l u a s (fun s => (
    s.clock, s.ports, s.store, s.soil, s.evalQueue, s.layouts, s.displays, s.cab, s.doors, s.debounce, s.stored,
    s.calling, s.clear, s.mode, s.wakeRecord, s.wakeCause, s.window, s.mover, s.frameMem, s.bus, s.pending)) fun _ _ _ => rfl

theorem countEnding_unseen (l : LaneId) (b : Bool) (e : Ending) (s : State) {α : Type} (f : State → α)
    (h : ∀ s l r, f { s with lanes := l, reports := r } = f s) : f (countEnding l b e s) = f s := by
  unfold countEnding
  dsimp only
  split
  · rw [raise_unseen _ _ f (fun s r => h s s.lanes r), updateLane_unseen _ _ _ f (fun s l r => h s l r)]
  · rw [updateLane_unseen _ _ _ f (fun s l r => h s l r)]

@[simp] theorem countEnding_keeps (l : LaneId) (b : Bool) (e : Ending) (s : State) :
    (countEnding l b e s).clock = s.clock ∧ (countEnding l b e s).ports = s.ports ∧
    (countEnding l b e s).store = s.store ∧ (countEnding l b e s).soil = s.soil ∧
    (countEnding l b e s).evalQueue = s.evalQueue ∧ (countEnding l b e s).layouts = s.layouts ∧
    (countEnding l b e s).displays = s.displays ∧ (countEnding l b e s).cab = s.cab ∧
    (countEnding l b e s).doors = s.doors ∧ (countEnding l b e s).debounce = s.debounce ∧
    (countEnding l b e s).stored = s.stored ∧ (countEnding l b e s).calling = s.calling ∧
    (countEnding l b e s).clear = s.clear ∧ (countEnding l b e s).mode = s.mode ∧
    (countEnding l b e s).wakeRecord = s.wakeRecord ∧ (countEnding l b e s).wakeCause = s.wakeCause ∧
    (countEnding l b e s).window = s.window ∧ (countEnding l b e s).mover = s.mover ∧
    (countEnding l b e s).frameMem = s.frameMem ∧ (countEnding l b e s).bus = s.bus ∧
    (countEnding l b e s).pending = s.pending := by
  simpa only [Prod.mk.injEq] using countEnding_unseen l b e s (fun s => (
    s.clock, s.ports, s.store, s.soil, s.evalQueue, s.layouts, s.displays, s.cab, s.doors, s.debounce, s.stored,
    s.calling, s.clear, s.mode, s.wakeRecord, s.wakeCause, s.window, s.mover, s.frameMem, s.bus, s.pending)) fun _ _ _ => rfl

theorem setChain_unseen (l : LaneId) (c : Chain) (s : State) {α : Type} (f : State → α)
    (h : ∀ s l r, f { s with lanes := l, reports := r } = f s) : f (setChain l c s) = f s := by
  rw [setChain, updateLane_unseen _ _ _ f (fun s l r => h s l r)]

@[simp] theorem setChain_keeps (l : LaneId) (c : Chain) (s : State) :
    (setChain l c s).clock = s.clock ∧ (setChain l c s).ports = s.ports ∧ (setChain l c s).store = s.store ∧
    (setChain l c s).soil = s.soil ∧ (setChain l c s).evalQueue = s.evalQueue ∧ (setChain l c s).layouts = s.layouts ∧
    (setChain l c s).displays = s.displays ∧ (setChain l c s).cab = s.cab ∧ (setChain l c s).doors = s.doors ∧
    (setChain l c s).debounce = s.debounce ∧ (setChain l c s).stored = s.stored ∧
    (setChain l c s).calling = s.calling ∧ (setChain l c s).clear = s.clear ∧ (setChain l c s).mode = s.mode ∧
    (setChain l c s).wakeRecord = s.wakeRecord ∧ (setChain l c s).wakeCause = s.wakeCause ∧
    (setChain l c s).window = s.window ∧ (setChain l c s).mover = s.mover ∧ (setChain l c s).frameMem = s.frameMem ∧
    (setChain l c s).bus = s.bus ∧ (setChain l c s).pending = s.pending := by
  simpa only [Prod.mk.injEq] using setChain_unseen l c s (fun s => (
    s.clock, s.ports, s.store, s.soil, s.evalQueue, s.layouts, s.displays, s.cab, s.doors, s.debounce, s.stored,
    s.calling, s.clear, s.mode, s.wakeRecord, s.wakeCause, s.window, s.mover, s.frameMem, s.bus, s.pending)) fun _ _ _ => rfl

theorem advance_unseen (l : LaneId) (c : Chain) (b : Bool) (n : Word) (e : Ending) (s : State) {α : Type} (f : State → α)
    (h : ∀ s l r, f { s with lanes := l, reports := r } = f s) : f (advance l c b n e s) = f s := by
  unfold advance
  repeat' split
  all_goals first | rw [stopLane_unseen _ _ _ f (fun s l r => h s l r)] | rw [leaveChain_unseen _ _ f (fun s l r => h s l r)] | rw [setChain_unseen _ _ _ f (fun s l r => h s l r)]

@[simp] theorem advance_keeps (l : LaneId) (c : Chain) (b : Bool) (n : Word) (e : Ending) (s : State) :
    (advance l c b n e s).clock = s.clock ∧ (advance l c b n e s).ports = s.ports ∧
    (advance l c b n e s).store = s.store ∧ (advance l c b n e s).soil = s.soil ∧
    (advance l c b n e s).evalQueue = s.evalQueue ∧ (advance l c b n e s).layouts = s.layouts ∧
    (advance l c b n e s).displays = s.displays ∧ (advance l c b n e s).cab = s.cab ∧
    (advance l c b n e s).doors = s.doors ∧ (advance l c b n e s).debounce = s.debounce ∧
    (advance l c b n e s).stored = s.stored ∧ (advance l c b n e s).calling = s.calling ∧
    (advance l c b n e s).clear = s.clear ∧ (advance l c b n e s).mode = s.mode ∧
    (advance l c b n e s).wakeRecord = s.wakeRecord ∧ (advance l c b n e s).wakeCause = s.wakeCause ∧
    (advance l c b n e s).window = s.window ∧ (advance l c b n e s).mover = s.mover ∧
    (advance l c b n e s).frameMem = s.frameMem ∧ (advance l c b n e s).bus = s.bus ∧
    (advance l c b n e s).pending = s.pending := by
  simpa only [Prod.mk.injEq] using advance_unseen l c b n e s (fun s => (
    s.clock, s.ports, s.store, s.soil, s.evalQueue, s.layouts, s.displays, s.cab, s.doors, s.debounce, s.stored,
    s.calling, s.clear, s.mode, s.wakeRecord, s.wakeCause, s.window, s.mover, s.frameMem, s.bus, s.pending)) fun _ _ _ => rfl

theorem endBlock_unseen (l : LaneId) (c : Chain) (n g : Bool) (w : Word) (e : Ending) (s : State) {α : Type} (f : State → α)
    (h : ∀ s l r b, f { s with lanes := l, reports := r, bus := b } = f s) : f (endBlock l c n g w e s) = f s := by
  unfold endBlock
  split
  · rw [advance_unseen _ _ _ _ _ _ f (fun s l r => h s l r s.bus), countEnding_unseen _ _ _ _ f (fun s l r => h s l r s.bus)]; exact h s _ _ _
  · rw [laneFault_unseen _ _ _ _ f (fun s l r => h s l r s.bus)]; exact h s _ _ _

@[simp] theorem endBlock_keeps (l : LaneId) (c : Chain) (n g : Bool) (w : Word) (e : Ending) (s : State) :
    (endBlock l c n g w e s).clock = s.clock ∧ (endBlock l c n g w e s).ports = s.ports ∧
    (endBlock l c n g w e s).store = s.store ∧ (endBlock l c n g w e s).soil = s.soil ∧
    (endBlock l c n g w e s).evalQueue = s.evalQueue ∧ (endBlock l c n g w e s).layouts = s.layouts ∧
    (endBlock l c n g w e s).displays = s.displays ∧ (endBlock l c n g w e s).cab = s.cab ∧
    (endBlock l c n g w e s).doors = s.doors ∧ (endBlock l c n g w e s).debounce = s.debounce ∧
    (endBlock l c n g w e s).stored = s.stored ∧ (endBlock l c n g w e s).calling = s.calling ∧
    (endBlock l c n g w e s).clear = s.clear ∧ (endBlock l c n g w e s).mode = s.mode ∧
    (endBlock l c n g w e s).wakeRecord = s.wakeRecord ∧ (endBlock l c n g w e s).wakeCause = s.wakeCause ∧
    (endBlock l c n g w e s).window = s.window ∧ (endBlock l c n g w e s).mover = s.mover ∧
    (endBlock l c n g w e s).frameMem = s.frameMem ∧ (endBlock l c n g w e s).pending = s.pending := by
  simpa only [Prod.mk.injEq] using endBlock_unseen l c n g w e s (fun s => (
    s.clock, s.ports, s.store, s.soil, s.evalQueue, s.layouts, s.displays, s.cab, s.doors, s.debounce, s.stored,
    s.calling, s.clear, s.mode, s.wakeRecord, s.wakeCause, s.window, s.mover, s.frameMem, s.pending)) fun _ _ _ _ => rfl

theorem takeBlock_unseen (l : LaneId) (c : Chain) (g : Header) (s : State) {α : Type} (f : State → α)
    (h : ∀ s l r b, f { s with lanes := l, reports := r, bus := b } = f s) : f (takeBlock l c g s) = f s := by
  unfold takeBlock
  split
  · rw [laneFault_unseen _ _ _ _ f (fun s l r => h s l r s.bus)]; exact h s _ _ _
  · split
    · rw [setChain_unseen _ _ _ f (fun s l r => h s l r s.bus)]; exact h s _ _ _
    · rw [laneFault_unseen _ _ _ _ f (fun s l r => h s l r s.bus)]; exact h s _ _ _

@[simp] theorem takeBlock_keeps (l : LaneId) (c : Chain) (g : Header) (s : State) :
    (takeBlock l c g s).clock = s.clock ∧ (takeBlock l c g s).ports = s.ports ∧ (takeBlock l c g s).store = s.store ∧
    (takeBlock l c g s).soil = s.soil ∧ (takeBlock l c g s).evalQueue = s.evalQueue ∧
    (takeBlock l c g s).layouts = s.layouts ∧ (takeBlock l c g s).displays = s.displays ∧
    (takeBlock l c g s).cab = s.cab ∧ (takeBlock l c g s).doors = s.doors ∧
    (takeBlock l c g s).debounce = s.debounce ∧ (takeBlock l c g s).stored = s.stored ∧
    (takeBlock l c g s).calling = s.calling ∧ (takeBlock l c g s).clear = s.clear ∧
    (takeBlock l c g s).mode = s.mode ∧ (takeBlock l c g s).wakeRecord = s.wakeRecord ∧
    (takeBlock l c g s).wakeCause = s.wakeCause ∧ (takeBlock l c g s).window = s.window ∧
    (takeBlock l c g s).mover = s.mover ∧ (takeBlock l c g s).frameMem = s.frameMem ∧
    (takeBlock l c g s).pending = s.pending := by
  simpa only [Prod.mk.injEq] using takeBlock_unseen l c g s (fun s => (
    s.clock, s.ports, s.store, s.soil, s.evalQueue, s.layouts, s.displays, s.cab, s.doors, s.debounce, s.stored,
    s.calling, s.clear, s.mode, s.wakeRecord, s.wakeCause, s.window, s.mover, s.frameMem, s.pending)) fun _ _ _ _ => rfl

theorem examineBlock_unseen (l : LaneId) (c : Chain) (g : Header) (s : State) {α : Type} (f : State → α)
    (h : ∀ s l r b, f { s with lanes := l, reports := r, bus := b } = f s) : f (examineBlock l c g s) = f s := by
  unfold examineBlock
  dsimp only
  repeat' split
  all_goals first | rw [endBlock_unseen _ _ _ _ _ _ _ f (fun s l r b => h s l r b)] | rw [laneFault_unseen _ _ _ _ f (fun s l r => h s l r s.bus)] | rw [takeBlock_unseen _ _ _ _ f (fun s l r b => h s l r b)]

@[simp] theorem examineBlock_keeps (l : LaneId) (c : Chain) (g : Header) (s : State) :
    (examineBlock l c g s).clock = s.clock ∧ (examineBlock l c g s).ports = s.ports ∧
    (examineBlock l c g s).store = s.store ∧ (examineBlock l c g s).soil = s.soil ∧
    (examineBlock l c g s).evalQueue = s.evalQueue ∧ (examineBlock l c g s).layouts = s.layouts ∧
    (examineBlock l c g s).displays = s.displays ∧ (examineBlock l c g s).cab = s.cab ∧
    (examineBlock l c g s).doors = s.doors ∧ (examineBlock l c g s).debounce = s.debounce ∧
    (examineBlock l c g s).stored = s.stored ∧ (examineBlock l c g s).calling = s.calling ∧
    (examineBlock l c g s).clear = s.clear ∧ (examineBlock l c g s).mode = s.mode ∧
    (examineBlock l c g s).wakeRecord = s.wakeRecord ∧ (examineBlock l c g s).wakeCause = s.wakeCause ∧
    (examineBlock l c g s).window = s.window ∧ (examineBlock l c g s).mover = s.mover ∧
    (examineBlock l c g s).frameMem = s.frameMem ∧ (examineBlock l c g s).pending = s.pending := by
  simpa only [Prod.mk.injEq] using examineBlock_unseen l c g s (fun s => (
    s.clock, s.ports, s.store, s.soil, s.evalQueue, s.layouts, s.displays, s.cab, s.doors, s.debounce, s.stored,
    s.calling, s.clear, s.mode, s.wakeRecord, s.wakeCause, s.window, s.mover, s.frameMem, s.pending)) fun _ _ _ _ => rfl

theorem skipBlock_unseen (l : LaneId) (c : Chain) (g : Header) (s : State) {α : Type} (f : State → α)
    (h : ∀ s l r b, f { s with lanes := l, reports := r, bus := b } = f s) : f (skipBlock l c g s) = f s := by
  unfold skipBlock
  repeat' split
  all_goals first | rw [endBlock_unseen _ _ _ _ _ _ _ f (fun s l r b => h s l r b)] | rw [advance_unseen _ _ _ _ _ _ f (fun s l r => h s l r s.bus)]

@[simp] theorem skipBlock_keeps (l : LaneId) (c : Chain) (g : Header) (s : State) :
    (skipBlock l c g s).clock = s.clock ∧ (skipBlock l c g s).ports = s.ports ∧ (skipBlock l c g s).store = s.store ∧
    (skipBlock l c g s).soil = s.soil ∧ (skipBlock l c g s).evalQueue = s.evalQueue ∧
    (skipBlock l c g s).layouts = s.layouts ∧ (skipBlock l c g s).displays = s.displays ∧
    (skipBlock l c g s).cab = s.cab ∧ (skipBlock l c g s).doors = s.doors ∧
    (skipBlock l c g s).debounce = s.debounce ∧ (skipBlock l c g s).stored = s.stored ∧
    (skipBlock l c g s).calling = s.calling ∧ (skipBlock l c g s).clear = s.clear ∧
    (skipBlock l c g s).mode = s.mode ∧ (skipBlock l c g s).wakeRecord = s.wakeRecord ∧
    (skipBlock l c g s).wakeCause = s.wakeCause ∧ (skipBlock l c g s).window = s.window ∧
    (skipBlock l c g s).mover = s.mover ∧ (skipBlock l c g s).frameMem = s.frameMem ∧
    (skipBlock l c g s).pending = s.pending := by
  simpa only [Prod.mk.injEq] using skipBlock_unseen l c g s (fun s => (
    s.clock, s.ports, s.store, s.soil, s.evalQueue, s.layouts, s.displays, s.cab, s.doors, s.debounce, s.stored,
    s.calling, s.clear, s.mode, s.wakeRecord, s.wakeCause, s.window, s.mover, s.frameMem, s.pending)) fun _ _ _ _ => rfl

/-! ## Exports and halts -/

theorem releaseHolder_unseen (g : Holder) (s : State) {α : Type} (f : State → α)
    (h : ∀ s q, f { s with store := q } = f s) : f (releaseHolder g s) = f s := by
  exact h s _

@[simp] theorem releaseHolder_keeps (g : Holder) (s : State) :
    (releaseHolder g s).clock = s.clock ∧ (releaseHolder g s).ports = s.ports ∧ (releaseHolder g s).soil = s.soil ∧
    (releaseHolder g s).evalQueue = s.evalQueue ∧ (releaseHolder g s).layouts = s.layouts ∧
    (releaseHolder g s).displays = s.displays ∧ (releaseHolder g s).cab = s.cab ∧
    (releaseHolder g s).doors = s.doors ∧ (releaseHolder g s).debounce = s.debounce ∧
    (releaseHolder g s).stored = s.stored ∧ (releaseHolder g s).calling = s.calling ∧
    (releaseHolder g s).clear = s.clear ∧ (releaseHolder g s).mode = s.mode ∧
    (releaseHolder g s).wakeRecord = s.wakeRecord ∧ (releaseHolder g s).wakeCause = s.wakeCause ∧
    (releaseHolder g s).window = s.window ∧ (releaseHolder g s).lanes = s.lanes ∧
    (releaseHolder g s).mover = s.mover ∧ (releaseHolder g s).reports = s.reports ∧
    (releaseHolder g s).frameMem = s.frameMem ∧ (releaseHolder g s).bus = s.bus ∧
    (releaseHolder g s).pending = s.pending := by
  simpa only [Prod.mk.injEq] using releaseHolder_unseen g s (fun s => (
    s.clock, s.ports, s.soil, s.evalQueue, s.layouts, s.displays, s.cab, s.doors, s.debounce, s.stored, s.calling,
    s.clear, s.mode, s.wakeRecord, s.wakeCause, s.window, s.lanes, s.mover, s.reports, s.frameMem, s.bus, s.pending)) fun _ _ => rfl

theorem dropExport_unseen (s : State) {α : Type} (f : State → α)
    (h : ∀ s q m, f { s with store := q, mover := m } = f s) : f (dropExport s) = f s := by
  exact h s _ _

@[simp] theorem dropExport_keeps (s : State) :
    (dropExport s).clock = s.clock ∧ (dropExport s).ports = s.ports ∧ (dropExport s).soil = s.soil ∧
    (dropExport s).evalQueue = s.evalQueue ∧ (dropExport s).layouts = s.layouts ∧
    (dropExport s).displays = s.displays ∧ (dropExport s).cab = s.cab ∧ (dropExport s).doors = s.doors ∧
    (dropExport s).debounce = s.debounce ∧ (dropExport s).stored = s.stored ∧ (dropExport s).calling = s.calling ∧
    (dropExport s).clear = s.clear ∧ (dropExport s).mode = s.mode ∧ (dropExport s).wakeRecord = s.wakeRecord ∧
    (dropExport s).wakeCause = s.wakeCause ∧ (dropExport s).window = s.window ∧ (dropExport s).lanes = s.lanes ∧
    (dropExport s).reports = s.reports ∧ (dropExport s).frameMem = s.frameMem ∧ (dropExport s).bus = s.bus ∧
    (dropExport s).pending = s.pending := by
  simpa only [Prod.mk.injEq] using dropExport_unseen s (fun s => (
    s.clock, s.ports, s.soil, s.evalQueue, s.layouts, s.displays, s.cab, s.doors, s.debounce, s.stored, s.calling,
    s.clear, s.mode, s.wakeRecord, s.wakeCause, s.window, s.lanes, s.reports, s.frameMem, s.bus, s.pending)) fun _ _ _ => rfl

theorem endExport_unseen (e : Ending) (s : State) {α : Type} (f : State → α)
    (h : ∀ s q l m r b, f { s with store := q, lanes := l, mover := m, reports := r, bus := b } = f s) : f (endExport e s) = f s := by
  unfold endExport
  split
  · exact h s _ _ _ _ _
  · rw [endBlock_unseen _ _ _ _ _ _ _ f (fun s l r b => h s s.store l s.mover r b), dropExport_unseen _ f (fun s q m => h s q s.lanes m s.reports s.bus)]

@[simp] theorem endExport_keeps (e : Ending) (s : State) :
    (endExport e s).clock = s.clock ∧ (endExport e s).ports = s.ports ∧ (endExport e s).soil = s.soil ∧
    (endExport e s).evalQueue = s.evalQueue ∧ (endExport e s).layouts = s.layouts ∧
    (endExport e s).displays = s.displays ∧ (endExport e s).cab = s.cab ∧ (endExport e s).doors = s.doors ∧
    (endExport e s).debounce = s.debounce ∧ (endExport e s).stored = s.stored ∧ (endExport e s).calling = s.calling ∧
    (endExport e s).clear = s.clear ∧ (endExport e s).mode = s.mode ∧ (endExport e s).wakeRecord = s.wakeRecord ∧
    (endExport e s).wakeCause = s.wakeCause ∧ (endExport e s).window = s.window ∧
    (endExport e s).frameMem = s.frameMem ∧ (endExport e s).pending = s.pending := by
  simpa only [Prod.mk.injEq] using endExport_unseen e s (fun s => (
    s.clock, s.ports, s.soil, s.evalQueue, s.layouts, s.displays, s.cab, s.doors, s.debounce, s.stored, s.calling,
    s.clear, s.mode, s.wakeRecord, s.wakeCause, s.window, s.frameMem, s.pending)) fun _ _ _ _ _ _ => rfl

theorem exportWriteError_unseen (s : State) {α : Type} (f : State → α)
    (h : ∀ s q l m r b, f { s with store := q, lanes := l, mover := m, reports := r, bus := b } = f s) : f (exportWriteError s) = f s := by
  have hs : ∀ t : State, f (match t.lanes[(1 : LaneId)].halting with | some g => stopLane 1 g t | none => t) = f t := by
    intro t; split
    · rw [stopLane_unseen _ _ _ f (fun s l r => h s s.store l s.mover r s.bus)]
    · rfl
  unfold exportWriteError
  split
  · exact h s _ _ _ _ _
  · dsimp only
    refine (hs _).trans ?_
    rw [updateLane_unseen _ _ _ f (fun s l r => h s s.store l s.mover r s.bus)]
    split
    · rw [countEnding_unseen _ _ _ _ f (fun s l r => h s s.store l s.mover r s.bus)]
      refine (h (recordFault _ _ _ (dropExport s)) _ _ _ _ _).trans ?_
      rw [recordFault_unseen _ _ _ _ f (fun s r => h s s.store s.lanes s.mover r s.bus)]; exact h s _ _ _ _ _
    · rw [recordFault_unseen _ _ _ _ f (fun s r => h s s.store s.lanes s.mover r s.bus)]
      refine (h (recordFault _ _ _ (dropExport s)) _ _ _ _ _).trans ?_
      rw [recordFault_unseen _ _ _ _ f (fun s r => h s s.store s.lanes s.mover r s.bus)]; exact h s _ _ _ _ _

@[simp] theorem exportWriteError_keeps (s : State) :
    (exportWriteError s).clock = s.clock ∧ (exportWriteError s).ports = s.ports ∧ (exportWriteError s).soil = s.soil ∧
    (exportWriteError s).evalQueue = s.evalQueue ∧ (exportWriteError s).layouts = s.layouts ∧
    (exportWriteError s).displays = s.displays ∧ (exportWriteError s).cab = s.cab ∧
    (exportWriteError s).doors = s.doors ∧ (exportWriteError s).debounce = s.debounce ∧
    (exportWriteError s).stored = s.stored ∧ (exportWriteError s).calling = s.calling ∧
    (exportWriteError s).clear = s.clear ∧ (exportWriteError s).mode = s.mode ∧
    (exportWriteError s).wakeRecord = s.wakeRecord ∧ (exportWriteError s).wakeCause = s.wakeCause ∧
    (exportWriteError s).window = s.window ∧ (exportWriteError s).frameMem = s.frameMem ∧
    (exportWriteError s).pending = s.pending := by
  simpa only [Prod.mk.injEq] using exportWriteError_unseen s (fun s => (
    s.clock, s.ports, s.soil, s.evalQueue, s.layouts, s.displays, s.cab, s.doors, s.debounce, s.stored, s.calling,
    s.clear, s.mode, s.wakeRecord, s.wakeCause, s.window, s.frameMem, s.pending)) fun _ _ _ _ _ _ => rfl

theorem haltLane_unseen (l : LaneId) (g : Halt) (s : State) {α : Type} (f : State → α)
    (h : ∀ s q l m r b, f { s with store := q, lanes := l, mover := m, reports := r, bus := b } = f s) : f (haltLane l g s) = f s := by
  unfold haltLane
  dsimp only
  split
  · rw [stopLane_unseen _ _ _ f (fun s l r => h s s.store l s.mover r s.bus), updateLane_unseen _ _ _ f (fun s l r => h s s.store l s.mover r s.bus)]
  · repeat' split
    · rw [updateLane_unseen _ _ _ f (fun s l r => h s s.store l s.mover r s.bus), updateLane_unseen _ _ _ f (fun s l r => h s s.store l s.mover r s.bus)]
    · rw [endExport_unseen _ _ f (fun s q l m r b => h s q l m r b), updateLane_unseen _ _ _ f (fun s l r => h s s.store l s.mover r s.bus), updateLane_unseen _ _ _ f (fun s l r => h s s.store l s.mover r s.bus)]
    · rw [endBlock_unseen _ _ _ _ _ _ _ f (fun s l r b => h s s.store l s.mover r b), updateLane_unseen _ _ _ f (fun s l r => h s s.store l s.mover r s.bus), updateLane_unseen _ _ _ f (fun s l r => h s s.store l s.mover r s.bus)]

@[simp] theorem haltLane_keeps (l : LaneId) (g : Halt) (s : State) :
    (haltLane l g s).clock = s.clock ∧ (haltLane l g s).ports = s.ports ∧ (haltLane l g s).soil = s.soil ∧
    (haltLane l g s).evalQueue = s.evalQueue ∧ (haltLane l g s).layouts = s.layouts ∧
    (haltLane l g s).displays = s.displays ∧ (haltLane l g s).cab = s.cab ∧ (haltLane l g s).doors = s.doors ∧
    (haltLane l g s).debounce = s.debounce ∧ (haltLane l g s).stored = s.stored ∧
    (haltLane l g s).calling = s.calling ∧ (haltLane l g s).clear = s.clear ∧ (haltLane l g s).mode = s.mode ∧
    (haltLane l g s).wakeRecord = s.wakeRecord ∧ (haltLane l g s).wakeCause = s.wakeCause ∧
    (haltLane l g s).window = s.window ∧ (haltLane l g s).frameMem = s.frameMem ∧
    (haltLane l g s).pending = s.pending := by
  simpa only [Prod.mk.injEq] using haltLane_unseen l g s (fun s => (
    s.clock, s.ports, s.soil, s.evalQueue, s.layouts, s.displays, s.cab, s.doors, s.debounce, s.stored, s.calling,
    s.clear, s.mode, s.wakeRecord, s.wakeCause, s.window, s.frameMem, s.pending)) fun _ _ _ _ _ _ => rfl

end Sys2Proof.Machine
end

