-- ==== Sys2Proof/Laws/Blocks.lean ====
section
/-! SUPPORT. What the operations of the Compositor, of the Export Mover and of the lane 0 blocks leave. A lemma `_unseen` says that an observation blind to the fields an operation writes does not see the operation;
a lemma `_keeps` lists the fields it leaves. -/

namespace Sys2Proof.Machine

/-! ## Frame starts and exports -/

theorem lockTile_unseen (d : DisplayId) (s : State) (t : FrameTile) {α : Type} (f : State → α)
    (h : ∀ s q, f { s with store := q } = f s) : f (lockTile d s t) = f s := by
  unfold lockTile
  split
  · rfl
  · exact h s _

@[simp] theorem lockTile_keeps (d : DisplayId) (s : State) (t : FrameTile) :
    (lockTile d s t).clock = s.clock ∧ (lockTile d s t).ports = s.ports ∧ (lockTile d s t).soil = s.soil ∧
    (lockTile d s t).evalQueue = s.evalQueue ∧ (lockTile d s t).layouts = s.layouts ∧
    (lockTile d s t).displays = s.displays ∧ (lockTile d s t).cab = s.cab ∧ (lockTile d s t).doors = s.doors ∧
    (lockTile d s t).debounce = s.debounce ∧ (lockTile d s t).stored = s.stored ∧
    (lockTile d s t).calling = s.calling ∧ (lockTile d s t).clear = s.clear ∧ (lockTile d s t).mode = s.mode ∧
    (lockTile d s t).wakeRecord = s.wakeRecord ∧ (lockTile d s t).wakeCause = s.wakeCause ∧
    (lockTile d s t).window = s.window ∧ (lockTile d s t).lanes = s.lanes ∧ (lockTile d s t).mover = s.mover ∧
    (lockTile d s t).reports = s.reports ∧ (lockTile d s t).frameMem = s.frameMem ∧ (lockTile d s t).bus = s.bus ∧
    (lockTile d s t).pending = s.pending := by
  simpa only [Prod.mk.injEq] using lockTile_unseen d s t (fun s => (
    s.clock, s.ports, s.soil, s.evalQueue, s.layouts, s.displays, s.cab, s.doors, s.debounce, s.stored, s.calling,
    s.clear, s.mode, s.wakeRecord, s.wakeCause, s.window, s.lanes, s.mover, s.reports, s.frameMem, s.bus, s.pending)) fun _ _ => rfl

theorem lockTiles_unseen (d : DisplayId) (ts : List FrameTile) (s : State) {α : Type} (f : State → α)
    (h : ∀ s q, f { s with store := q } = f s) : f (ts.foldl (lockTile d) s) = f s := by
  induction ts generalizing s with
  | nil => rfl
  | cons t ts ih => rw [List.foldl_cons, ih, lockTile_unseen _ _ _ f h]

@[simp] theorem lockTiles_keeps (d : DisplayId) (ts : List FrameTile) (s : State) :
    (ts.foldl (lockTile d) s).clock = s.clock ∧ (ts.foldl (lockTile d) s).ports = s.ports ∧
    (ts.foldl (lockTile d) s).soil = s.soil ∧ (ts.foldl (lockTile d) s).evalQueue = s.evalQueue ∧
    (ts.foldl (lockTile d) s).layouts = s.layouts ∧ (ts.foldl (lockTile d) s).displays = s.displays ∧
    (ts.foldl (lockTile d) s).cab = s.cab ∧ (ts.foldl (lockTile d) s).doors = s.doors ∧
    (ts.foldl (lockTile d) s).debounce = s.debounce ∧ (ts.foldl (lockTile d) s).stored = s.stored ∧
    (ts.foldl (lockTile d) s).calling = s.calling ∧ (ts.foldl (lockTile d) s).clear = s.clear ∧
    (ts.foldl (lockTile d) s).mode = s.mode ∧ (ts.foldl (lockTile d) s).wakeRecord = s.wakeRecord ∧
    (ts.foldl (lockTile d) s).wakeCause = s.wakeCause ∧ (ts.foldl (lockTile d) s).window = s.window ∧
    (ts.foldl (lockTile d) s).lanes = s.lanes ∧ (ts.foldl (lockTile d) s).mover = s.mover ∧
    (ts.foldl (lockTile d) s).reports = s.reports ∧ (ts.foldl (lockTile d) s).frameMem = s.frameMem ∧
    (ts.foldl (lockTile d) s).bus = s.bus ∧ (ts.foldl (lockTile d) s).pending = s.pending := by
  simpa only [Prod.mk.injEq] using lockTiles_unseen d ts s (fun s => (
    s.clock, s.ports, s.soil, s.evalQueue, s.layouts, s.displays, s.cab, s.doors, s.debounce, s.stored, s.calling,
    s.clear, s.mode, s.wakeRecord, s.wakeCause, s.window, s.lanes, s.mover, s.reports, s.frameMem, s.bus, s.pending)) fun _ _ => rfl

theorem doorSteps_unseen (d : DisplayId) (s : State) {α : Type} (f : State → α)
    (h : ∀ s d k c v r, f { s with displays := d, doors := k, calling := c, clear := v, reports := r } = f s) : f (doorSteps d s) = f s := by
  unfold doorSteps
  split
  · rw [doorsChanged_unseen _ _ f (fun s d c v r => h s d s.doors c v r)]; exact h s _ _ _ _ _
  · rfl

@[simp] theorem doorSteps_keeps (d : DisplayId) (s : State) :
    (doorSteps d s).clock = s.clock ∧ (doorSteps d s).ports = s.ports ∧ (doorSteps d s).store = s.store ∧
    (doorSteps d s).soil = s.soil ∧ (doorSteps d s).evalQueue = s.evalQueue ∧ (doorSteps d s).layouts = s.layouts ∧
    (doorSteps d s).cab = s.cab ∧ (doorSteps d s).debounce = s.debounce ∧ (doorSteps d s).stored = s.stored ∧
    (doorSteps d s).mode = s.mode ∧ (doorSteps d s).wakeRecord = s.wakeRecord ∧
    (doorSteps d s).wakeCause = s.wakeCause ∧ (doorSteps d s).window = s.window ∧ (doorSteps d s).lanes = s.lanes ∧
    (doorSteps d s).mover = s.mover ∧ (doorSteps d s).frameMem = s.frameMem ∧ (doorSteps d s).bus = s.bus ∧
    (doorSteps d s).pending = s.pending := by
  simpa only [Prod.mk.injEq] using doorSteps_unseen d s (fun s => (
    s.clock, s.ports, s.store, s.soil, s.evalQueue, s.layouts, s.cab, s.debounce, s.stored, s.mode, s.wakeRecord,
    s.wakeCause, s.window, s.lanes, s.mover, s.frameMem, s.bus, s.pending)) fun _ _ _ _ _ _ => rfl

theorem exportAtStart_unseen (d : DisplayId) (s : State) {α : Type} (f : State → α)
    (h : ∀ s q l m r b, f { s with store := q, lanes := l, mover := m, reports := r, bus := b } = f s) : f (exportAtStart d s) = f s := by
  unfold exportAtStart
  dsimp only
  repeat' split
  all_goals first | rfl | exact h s _ _ _ _ _ | rw [endExport_unseen _ _ f (fun s q l m r b => h s q l m r b)]

@[simp] theorem exportAtStart_keeps (d : DisplayId) (s : State) :
    (exportAtStart d s).clock = s.clock ∧ (exportAtStart d s).ports = s.ports ∧ (exportAtStart d s).soil = s.soil ∧
    (exportAtStart d s).evalQueue = s.evalQueue ∧ (exportAtStart d s).layouts = s.layouts ∧
    (exportAtStart d s).displays = s.displays ∧ (exportAtStart d s).cab = s.cab ∧
    (exportAtStart d s).doors = s.doors ∧ (exportAtStart d s).debounce = s.debounce ∧
    (exportAtStart d s).stored = s.stored ∧ (exportAtStart d s).calling = s.calling ∧
    (exportAtStart d s).clear = s.clear ∧ (exportAtStart d s).mode = s.mode ∧
    (exportAtStart d s).wakeRecord = s.wakeRecord ∧ (exportAtStart d s).wakeCause = s.wakeCause ∧
    (exportAtStart d s).window = s.window ∧ (exportAtStart d s).frameMem = s.frameMem ∧
    (exportAtStart d s).pending = s.pending := by
  simpa only [Prod.mk.injEq] using exportAtStart_unseen d s (fun s => (
    s.clock, s.ports, s.soil, s.evalQueue, s.layouts, s.displays, s.cab, s.doors, s.debounce, s.stored, s.calling,
    s.clear, s.mode, s.wakeRecord, s.wakeCause, s.window, s.frameMem, s.pending)) fun _ _ _ _ _ _ => rfl

theorem takeFrameStart_unseen (d : DisplayId) (s : State) {α : Type} (f : State → α)
    (h : ∀ s q d k t c v l m r b, f { s with store := q, displays := d, doors := k, stored := t, calling := c, clear := v, lanes := l, mover := m, reports := r, bus := b } = f s) : f (takeFrameStart d s) = f s := by
  unfold takeFrameStart
  dsimp only
  have hd : ∀ t, f (doorSteps d t) = f t := fun t => doorSteps_unseen _ _ f (fun s d k c v r => h s s.store d k s.stored c v s.lanes s.mover r s.bus)
  have he : ∀ t, f (exportAtStart d t) = f t := fun t => exportAtStart_unseen _ _ f (fun s q l m r b => h s q s.displays s.doors s.stored s.calling s.clear l m r b)
  have hm : ∀ r t, f (mark r t) = f t := fun r t => mark_unseen _ _ f (fun s r => h s s.store s.displays s.doors s.stored s.calling s.clear s.lanes s.mover r s.bus)
  split
  · rw [hm, hd, he]
    exact (h ((startTiles s d).foldl (lockTile d) s) _ _ _ _ _ _ _ _ _ _).trans (lockTiles_unseen _ _ _ f (fun s q => h s q s.displays s.doors s.stored s.calling s.clear s.lanes s.mover s.reports s.bus))
  · rw [hd, he]
    exact (h ((startTiles s d).foldl (lockTile d) s) _ _ _ _ _ _ _ _ _ _).trans (lockTiles_unseen _ _ _ f (fun s q => h s q s.displays s.doors s.stored s.calling s.clear s.lanes s.mover s.reports s.bus))

@[simp] theorem takeFrameStart_keeps (d : DisplayId) (s : State) :
    (takeFrameStart d s).clock = s.clock ∧ (takeFrameStart d s).ports = s.ports ∧ (takeFrameStart d s).soil = s.soil ∧
    (takeFrameStart d s).evalQueue = s.evalQueue ∧ (takeFrameStart d s).layouts = s.layouts ∧
    (takeFrameStart d s).cab = s.cab ∧ (takeFrameStart d s).debounce = s.debounce ∧
    (takeFrameStart d s).mode = s.mode ∧ (takeFrameStart d s).wakeRecord = s.wakeRecord ∧
    (takeFrameStart d s).wakeCause = s.wakeCause ∧ (takeFrameStart d s).window = s.window ∧
    (takeFrameStart d s).frameMem = s.frameMem ∧ (takeFrameStart d s).pending = s.pending := by
  simpa only [Prod.mk.injEq] using takeFrameStart_unseen d s (fun s => (
    s.clock, s.ports, s.soil, s.evalQueue, s.layouts, s.cab, s.debounce, s.mode, s.wakeRecord, s.wakeCause, s.window,
    s.frameMem, s.pending)) fun _ _ _ _ _ _ _ _ _ _ _ => rfl

theorem lockExport_unseen (p : PortId) (o : ExportOperands) (i : SlotId) (s : State) {α : Type} (f : State → α)
    (h : ∀ s q m, f { s with store := q, mover := m } = f s) : f (lockExport p o i s) = f s := by
  exact h s _ _

@[simp] theorem lockExport_keeps (p : PortId) (o : ExportOperands) (i : SlotId) (s : State) :
    (lockExport p o i s).clock = s.clock ∧ (lockExport p o i s).ports = s.ports ∧ (lockExport p o i s).soil = s.soil ∧
    (lockExport p o i s).evalQueue = s.evalQueue ∧ (lockExport p o i s).layouts = s.layouts ∧
    (lockExport p o i s).displays = s.displays ∧ (lockExport p o i s).cab = s.cab ∧
    (lockExport p o i s).doors = s.doors ∧ (lockExport p o i s).debounce = s.debounce ∧
    (lockExport p o i s).stored = s.stored ∧ (lockExport p o i s).calling = s.calling ∧
    (lockExport p o i s).clear = s.clear ∧ (lockExport p o i s).mode = s.mode ∧
    (lockExport p o i s).wakeRecord = s.wakeRecord ∧ (lockExport p o i s).wakeCause = s.wakeCause ∧
    (lockExport p o i s).window = s.window ∧ (lockExport p o i s).lanes = s.lanes ∧
    (lockExport p o i s).reports = s.reports ∧ (lockExport p o i s).frameMem = s.frameMem ∧
    (lockExport p o i s).bus = s.bus ∧ (lockExport p o i s).pending = s.pending := by
  simpa only [Prod.mk.injEq] using lockExport_unseen p o i s (fun s => (
    s.clock, s.ports, s.soil, s.evalQueue, s.layouts, s.displays, s.cab, s.doors, s.debounce, s.stored, s.calling,
    s.clear, s.mode, s.wakeRecord, s.wakeCause, s.window, s.lanes, s.reports, s.frameMem, s.bus, s.pending)) fun _ _ _ => rfl

theorem takeExportFrame_unseen (p : PortId) (o : ExportOperands) (s : State) {α : Type} (f : State → α)
    (h : ∀ s q l m r b, f { s with store := q, lanes := l, mover := m, reports := r, bus := b } = f s) : f (takeExportFrame p o s) = f s := by
  unfold takeExportFrame
  dsimp only
  repeat' split
  · rw [endExport_unseen _ _ f (fun s q l m r b => h s q l m r b)]
  · rw [endExport_unseen _ _ f (fun s q l m r b => h s q l m r b)]
  · rw [endExport_unseen _ _ f (fun s q l m r b => h s q l m r b), lockExport_unseen _ _ _ _ f (fun s q m => h s q s.lanes m s.reports s.bus)]
  · rw [lockExport_unseen _ _ _ _ f (fun s q m => h s q s.lanes m s.reports s.bus)]

@[simp] theorem takeExportFrame_keeps (p : PortId) (o : ExportOperands) (s : State) :
    (takeExportFrame p o s).clock = s.clock ∧ (takeExportFrame p o s).ports = s.ports ∧
    (takeExportFrame p o s).soil = s.soil ∧ (takeExportFrame p o s).evalQueue = s.evalQueue ∧
    (takeExportFrame p o s).layouts = s.layouts ∧ (takeExportFrame p o s).displays = s.displays ∧
    (takeExportFrame p o s).cab = s.cab ∧ (takeExportFrame p o s).doors = s.doors ∧
    (takeExportFrame p o s).debounce = s.debounce ∧ (takeExportFrame p o s).stored = s.stored ∧
    (takeExportFrame p o s).calling = s.calling ∧ (takeExportFrame p o s).clear = s.clear ∧
    (takeExportFrame p o s).mode = s.mode ∧ (takeExportFrame p o s).wakeRecord = s.wakeRecord ∧
    (takeExportFrame p o s).wakeCause = s.wakeCause ∧ (takeExportFrame p o s).window = s.window ∧
    (takeExportFrame p o s).frameMem = s.frameMem ∧ (takeExportFrame p o s).pending = s.pending := by
  simpa only [Prod.mk.injEq] using takeExportFrame_unseen p o s (fun s => (
    s.clock, s.ports, s.soil, s.evalQueue, s.layouts, s.displays, s.cab, s.doors, s.debounce, s.stored, s.calling,
    s.clear, s.mode, s.wakeRecord, s.wakeCause, s.window, s.frameMem, s.pending)) fun _ _ _ _ _ _ => rfl

theorem takeExportScreen_unseen (d : DisplayId) (o : ExportOperands) (s : State) {α : Type} (f : State → α)
    (h : ∀ s q l m r b, f { s with store := q, lanes := l, mover := m, reports := r, bus := b } = f s) : f (takeExportScreen d o s) = f s := by
  unfold takeExportScreen
  repeat' split
  · rw [endExport_unseen _ _ f (fun s q l m r b => h s q l m r b)]
  · exact h s _ _ _ _ _
  · rw [endExport_unseen _ _ f (fun s q l m r b => h s q l m r b)]

@[simp] theorem takeExportScreen_keeps (d : DisplayId) (o : ExportOperands) (s : State) :
    (takeExportScreen d o s).clock = s.clock ∧ (takeExportScreen d o s).ports = s.ports ∧
    (takeExportScreen d o s).soil = s.soil ∧ (takeExportScreen d o s).evalQueue = s.evalQueue ∧
    (takeExportScreen d o s).layouts = s.layouts ∧ (takeExportScreen d o s).displays = s.displays ∧
    (takeExportScreen d o s).cab = s.cab ∧ (takeExportScreen d o s).doors = s.doors ∧
    (takeExportScreen d o s).debounce = s.debounce ∧ (takeExportScreen d o s).stored = s.stored ∧
    (takeExportScreen d o s).calling = s.calling ∧ (takeExportScreen d o s).clear = s.clear ∧
    (takeExportScreen d o s).mode = s.mode ∧ (takeExportScreen d o s).wakeRecord = s.wakeRecord ∧
    (takeExportScreen d o s).wakeCause = s.wakeCause ∧ (takeExportScreen d o s).window = s.window ∧
    (takeExportScreen d o s).frameMem = s.frameMem ∧ (takeExportScreen d o s).pending = s.pending := by
  simpa only [Prod.mk.injEq] using takeExportScreen_unseen d o s (fun s => (
    s.clock, s.ports, s.soil, s.evalQueue, s.layouts, s.displays, s.cab, s.doors, s.debounce, s.stored, s.calling,
    s.clear, s.mode, s.wakeRecord, s.wakeCause, s.window, s.frameMem, s.pending)) fun _ _ _ _ _ _ => rfl

theorem completeExport_unseen (n : Nat) (t : Stamp) (w g : Nat) (s : State) {α : Type} (f : State → α)
    (h : ∀ s q l m r b, f { s with store := q, lanes := l, mover := m, reports := r, bus := b } = f s) : f (completeExport n t w g s) = f s := by
  unfold completeExport
  split
  · rw [endExport_unseen _ _ f (fun s q l m r b => h s q l m r b)]; exact h s _ _ _ _ _
  · rw [exportWriteError_unseen _ f (fun s q l m r b => h s q l m r b)]; exact h s _ _ _ _ _

@[simp] theorem completeExport_keeps (n : Nat) (t : Stamp) (w g : Nat) (s : State) :
    (completeExport n t w g s).clock = s.clock ∧ (completeExport n t w g s).ports = s.ports ∧
    (completeExport n t w g s).soil = s.soil ∧ (completeExport n t w g s).evalQueue = s.evalQueue ∧
    (completeExport n t w g s).layouts = s.layouts ∧ (completeExport n t w g s).displays = s.displays ∧
    (completeExport n t w g s).cab = s.cab ∧ (completeExport n t w g s).doors = s.doors ∧
    (completeExport n t w g s).debounce = s.debounce ∧ (completeExport n t w g s).stored = s.stored ∧
    (completeExport n t w g s).calling = s.calling ∧ (completeExport n t w g s).clear = s.clear ∧
    (completeExport n t w g s).mode = s.mode ∧ (completeExport n t w g s).wakeRecord = s.wakeRecord ∧
    (completeExport n t w g s).wakeCause = s.wakeCause ∧ (completeExport n t w g s).window = s.window ∧
    (completeExport n t w g s).frameMem = s.frameMem ∧ (completeExport n t w g s).pending = s.pending := by
  simpa only [Prod.mk.injEq] using completeExport_unseen n t w g s (fun s => (
    s.clock, s.ports, s.soil, s.evalQueue, s.layouts, s.displays, s.cab, s.doors, s.debounce, s.stored, s.calling,
    s.clear, s.mode, s.wakeRecord, s.wakeCause, s.window, s.frameMem, s.pending)) fun _ _ _ _ _ _ => rfl

theorem exportAtEnd_unseen (d : DisplayId) (s : State) {α : Type} (f : State → α)
    (h : ∀ s q l m r b, f { s with store := q, lanes := l, mover := m, reports := r, bus := b } = f s) : f (exportAtEnd d s) = f s := by
  unfold exportAtEnd
  repeat' split
  all_goals first | rfl | rw [completeExport_unseen _ _ _ _ _ f (fun s q l m r b => h s q l m r b)]

@[simp] theorem exportAtEnd_keeps (d : DisplayId) (s : State) :
    (exportAtEnd d s).clock = s.clock ∧ (exportAtEnd d s).ports = s.ports ∧ (exportAtEnd d s).soil = s.soil ∧
    (exportAtEnd d s).evalQueue = s.evalQueue ∧ (exportAtEnd d s).layouts = s.layouts ∧
    (exportAtEnd d s).displays = s.displays ∧ (exportAtEnd d s).cab = s.cab ∧ (exportAtEnd d s).doors = s.doors ∧
    (exportAtEnd d s).debounce = s.debounce ∧ (exportAtEnd d s).stored = s.stored ∧
    (exportAtEnd d s).calling = s.calling ∧ (exportAtEnd d s).clear = s.clear ∧ (exportAtEnd d s).mode = s.mode ∧
    (exportAtEnd d s).wakeRecord = s.wakeRecord ∧ (exportAtEnd d s).wakeCause = s.wakeCause ∧
    (exportAtEnd d s).window = s.window ∧ (exportAtEnd d s).frameMem = s.frameMem ∧
    (exportAtEnd d s).pending = s.pending := by
  simpa only [Prod.mk.injEq] using exportAtEnd_unseen d s (fun s => (
    s.clock, s.ports, s.soil, s.evalQueue, s.layouts, s.displays, s.cab, s.doors, s.debounce, s.stored, s.calling,
    s.clear, s.mode, s.wakeRecord, s.wakeCause, s.window, s.frameMem, s.pending)) fun _ _ _ _ _ _ => rfl

/-! ## Lane 0 blocks -/

theorem defineCamera_unseen (p : PortId) (c : CameraRecord) (s : State) {α : Type} (f : State → α)
    (h : ∀ s p o r, f { s with ports := p, soil := o, reports := r } = f s) : f (defineCamera p c s) = f s := by
  unfold defineCamera
  dsimp only
  rw [announceCamera_unseen _ _ f (fun s r => h s s.ports s.soil r)]
  split
  · rw [discardReference_unseen _ _ f (fun s o r => h s s.ports o r)]; exact h s _ _ _
  · exact h s _ _ _

@[simp] theorem defineCamera_keeps (p : PortId) (c : CameraRecord) (s : State) :
    (defineCamera p c s).clock = s.clock ∧ (defineCamera p c s).store = s.store ∧
    (defineCamera p c s).evalQueue = s.evalQueue ∧ (defineCamera p c s).layouts = s.layouts ∧
    (defineCamera p c s).displays = s.displays ∧ (defineCamera p c s).cab = s.cab ∧
    (defineCamera p c s).doors = s.doors ∧ (defineCamera p c s).debounce = s.debounce ∧
    (defineCamera p c s).stored = s.stored ∧ (defineCamera p c s).calling = s.calling ∧
    (defineCamera p c s).clear = s.clear ∧ (defineCamera p c s).mode = s.mode ∧
    (defineCamera p c s).wakeRecord = s.wakeRecord ∧ (defineCamera p c s).wakeCause = s.wakeCause ∧
    (defineCamera p c s).window = s.window ∧ (defineCamera p c s).lanes = s.lanes ∧
    (defineCamera p c s).mover = s.mover ∧ (defineCamera p c s).frameMem = s.frameMem ∧
    (defineCamera p c s).bus = s.bus ∧ (defineCamera p c s).pending = s.pending := by
  simpa only [Prod.mk.injEq] using defineCamera_unseen p c s (fun s => (
    s.clock, s.store, s.evalQueue, s.layouts, s.displays, s.cab, s.doors, s.debounce, s.stored, s.calling, s.clear,
    s.mode, s.wakeRecord, s.wakeCause, s.window, s.lanes, s.mover, s.frameMem, s.bus, s.pending)) fun _ _ _ _ => rfl

theorem beginLearning_unseen (p : PortId) (k : Nat) (s : State) {α : Type} (f : State → α)
    (h : ∀ s o r, f { s with soil := o, reports := r } = f s) : f (beginLearning p k s) = f s := by
  unfold beginLearning
  dsimp only
  rw [updateSoil_unseen _ _ _ _ f (fun s o r => h s o r)]

@[simp] theorem beginLearning_keeps (p : PortId) (k : Nat) (s : State) :
    (beginLearning p k s).clock = s.clock ∧ (beginLearning p k s).ports = s.ports ∧
    (beginLearning p k s).store = s.store ∧ (beginLearning p k s).evalQueue = s.evalQueue ∧
    (beginLearning p k s).layouts = s.layouts ∧ (beginLearning p k s).displays = s.displays ∧
    (beginLearning p k s).cab = s.cab ∧ (beginLearning p k s).doors = s.doors ∧
    (beginLearning p k s).debounce = s.debounce ∧ (beginLearning p k s).stored = s.stored ∧
    (beginLearning p k s).calling = s.calling ∧ (beginLearning p k s).clear = s.clear ∧
    (beginLearning p k s).mode = s.mode ∧ (beginLearning p k s).wakeRecord = s.wakeRecord ∧
    (beginLearning p k s).wakeCause = s.wakeCause ∧ (beginLearning p k s).window = s.window ∧
    (beginLearning p k s).lanes = s.lanes ∧ (beginLearning p k s).mover = s.mover ∧
    (beginLearning p k s).frameMem = s.frameMem ∧ (beginLearning p k s).bus = s.bus ∧
    (beginLearning p k s).pending = s.pending := by
  simpa only [Prod.mk.injEq] using beginLearning_unseen p k s (fun s => (
    s.clock, s.ports, s.store, s.evalQueue, s.layouts, s.displays, s.cab, s.doors, s.debounce, s.stored, s.calling,
    s.clear, s.mode, s.wakeRecord, s.wakeCause, s.window, s.lanes, s.mover, s.frameMem, s.bus, s.pending)) fun _ _ _ => rfl

theorem setReference_unseen (p : PortId) (v : Vector Nat 48) (s : State) {α : Type} (f : State → α)
    (h : ∀ s o r, f { s with soil := o, reports := r } = f s) : f (setReference p v s) = f s := by
  rw [setReference, mark_unseen _ _ f (fun s r => h s s.soil r), updateSoil_unseen _ _ _ _ f (fun s o r => h s o r)]

@[simp] theorem setReference_keeps (p : PortId) (v : Vector Nat 48) (s : State) :
    (setReference p v s).clock = s.clock ∧ (setReference p v s).ports = s.ports ∧
    (setReference p v s).store = s.store ∧ (setReference p v s).evalQueue = s.evalQueue ∧
    (setReference p v s).layouts = s.layouts ∧ (setReference p v s).displays = s.displays ∧
    (setReference p v s).cab = s.cab ∧ (setReference p v s).doors = s.doors ∧
    (setReference p v s).debounce = s.debounce ∧ (setReference p v s).stored = s.stored ∧
    (setReference p v s).calling = s.calling ∧ (setReference p v s).clear = s.clear ∧
    (setReference p v s).mode = s.mode ∧ (setReference p v s).wakeRecord = s.wakeRecord ∧
    (setReference p v s).wakeCause = s.wakeCause ∧ (setReference p v s).window = s.window ∧
    (setReference p v s).lanes = s.lanes ∧ (setReference p v s).mover = s.mover ∧
    (setReference p v s).frameMem = s.frameMem ∧ (setReference p v s).bus = s.bus ∧
    (setReference p v s).pending = s.pending := by
  simpa only [Prod.mk.injEq] using setReference_unseen p v s (fun s => (
    s.clock, s.ports, s.store, s.evalQueue, s.layouts, s.displays, s.cab, s.doors, s.debounce, s.stored, s.calling,
    s.clear, s.mode, s.wakeRecord, s.wakeCause, s.window, s.lanes, s.mover, s.frameMem, s.bus, s.pending)) fun _ _ _ => rfl

theorem setLimits_unseen (p : PortId) (v : SoilLimits) (s : State) {α : Type} (f : State → α)
    (h : ∀ s o r, f { s with soil := o, reports := r } = f s) : f (setLimits p v s) = f s := by
  unfold setLimits
  dsimp only
  repeat' split
  all_goals first | exact h s _ _ | rw [updateSoil_unseen _ _ _ _ f (fun s o r => h s o r)]

@[simp] theorem setLimits_keeps (p : PortId) (v : SoilLimits) (s : State) :
    (setLimits p v s).clock = s.clock ∧ (setLimits p v s).ports = s.ports ∧ (setLimits p v s).store = s.store ∧
    (setLimits p v s).evalQueue = s.evalQueue ∧ (setLimits p v s).layouts = s.layouts ∧
    (setLimits p v s).displays = s.displays ∧ (setLimits p v s).cab = s.cab ∧ (setLimits p v s).doors = s.doors ∧
    (setLimits p v s).debounce = s.debounce ∧ (setLimits p v s).stored = s.stored ∧
    (setLimits p v s).calling = s.calling ∧ (setLimits p v s).clear = s.clear ∧ (setLimits p v s).mode = s.mode ∧
    (setLimits p v s).wakeRecord = s.wakeRecord ∧ (setLimits p v s).wakeCause = s.wakeCause ∧
    (setLimits p v s).window = s.window ∧ (setLimits p v s).lanes = s.lanes ∧ (setLimits p v s).mover = s.mover ∧
    (setLimits p v s).frameMem = s.frameMem ∧ (setLimits p v s).bus = s.bus ∧
    (setLimits p v s).pending = s.pending := by
  simpa only [Prod.mk.injEq] using setLimits_unseen p v s (fun s => (
    s.clock, s.ports, s.store, s.evalQueue, s.layouts, s.displays, s.cab, s.doors, s.debounce, s.stored, s.calling,
    s.clear, s.mode, s.wakeRecord, s.wakeCause, s.window, s.lanes, s.mover, s.frameMem, s.bus, s.pending)) fun _ _ _ => rfl

theorem setLayout_unseen (y : LayoutId) (v : Layout) (s : State) {α : Type} (f : State → α)
    (h : ∀ s z, f { s with layouts := z } = f s) : f (setLayout y v s) = f s := by
  exact h s _

@[simp] theorem setLayout_keeps (y : LayoutId) (v : Layout) (s : State) :
    (setLayout y v s).clock = s.clock ∧ (setLayout y v s).ports = s.ports ∧ (setLayout y v s).store = s.store ∧
    (setLayout y v s).soil = s.soil ∧ (setLayout y v s).evalQueue = s.evalQueue ∧
    (setLayout y v s).displays = s.displays ∧ (setLayout y v s).cab = s.cab ∧ (setLayout y v s).doors = s.doors ∧
    (setLayout y v s).debounce = s.debounce ∧ (setLayout y v s).stored = s.stored ∧
    (setLayout y v s).calling = s.calling ∧ (setLayout y v s).clear = s.clear ∧ (setLayout y v s).mode = s.mode ∧
    (setLayout y v s).wakeRecord = s.wakeRecord ∧ (setLayout y v s).wakeCause = s.wakeCause ∧
    (setLayout y v s).window = s.window ∧ (setLayout y v s).lanes = s.lanes ∧ (setLayout y v s).mover = s.mover ∧
    (setLayout y v s).reports = s.reports ∧ (setLayout y v s).frameMem = s.frameMem ∧ (setLayout y v s).bus = s.bus ∧
    (setLayout y v s).pending = s.pending := by
  simpa only [Prod.mk.injEq] using setLayout_unseen y v s (fun s => (
    s.clock, s.ports, s.store, s.soil, s.evalQueue, s.displays, s.cab, s.doors, s.debounce, s.stored, s.calling,
    s.clear, s.mode, s.wakeRecord, s.wakeCause, s.window, s.lanes, s.mover, s.reports, s.frameMem, s.bus, s.pending)) fun _ _ => rfl

theorem overrideAfter_unseen (a b : Bool) (d : DisplayId) (s : State) {α : Type} (f : State → α)
    (h : ∀ s d, f { s with displays := d } = f s) : f (overrideAfter a b d s) = f s := by
  unfold overrideAfter
  split
  · rfl
  · exact h s _

@[simp] theorem overrideAfter_keeps (a b : Bool) (d : DisplayId) (s : State) :
    (overrideAfter a b d s).clock = s.clock ∧ (overrideAfter a b d s).ports = s.ports ∧
    (overrideAfter a b d s).store = s.store ∧ (overrideAfter a b d s).soil = s.soil ∧
    (overrideAfter a b d s).evalQueue = s.evalQueue ∧ (overrideAfter a b d s).layouts = s.layouts ∧
    (overrideAfter a b d s).cab = s.cab ∧ (overrideAfter a b d s).doors = s.doors ∧
    (overrideAfter a b d s).debounce = s.debounce ∧ (overrideAfter a b d s).stored = s.stored ∧
    (overrideAfter a b d s).calling = s.calling ∧ (overrideAfter a b d s).clear = s.clear ∧
    (overrideAfter a b d s).mode = s.mode ∧ (overrideAfter a b d s).wakeRecord = s.wakeRecord ∧
    (overrideAfter a b d s).wakeCause = s.wakeCause ∧ (overrideAfter a b d s).window = s.window ∧
    (overrideAfter a b d s).lanes = s.lanes ∧ (overrideAfter a b d s).mover = s.mover ∧
    (overrideAfter a b d s).reports = s.reports ∧ (overrideAfter a b d s).frameMem = s.frameMem ∧
    (overrideAfter a b d s).bus = s.bus ∧ (overrideAfter a b d s).pending = s.pending := by
  simpa only [Prod.mk.injEq] using overrideAfter_unseen a b d s (fun s => (
    s.clock, s.ports, s.store, s.soil, s.evalQueue, s.layouts, s.cab, s.doors, s.debounce, s.stored, s.calling,
    s.clear, s.mode, s.wakeRecord, s.wakeCause, s.window, s.lanes, s.mover, s.reports, s.frameMem, s.bus, s.pending)) fun _ _ => rfl

theorem setDisplay_unseen (d : DisplayId) (v : DisplaySettings) (s : State) {α : Type} (f : State → α)
    (h : ∀ s q d k t c v l m r b, f { s with store := q, displays := d, doors := k, stored := t, calling := c, clear := v, lanes := l, mover := m, reports := r, bus := b } = f s) : f (setDisplay d v s) = f s := by
  unfold setDisplay
  dsimp only
  split
  · rw [overrideAfter_unseen _ _ _ _ f (fun s d => h s s.store d s.doors s.stored s.calling s.clear s.lanes s.mover s.reports s.bus)]
    exact h s _ _ _ _ _ _ _ _ _ _
  · rw [takeFrameStart_unseen _ _ f h, overrideAfter_unseen _ _ _ _ f (fun s d => h s s.store d s.doors s.stored s.calling s.clear s.lanes s.mover s.reports s.bus)]
    exact h s _ _ _ _ _ _ _ _ _ _

@[simp] theorem setDisplay_keeps (d : DisplayId) (v : DisplaySettings) (s : State) :
    (setDisplay d v s).clock = s.clock ∧ (setDisplay d v s).ports = s.ports ∧ (setDisplay d v s).soil = s.soil ∧
    (setDisplay d v s).evalQueue = s.evalQueue ∧ (setDisplay d v s).layouts = s.layouts ∧
    (setDisplay d v s).cab = s.cab ∧ (setDisplay d v s).debounce = s.debounce ∧ (setDisplay d v s).mode = s.mode ∧
    (setDisplay d v s).wakeRecord = s.wakeRecord ∧ (setDisplay d v s).wakeCause = s.wakeCause ∧
    (setDisplay d v s).window = s.window ∧ (setDisplay d v s).frameMem = s.frameMem ∧
    (setDisplay d v s).pending = s.pending := by
  simpa only [Prod.mk.injEq] using setDisplay_unseen d v s (fun s => (
    s.clock, s.ports, s.soil, s.evalQueue, s.layouts, s.cab, s.debounce, s.mode, s.wakeRecord, s.wakeCause, s.window,
    s.frameMem, s.pending)) fun _ _ _ _ _ _ _ _ _ _ _ => rfl

theorem handoverDoors_unseen (s : State) {α : Type} (f : State → α)
    (h : ∀ s k t, f { s with doors := k, stored := t } = f s) : f (handoverDoors s) = f s := by
  exact h s _ _

@[simp] theorem handoverDoors_keeps (s : State) :
    (handoverDoors s).clock = s.clock ∧ (handoverDoors s).ports = s.ports ∧ (handoverDoors s).store = s.store ∧
    (handoverDoors s).soil = s.soil ∧ (handoverDoors s).evalQueue = s.evalQueue ∧
    (handoverDoors s).layouts = s.layouts ∧ (handoverDoors s).displays = s.displays ∧ (handoverDoors s).cab = s.cab ∧
    (handoverDoors s).debounce = s.debounce ∧ (handoverDoors s).calling = s.calling ∧
    (handoverDoors s).clear = s.clear ∧ (handoverDoors s).mode = s.mode ∧
    (handoverDoors s).wakeRecord = s.wakeRecord ∧ (handoverDoors s).wakeCause = s.wakeCause ∧
    (handoverDoors s).window = s.window ∧ (handoverDoors s).lanes = s.lanes ∧ (handoverDoors s).mover = s.mover ∧
    (handoverDoors s).reports = s.reports ∧ (handoverDoors s).frameMem = s.frameMem ∧ (handoverDoors s).bus = s.bus ∧
    (handoverDoors s).pending = s.pending := by
  simpa only [Prod.mk.injEq] using handoverDoors_unseen s (fun s => (
    s.clock, s.ports, s.store, s.soil, s.evalQueue, s.layouts, s.displays, s.cab, s.debounce, s.calling, s.clear,
    s.mode, s.wakeRecord, s.wakeCause, s.window, s.lanes, s.mover, s.reports, s.frameMem, s.bus, s.pending)) fun _ _ _ => rfl

theorem stopForeignExport_unseen (s : State) {α : Type} (f : State → α)
    (h : ∀ s q l m r b, f { s with store := q, lanes := l, mover := m, reports := r, bus := b } = f s) : f (stopForeignExport s) = f s := by
  unfold stopForeignExport
  repeat' split
  all_goals first | rfl | rw [endExport_unseen _ _ f (fun s q l m r b => h s q l m r b)]

@[simp] theorem stopForeignExport_keeps (s : State) :
    (stopForeignExport s).clock = s.clock ∧ (stopForeignExport s).ports = s.ports ∧
    (stopForeignExport s).soil = s.soil ∧ (stopForeignExport s).evalQueue = s.evalQueue ∧
    (stopForeignExport s).layouts = s.layouts ∧ (stopForeignExport s).displays = s.displays ∧
    (stopForeignExport s).cab = s.cab ∧ (stopForeignExport s).doors = s.doors ∧
    (stopForeignExport s).debounce = s.debounce ∧ (stopForeignExport s).stored = s.stored ∧
    (stopForeignExport s).calling = s.calling ∧ (stopForeignExport s).clear = s.clear ∧
    (stopForeignExport s).mode = s.mode ∧ (stopForeignExport s).wakeRecord = s.wakeRecord ∧
    (stopForeignExport s).wakeCause = s.wakeCause ∧ (stopForeignExport s).window = s.window ∧
    (stopForeignExport s).frameMem = s.frameMem ∧ (stopForeignExport s).pending = s.pending := by
  simpa only [Prod.mk.injEq] using stopForeignExport_unseen s (fun s => (
    s.clock, s.ports, s.soil, s.evalQueue, s.layouts, s.displays, s.cab, s.doors, s.debounce, s.stored, s.calling,
    s.clear, s.mode, s.wakeRecord, s.wakeCause, s.window, s.frameMem, s.pending)) fun _ _ _ _ _ _ => rfl

theorem handover_unseen (y : Option AB) (s : State) {α : Type} (f : State → α)
    (h : ∀ s q d x k t c v l m r b, f { s with store := q, displays := d, cab := x, doors := k, stored := t, calling := c, clear := v, lanes := l, mover := m, reports := r, bus := b } = f s) : f (handover y s) = f s := by
  unfold handover
  dsimp only
  rw [raise_unseen _ _ f (fun s r => h s s.store s.displays s.cab s.doors s.stored s.calling s.clear s.lanes s.mover r s.bus),
    mark_unseen _ _ f (fun s r => h s s.store s.displays s.cab s.doors s.stored s.calling s.clear s.lanes s.mover r s.bus),
    stopForeignExport_unseen _ f (fun s q l m r b => h s q s.displays s.cab s.doors s.stored s.calling s.clear l m r b),
    reportDoors_unseen _ _ f (fun s r => h s s.store s.displays s.cab s.doors s.stored s.calling s.clear s.lanes s.mover r s.bus),
    recomputeLines_unseen _ f (fun s v r => h s s.store s.displays s.cab s.doors s.stored s.calling v s.lanes s.mover r s.bus),
    recomputeOverrides_unseen _ f (fun s d c => h s s.store d s.cab s.doors s.stored c s.clear s.lanes s.mover s.reports s.bus),
    handoverDoors_unseen _ f (fun s k t => h s s.store s.displays s.cab k t s.calling s.clear s.lanes s.mover s.reports s.bus)]
  exact h s _ _ _ _ _ _ _ _ _ _ _

@[simp] theorem handover_keeps (y : Option AB) (s : State) :
    (handover y s).clock = s.clock ∧ (handover y s).ports = s.ports ∧ (handover y s).soil = s.soil ∧
    (handover y s).evalQueue = s.evalQueue ∧ (handover y s).layouts = s.layouts ∧
    (handover y s).debounce = s.debounce ∧ (handover y s).mode = s.mode ∧ (handover y s).wakeRecord = s.wakeRecord ∧
    (handover y s).wakeCause = s.wakeCause ∧ (handover y s).window = s.window ∧ (handover y s).frameMem = s.frameMem ∧
    (handover y s).pending = s.pending := by
  simpa only [Prod.mk.injEq] using handover_unseen y s (fun s => (
    s.clock, s.ports, s.soil, s.evalQueue, s.layouts, s.debounce, s.mode, s.wakeRecord, s.wakeCause, s.window,
    s.frameMem, s.pending)) fun _ _ _ _ _ _ _ _ _ _ _ _ => rfl

theorem setDoorPolicy_unseen (v : List Byte) (s : State) {α : Type} (f : State → α)
    (h : ∀ s d k n c v r, f { s with displays := d, doors := k, debounce := n, calling := c, clear := v, reports := r } = f s) : f (setDoorPolicy v s) = f s := by
  rw [setDoorPolicy, doorsChanged_unseen _ _ f (fun s d c v r => h s d s.doors s.debounce c v r)]; exact h s _ _ _ _ _ _

@[simp] theorem setDoorPolicy_keeps (v : List Byte) (s : State) :
    (setDoorPolicy v s).clock = s.clock ∧ (setDoorPolicy v s).ports = s.ports ∧ (setDoorPolicy v s).store = s.store ∧
    (setDoorPolicy v s).soil = s.soil ∧ (setDoorPolicy v s).evalQueue = s.evalQueue ∧
    (setDoorPolicy v s).layouts = s.layouts ∧ (setDoorPolicy v s).cab = s.cab ∧
    (setDoorPolicy v s).stored = s.stored ∧ (setDoorPolicy v s).mode = s.mode ∧
    (setDoorPolicy v s).wakeRecord = s.wakeRecord ∧ (setDoorPolicy v s).wakeCause = s.wakeCause ∧
    (setDoorPolicy v s).window = s.window ∧ (setDoorPolicy v s).lanes = s.lanes ∧
    (setDoorPolicy v s).mover = s.mover ∧ (setDoorPolicy v s).frameMem = s.frameMem ∧
    (setDoorPolicy v s).bus = s.bus ∧ (setDoorPolicy v s).pending = s.pending := by
  simpa only [Prod.mk.injEq] using setDoorPolicy_unseen v s (fun s => (
    s.clock, s.ports, s.store, s.soil, s.evalQueue, s.layouts, s.cab, s.stored, s.mode, s.wakeRecord, s.wakeCause,
    s.window, s.lanes, s.mover, s.frameMem, s.bus, s.pending)) fun _ _ _ _ _ _ _ => rfl

theorem parkRunning_unseen (s : State) (p : PortId) {α : Type} (f : State → α)
    (h : ∀ s p q o e r, f { s with ports := p, store := q, soil := o, evalQueue := e, reports := r } = f s) : f (parkRunning s p) = f s := by
  unfold parkRunning
  split
  · rfl
  · rw [parkPort_unseen _ _ f (fun s p q o e r => h s p q o e r)]

@[simp] theorem parkRunning_keeps (s : State) (p : PortId) :
    (parkRunning s p).clock = s.clock ∧ (parkRunning s p).layouts = s.layouts ∧
    (parkRunning s p).displays = s.displays ∧ (parkRunning s p).cab = s.cab ∧ (parkRunning s p).doors = s.doors ∧
    (parkRunning s p).debounce = s.debounce ∧ (parkRunning s p).stored = s.stored ∧
    (parkRunning s p).calling = s.calling ∧ (parkRunning s p).clear = s.clear ∧ (parkRunning s p).mode = s.mode ∧
    (parkRunning s p).wakeRecord = s.wakeRecord ∧ (parkRunning s p).wakeCause = s.wakeCause ∧
    (parkRunning s p).window = s.window ∧ (parkRunning s p).lanes = s.lanes ∧ (parkRunning s p).mover = s.mover ∧
    (parkRunning s p).frameMem = s.frameMem ∧ (parkRunning s p).bus = s.bus ∧
    (parkRunning s p).pending = s.pending := by
  simpa only [Prod.mk.injEq] using parkRunning_unseen s p (fun s => (
    s.clock, s.layouts, s.displays, s.cab, s.doors, s.debounce, s.stored, s.calling, s.clear, s.mode, s.wakeRecord,
    s.wakeCause, s.window, s.lanes, s.mover, s.frameMem, s.bus, s.pending)) fun _ _ _ _ _ _ => rfl

theorem parkPorts_unseen (ps : List PortId) (s : State) {α : Type} (f : State → α)
    (h : ∀ s p q o e r, f { s with ports := p, store := q, soil := o, evalQueue := e, reports := r } = f s) : f (ps.foldl parkRunning s) = f s := by
  induction ps generalizing s with
  | nil => rfl
  | cons p ps ih => rw [List.foldl_cons, ih, parkRunning_unseen _ _ f h]

@[simp] theorem parkPorts_keeps (ps : List PortId) (s : State) :
    (ps.foldl parkRunning s).clock = s.clock ∧ (ps.foldl parkRunning s).layouts = s.layouts ∧
    (ps.foldl parkRunning s).displays = s.displays ∧ (ps.foldl parkRunning s).cab = s.cab ∧
    (ps.foldl parkRunning s).doors = s.doors ∧ (ps.foldl parkRunning s).debounce = s.debounce ∧
    (ps.foldl parkRunning s).stored = s.stored ∧ (ps.foldl parkRunning s).calling = s.calling ∧
    (ps.foldl parkRunning s).clear = s.clear ∧ (ps.foldl parkRunning s).mode = s.mode ∧
    (ps.foldl parkRunning s).wakeRecord = s.wakeRecord ∧ (ps.foldl parkRunning s).wakeCause = s.wakeCause ∧
    (ps.foldl parkRunning s).window = s.window ∧ (ps.foldl parkRunning s).lanes = s.lanes ∧
    (ps.foldl parkRunning s).mover = s.mover ∧ (ps.foldl parkRunning s).frameMem = s.frameMem ∧
    (ps.foldl parkRunning s).bus = s.bus ∧ (ps.foldl parkRunning s).pending = s.pending := by
  simpa only [Prod.mk.injEq] using parkPorts_unseen ps s (fun s => (
    s.clock, s.layouts, s.displays, s.cab, s.doors, s.debounce, s.stored, s.calling, s.clear, s.mode, s.wakeRecord,
    s.wakeCause, s.window, s.lanes, s.mover, s.frameMem, s.bus, s.pending)) fun _ _ _ _ _ _ => rfl

theorem stopCopying_unseen (s : State) {α : Type} (f : State → α)
    (h : ∀ s q l m r b, f { s with store := q, lanes := l, mover := m, reports := r, bus := b } = f s) : f (stopCopying s) = f s := by
  unfold stopCopying
  repeat' split
  all_goals first | rfl | rw [endExport_unseen _ _ f (fun s q l m r b => h s q l m r b)]

@[simp] theorem stopCopying_keeps (s : State) :
    (stopCopying s).clock = s.clock ∧ (stopCopying s).ports = s.ports ∧ (stopCopying s).soil = s.soil ∧
    (stopCopying s).evalQueue = s.evalQueue ∧ (stopCopying s).layouts = s.layouts ∧
    (stopCopying s).displays = s.displays ∧ (stopCopying s).cab = s.cab ∧ (stopCopying s).doors = s.doors ∧
    (stopCopying s).debounce = s.debounce ∧ (stopCopying s).stored = s.stored ∧ (stopCopying s).calling = s.calling ∧
    (stopCopying s).clear = s.clear ∧ (stopCopying s).mode = s.mode ∧ (stopCopying s).wakeRecord = s.wakeRecord ∧
    (stopCopying s).wakeCause = s.wakeCause ∧ (stopCopying s).window = s.window ∧
    (stopCopying s).frameMem = s.frameMem ∧ (stopCopying s).pending = s.pending := by
  simpa only [Prod.mk.injEq] using stopCopying_unseen s (fun s => (
    s.clock, s.ports, s.soil, s.evalQueue, s.layouts, s.displays, s.cab, s.doors, s.debounce, s.stored, s.calling,
    s.clear, s.mode, s.wakeRecord, s.wakeCause, s.window, s.frameMem, s.pending)) fun _ _ _ _ _ _ => rfl

theorem enterStabling_unseen (s : State) {α : Type} (f : State → α)
    (h : ∀ s p q o e v y a l m r b, f { s with ports := p, store := q, soil := o, evalQueue := e, clear := v, mode := y, wakeRecord := a, lanes := l, mover := m, reports := r, bus := b } = f s) : f (enterStabling s) = f s := by
  unfold enterStabling
  dsimp only
  have hp : ∀ t, f ((List.finRange 12).foldl parkRunning t) = f t := fun t => parkPorts_unseen _ _ f (fun s p q o e r => h s p q o e s.clear s.mode s.wakeRecord s.lanes s.mover r s.bus)
  rw [mark_unseen _ _ f (fun s r => h s s.ports s.store s.soil s.evalQueue s.clear s.mode s.wakeRecord s.lanes s.mover r s.bus),
    stopCopying_unseen _ f (fun s q l m r b => h s s.ports q s.soil s.evalQueue s.clear s.mode s.wakeRecord l m r b),
    recomputeLines_unseen _ f (fun s v r => h s s.ports s.store s.soil s.evalQueue v s.mode s.wakeRecord s.lanes s.mover r s.bus)]
  refine (h ((List.finRange 12).foldl parkRunning _) _ _ _ _ _ _ _ _ _ _ _).trans ((hp _).trans ?_)
  exact h s _ _ _ _ _ _ _ _ _ _ _

@[simp] theorem enterStabling_keeps (s : State) :
    (enterStabling s).clock = s.clock ∧ (enterStabling s).layouts = s.layouts ∧
    (enterStabling s).displays = s.displays ∧ (enterStabling s).cab = s.cab ∧ (enterStabling s).doors = s.doors ∧
    (enterStabling s).debounce = s.debounce ∧ (enterStabling s).stored = s.stored ∧
    (enterStabling s).calling = s.calling ∧ (enterStabling s).wakeCause = s.wakeCause ∧
    (enterStabling s).window = s.window ∧ (enterStabling s).frameMem = s.frameMem ∧
    (enterStabling s).pending = s.pending := by
  simpa only [Prod.mk.injEq] using enterStabling_unseen s (fun s => (
    s.clock, s.layouts, s.displays, s.cab, s.doors, s.debounce, s.stored, s.calling, s.wakeCause, s.window,
    s.frameMem, s.pending)) fun _ _ _ _ _ _ _ _ _ _ _ _ => rfl

end Sys2Proof.Machine
end

