-- ==== Sys2Proof/Laws/Attention.lean ====
section
/-! SUPPORT. What the takes of the attention words leave. A lemma `_unseen` says that an observation blind to the fields an operation writes does not see the operation;
a lemma `_keeps` lists the fields it leaves. -/

namespace Sys2Proof.Machine

/-! ## Attention words -/

theorem appendHead_unseen (l : LaneId) (w : Word) (s : State) {α : Type} (f : State → α)
    (h : ∀ s l r, f { s with lanes := l, reports := r } = f s) : f (appendHead l w s) = f s := by
  rw [appendHead, takeUp_unseen _ _ f (fun s l r => h s l r), updateLane_unseen _ _ _ f (fun s l r => h s l r)]

@[simp] theorem appendHead_keeps (l : LaneId) (w : Word) (s : State) :
    (appendHead l w s).clock = s.clock ∧ (appendHead l w s).ports = s.ports ∧ (appendHead l w s).store = s.store ∧
    (appendHead l w s).soil = s.soil ∧ (appendHead l w s).evalQueue = s.evalQueue ∧
    (appendHead l w s).layouts = s.layouts ∧ (appendHead l w s).displays = s.displays ∧
    (appendHead l w s).cab = s.cab ∧ (appendHead l w s).doors = s.doors ∧ (appendHead l w s).debounce = s.debounce ∧
    (appendHead l w s).stored = s.stored ∧ (appendHead l w s).calling = s.calling ∧
    (appendHead l w s).clear = s.clear ∧ (appendHead l w s).mode = s.mode ∧
    (appendHead l w s).wakeRecord = s.wakeRecord ∧ (appendHead l w s).wakeCause = s.wakeCause ∧
    (appendHead l w s).window = s.window ∧ (appendHead l w s).mover = s.mover ∧
    (appendHead l w s).frameMem = s.frameMem ∧ (appendHead l w s).bus = s.bus ∧
    (appendHead l w s).pending = s.pending := by
  simpa only [Prod.mk.injEq] using appendHead_unseen l w s (fun s => (
    s.clock, s.ports, s.store, s.soil, s.evalQueue, s.layouts, s.displays, s.cab, s.doors, s.debounce, s.stored,
    s.calling, s.clear, s.mode, s.wakeRecord, s.wakeCause, s.window, s.mover, s.frameMem, s.bus, s.pending)) fun _ _ _ => rfl

theorem clearBusy_unseen (s : State) {α : Type} (f : State → α)
    (h : ∀ s w, f { s with window := w } = f s) : f (clearBusy s) = f s := by
  exact h s _

@[simp] theorem clearBusy_keeps (s : State) :
    (clearBusy s).clock = s.clock ∧ (clearBusy s).ports = s.ports ∧ (clearBusy s).store = s.store ∧
    (clearBusy s).soil = s.soil ∧ (clearBusy s).evalQueue = s.evalQueue ∧ (clearBusy s).layouts = s.layouts ∧
    (clearBusy s).displays = s.displays ∧ (clearBusy s).cab = s.cab ∧ (clearBusy s).doors = s.doors ∧
    (clearBusy s).debounce = s.debounce ∧ (clearBusy s).stored = s.stored ∧ (clearBusy s).calling = s.calling ∧
    (clearBusy s).clear = s.clear ∧ (clearBusy s).mode = s.mode ∧ (clearBusy s).wakeRecord = s.wakeRecord ∧
    (clearBusy s).wakeCause = s.wakeCause ∧ (clearBusy s).lanes = s.lanes ∧ (clearBusy s).mover = s.mover ∧
    (clearBusy s).reports = s.reports ∧ (clearBusy s).frameMem = s.frameMem ∧ (clearBusy s).bus = s.bus ∧
    (clearBusy s).pending = s.pending := by
  simpa only [Prod.mk.injEq] using clearBusy_unseen s (fun s => (
    s.clock, s.ports, s.store, s.soil, s.evalQueue, s.layouts, s.displays, s.cab, s.doors, s.debounce, s.stored,
    s.calling, s.clear, s.mode, s.wakeRecord, s.wakeCause, s.lanes, s.mover, s.reports, s.frameMem, s.bus, s.pending)) fun _ _ => rfl

theorem runChain_unseen (w g : Word) (s : State) {α : Type} (f : State → α)
    (h : ∀ s p v y a u w l r, f { s with ports := p, clear := v, mode := y, wakeRecord := a, wakeCause := u, window := w, lanes := l, reports := r } = f s) : f (runChain w g s) = f s := by
  unfold runChain
  repeat' split
  · rw [dropWord_unseen _ _ f (fun s w => h s s.ports s.clear s.mode s.wakeRecord s.wakeCause w s.lanes s.reports)]
  · rw [dropWord_unseen _ _ f (fun s w => h s s.ports s.clear s.mode s.wakeRecord s.wakeCause w s.lanes s.reports)]
  · rw [dropWord_unseen _ _ f (fun s w => h s s.ports s.clear s.mode s.wakeRecord s.wakeCause w s.lanes s.reports)]
  · rw [appendHead_unseen _ _ _ f (fun s l r => h s s.ports s.clear s.mode s.wakeRecord s.wakeCause s.window l r), wakePart_unseen _ _ f (fun s p v y a u r => h s p v y a u s.window s.lanes r)]

@[simp] theorem runChain_keeps (w g : Word) (s : State) :
    (runChain w g s).clock = s.clock ∧ (runChain w g s).store = s.store ∧ (runChain w g s).soil = s.soil ∧
    (runChain w g s).evalQueue = s.evalQueue ∧ (runChain w g s).layouts = s.layouts ∧
    (runChain w g s).displays = s.displays ∧ (runChain w g s).cab = s.cab ∧ (runChain w g s).doors = s.doors ∧
    (runChain w g s).debounce = s.debounce ∧ (runChain w g s).stored = s.stored ∧
    (runChain w g s).calling = s.calling ∧ (runChain w g s).mover = s.mover ∧ (runChain w g s).frameMem = s.frameMem ∧
    (runChain w g s).bus = s.bus ∧ (runChain w g s).pending = s.pending := by
  simpa only [Prod.mk.injEq] using runChain_unseen w g s (fun s => (
    s.clock, s.store, s.soil, s.evalQueue, s.layouts, s.displays, s.cab, s.doors, s.debounce, s.stored, s.calling,
    s.mover, s.frameMem, s.bus, s.pending)) fun _ _ _ _ _ _ _ _ _ => rfl

theorem haltByWord_unseen (w g : Word) (s : State) {α : Type} (f : State → α)
    (h : ∀ s q w l m r b, f { s with store := q, window := w, lanes := l, mover := m, reports := r, bus := b } = f s) : f (haltByWord w g s) = f s := by
  unfold haltByWord
  split
  · rw [dropWord_unseen _ _ f (fun s w => h s s.store w s.lanes s.mover s.reports s.bus)]
  · rw [haltLane_unseen _ _ _ f (fun s q l m r b => h s q s.window l m r b)]

@[simp] theorem haltByWord_keeps (w g : Word) (s : State) :
    (haltByWord w g s).clock = s.clock ∧ (haltByWord w g s).ports = s.ports ∧ (haltByWord w g s).soil = s.soil ∧
    (haltByWord w g s).evalQueue = s.evalQueue ∧ (haltByWord w g s).layouts = s.layouts ∧
    (haltByWord w g s).displays = s.displays ∧ (haltByWord w g s).cab = s.cab ∧ (haltByWord w g s).doors = s.doors ∧
    (haltByWord w g s).debounce = s.debounce ∧ (haltByWord w g s).stored = s.stored ∧
    (haltByWord w g s).calling = s.calling ∧ (haltByWord w g s).clear = s.clear ∧ (haltByWord w g s).mode = s.mode ∧
    (haltByWord w g s).wakeRecord = s.wakeRecord ∧ (haltByWord w g s).wakeCause = s.wakeCause ∧
    (haltByWord w g s).frameMem = s.frameMem ∧ (haltByWord w g s).pending = s.pending := by
  simpa only [Prod.mk.injEq] using haltByWord_unseen w g s (fun s => (
    s.clock, s.ports, s.soil, s.evalQueue, s.layouts, s.displays, s.cab, s.doors, s.debounce, s.stored, s.calling,
    s.clear, s.mode, s.wakeRecord, s.wakeCause, s.frameMem, s.pending)) fun _ _ _ _ _ _ _ => rfl

theorem acknowledge_unseen (w g : Word) (s : State) {α : Type} (f : State → α)
    (h : ∀ s r, f { s with reports := r } = f s) : f (acknowledge w g s) = f s := by
  rw [acknowledge, mark_unseen _ _ f (fun s r => h s r)]; exact h s _

@[simp] theorem acknowledge_keeps (w g : Word) (s : State) :
    (acknowledge w g s).clock = s.clock ∧ (acknowledge w g s).ports = s.ports ∧ (acknowledge w g s).store = s.store ∧
    (acknowledge w g s).soil = s.soil ∧ (acknowledge w g s).evalQueue = s.evalQueue ∧
    (acknowledge w g s).layouts = s.layouts ∧ (acknowledge w g s).displays = s.displays ∧
    (acknowledge w g s).cab = s.cab ∧ (acknowledge w g s).doors = s.doors ∧
    (acknowledge w g s).debounce = s.debounce ∧ (acknowledge w g s).stored = s.stored ∧
    (acknowledge w g s).calling = s.calling ∧ (acknowledge w g s).clear = s.clear ∧
    (acknowledge w g s).mode = s.mode ∧ (acknowledge w g s).wakeRecord = s.wakeRecord ∧
    (acknowledge w g s).wakeCause = s.wakeCause ∧ (acknowledge w g s).window = s.window ∧
    (acknowledge w g s).lanes = s.lanes ∧ (acknowledge w g s).mover = s.mover ∧
    (acknowledge w g s).frameMem = s.frameMem ∧ (acknowledge w g s).bus = s.bus ∧
    (acknowledge w g s).pending = s.pending := by
  simpa only [Prod.mk.injEq] using acknowledge_unseen w g s (fun s => (
    s.clock, s.ports, s.store, s.soil, s.evalQueue, s.layouts, s.displays, s.cab, s.doors, s.debounce, s.stored,
    s.calling, s.clear, s.mode, s.wakeRecord, s.wakeCause, s.window, s.lanes, s.mover, s.frameMem, s.bus, s.pending)) fun _ _ => rfl

theorem restartAll_unseen (s : State) {α : Type} (f : State → α)
    (h : ∀ s q w l m r b, f { s with store := q, window := w, lanes := l, mover := m, reports := r, bus := b } = f s) : f (restartAll s) = f s := by
  unfold restartAll
  dsimp only
  have hh : ∀ l g t, f (haltLane l g t) = f t := fun l g t => haltLane_unseen _ _ _ f (fun s q l m r b => h s q s.window l m r b)
  split
  · rw [fullReport_unseen _ _ f (fun s r => h s s.store s.window s.lanes s.mover r s.bus)]
    refine (h (haltLane 1 _ (haltLane 0 _ s)) _ _ _ _ _ _).trans ?_
    rw [hh, hh]
  · refine (h (haltLane 1 _ (haltLane 0 _ s)) _ _ _ _ _ _).trans ?_
    rw [hh, hh]

@[simp] theorem restartAll_keeps (s : State) :
    (restartAll s).clock = s.clock ∧ (restartAll s).ports = s.ports ∧ (restartAll s).soil = s.soil ∧
    (restartAll s).evalQueue = s.evalQueue ∧ (restartAll s).layouts = s.layouts ∧
    (restartAll s).displays = s.displays ∧ (restartAll s).cab = s.cab ∧ (restartAll s).doors = s.doors ∧
    (restartAll s).debounce = s.debounce ∧ (restartAll s).stored = s.stored ∧ (restartAll s).calling = s.calling ∧
    (restartAll s).clear = s.clear ∧ (restartAll s).mode = s.mode ∧ (restartAll s).wakeRecord = s.wakeRecord ∧
    (restartAll s).wakeCause = s.wakeCause ∧ (restartAll s).frameMem = s.frameMem ∧
    (restartAll s).pending = s.pending := by
  simpa only [Prod.mk.injEq] using restartAll_unseen s (fun s => (
    s.clock, s.ports, s.soil, s.evalQueue, s.layouts, s.displays, s.cab, s.doors, s.debounce, s.stored, s.calling,
    s.clear, s.mode, s.wakeRecord, s.wakeCause, s.frameMem, s.pending)) fun _ _ _ _ _ _ _ => rfl

theorem restartByWord_unseen (w g : Word) (s : State) {α : Type} (f : State → α)
    (h : ∀ s p q o e w l m r b, f { s with ports := p, store := q, soil := o, evalQueue := e, window := w, lanes := l, mover := m, reports := r, bus := b } = f s) : f (restartByWord w g s) = f s := by
  unfold restartByWord
  repeat' split
  · rw [restartPort_unseen _ _ f (fun s p q o e r => h s p q o e s.window s.lanes s.mover r s.bus)]
  · rw [haltLane_unseen _ _ _ f (fun s q l m r b => h s s.ports q s.soil s.evalQueue s.window l m r b)]
  · rw [haltLane_unseen _ _ _ f (fun s q l m r b => h s s.ports q s.soil s.evalQueue s.window l m r b)]
  · rw [restartAll_unseen _ f (fun s q w l m r b => h s s.ports q s.soil s.evalQueue w l m r b)]
  · rw [dropWord_unseen _ _ f (fun s w => h s s.ports s.store s.soil s.evalQueue w s.lanes s.mover s.reports s.bus)]

@[simp] theorem restartByWord_keeps (w g : Word) (s : State) :
    (restartByWord w g s).clock = s.clock ∧ (restartByWord w g s).layouts = s.layouts ∧
    (restartByWord w g s).displays = s.displays ∧ (restartByWord w g s).cab = s.cab ∧
    (restartByWord w g s).doors = s.doors ∧ (restartByWord w g s).debounce = s.debounce ∧
    (restartByWord w g s).stored = s.stored ∧ (restartByWord w g s).calling = s.calling ∧
    (restartByWord w g s).clear = s.clear ∧ (restartByWord w g s).mode = s.mode ∧
    (restartByWord w g s).wakeRecord = s.wakeRecord ∧ (restartByWord w g s).wakeCause = s.wakeCause ∧
    (restartByWord w g s).frameMem = s.frameMem ∧ (restartByWord w g s).pending = s.pending := by
  simpa only [Prod.mk.injEq] using restartByWord_unseen w g s (fun s => (
    s.clock, s.layouts, s.displays, s.cab, s.doors, s.debounce, s.stored, s.calling, s.clear, s.mode, s.wakeRecord,
    s.wakeCause, s.frameMem, s.pending)) fun _ _ _ _ _ _ _ _ _ _ => rfl

theorem wakeByWord_unseen (w g : Word) (s : State) {α : Type} (f : State → α)
    (h : ∀ s p v y a u r, f { s with ports := p, clear := v, mode := y, wakeRecord := a, wakeCause := u, reports := r } = f s) : f (wakeByWord w g s) = f s := by
  rw [wakeByWord, wakePart_unseen _ _ f (fun s p v y a u r => h s p v y a u r)]

@[simp] theorem wakeByWord_keeps (w g : Word) (s : State) :
    (wakeByWord w g s).clock = s.clock ∧ (wakeByWord w g s).store = s.store ∧ (wakeByWord w g s).soil = s.soil ∧
    (wakeByWord w g s).evalQueue = s.evalQueue ∧ (wakeByWord w g s).layouts = s.layouts ∧
    (wakeByWord w g s).displays = s.displays ∧ (wakeByWord w g s).cab = s.cab ∧ (wakeByWord w g s).doors = s.doors ∧
    (wakeByWord w g s).debounce = s.debounce ∧ (wakeByWord w g s).stored = s.stored ∧
    (wakeByWord w g s).calling = s.calling ∧ (wakeByWord w g s).window = s.window ∧
    (wakeByWord w g s).lanes = s.lanes ∧ (wakeByWord w g s).mover = s.mover ∧
    (wakeByWord w g s).frameMem = s.frameMem ∧ (wakeByWord w g s).bus = s.bus ∧
    (wakeByWord w g s).pending = s.pending := by
  simpa only [Prod.mk.injEq] using wakeByWord_unseen w g s (fun s => (
    s.clock, s.store, s.soil, s.evalQueue, s.layouts, s.displays, s.cab, s.doors, s.debounce, s.stored, s.calling,
    s.window, s.lanes, s.mover, s.frameMem, s.bus, s.pending)) fun _ _ _ _ _ _ _ => rfl

end Sys2Proof.Machine
end

