-- ==== Sys2Proof/Laws/Bytes.lean ====
section
/-! SUPPORT. The number in some bytes of a list, read from bytes that are laid one after another. -/

namespace Sys2Proof.Machine

open Safety

theorem number_append_left (a b : List Byte) {off n : Nat} (h : off + n ≤ a.length) :
    number (a ++ b) off n = number a off n := by
  refine Finset.sum_congr rfl fun i hi => ?_
  have := Finset.mem_range.mp hi
  rw [List.getD_append _ _ _ _ (by omega)]

theorem number_append_right (a b : List Byte) (off n : Nat) : number (a ++ b) (a.length + off) n = number b off n := by
  refine Finset.sum_congr rfl fun i _ => ?_
  rw [List.getD_append_right _ _ _ _ (by omega)]
  congr 3
  omega

theorem number_cons (x : Byte) (bs : List Byte) (n : Nat) : number (x :: bs) 0 (n + 1) = x.toNat + 256 * number bs 0 n := by
  simp only [number, Finset.sum_range_succ', Nat.zero_add, List.getD_cons_succ, List.getD_cons_zero, pow_succ, pow_zero, mul_one,
    Finset.mul_sum]
  rw [Nat.add_comm]
  congr 1
  exact Finset.sum_congr rfl fun i _ => by ring

/-- Little-endian bytes hold the low bits of their number. -/
theorem number_leBytes (n v : Nat) : number (leBytes n v) 0 n = v % 256 ^ n := by
  induction n generalizing v with
  | zero => simp [number, Nat.mod_one]
  | succ n ih => rw [leBytes, number_cons, ih, pow_succ', Nat.mod_mul, BitVec.toNat_ofNat]

/-- A field that stands among others holds the low bits of its number. -/
theorem holds_leBytes (a b : List Byte) {off n : Nat} (v : Nat) (h : a.length = off) : Holds (a ++ leBytes n v ++ b) off n v := by
  have := number_append_right a (leBytes n v) 0 n
  subst h
  rw [Holds, number_append_left _ _ (by simp), ← number_leBytes]
  simpa using this

end Sys2Proof.Machine
end

