-- ==== Sys2Proof/Laws/Events.lean ====
section
/-! SUPPORT. How an event's reports add up: `Raised` says which notices have been raised and which records are due so far,
one lemma for each way an event adds to them, and what the end of the event makes of it. -/

namespace Sys2Proof.Machine

open Safety

/-- From `m` to `u`, within one event, the notices `ns` have been raised and the records `rs` marked; the window, the link and
the rest of the Report Writer are as in `m`. -/
def Raised (m u : State) (ns : List Notice) (rs : List Record) : Prop :=
  u.window = m.window ∧ u.bus = m.bus ∧
  u.reports = { m.reports with notice := noticed m ns, due := u.reports.due } ∧
  ∀ r, r ∈ u.reports.due ↔ r ∈ rs ∨ r = .part ∧ noticed m ns ≠ m.reports.notice

theorem noticed_nil (m : State) : noticed m [] = m.reports.notice := by
  cases h : m.window.areaValid <;> simp [noticed, h]

theorem noticed_append (m : State) (ns : List Notice) (n : Notice) :
    noticed m (ns ++ [n]) = bif m.window.areaValid then noticed m ns ||| n.mask else noticed m ns := by
  cases h : m.window.areaValid <;> simp [noticed, h, List.foldl_append]

theorem hasNotice_foldl (ns : List Notice) (w : BitVec 11) (n : Notice) :
    hasNotice (ns.foldl (fun w n => w ||| n.mask) w) n = (hasNotice w n || ns.contains n) := by
  induction ns generalizing w with
  | nil => simp
  | cons a ns ih =>
    rw [List.foldl_cons, ih, hasNotice_or_mask]
    cases hasNotice w n <;> simp [eq_comm (a := a)]

/-- A bit of the notice word after some raises. -/
theorem hasNotice_noticed (m : State) (ns : List Notice) (n : Notice) :
    hasNotice (noticed m ns) n = (hasNotice m.reports.notice n || m.window.areaValid && ns.contains n) := by
  cases h : m.window.areaValid <;> simp [noticed, h, hasNotice_foldl]

/-- Two notice words with the same bits are the same. -/
theorem notice_ext {w v : BitVec 11} (h : ∀ n, hasNotice w n = hasNotice v n) : w = v := by
  apply BitVec.eq_of_getLsbD_eq
  intro i hi
  have cover : ∀ i : Fin 11, ∃ n : Notice, n.bit = i.val := by
    intro i
    fin_cases i
    exacts [⟨.lane0Done, rfl⟩, ⟨.lane1Done, rfl⟩, ⟨.laneHalted, rfl⟩, ⟨.camera, rfl⟩, ⟨.soil, rfl⟩, ⟨.door, rfl⟩,
      ⟨.clear, rfl⟩, ⟨.cab, rfl⟩, ⟨.fault, rfl⟩, ⟨.reset, rfl⟩, ⟨.wake, rfl⟩]
  obtain ⟨n, hn⟩ := cover ⟨i, hi⟩
  have := h n
  simpa only [hasNotice, hn] using this

/-- The word depends only on which notices are raised. -/
theorem noticed_congr (m : State) {ns ns' : List Notice} (h : ∀ n, n ∈ ns ↔ n ∈ ns') : noticed m ns = noticed m ns' :=
  notice_ext fun n => by
    have : ns.contains n = ns'.contains n := by rw [Bool.eq_iff_iff]; simpa using h n
    rw [hasNotice_noticed, hasNotice_noticed, this]

theorem Raised.start {m : State} (h : NothingDue m) : Raised m m [] [] := by
  have h : m.reports.due = [] := h
  refine ⟨rfl, rfl, ?_, fun r => ?_⟩
  · rw [noticed_nil]
  · simp [h, noticed_nil]

/-- What an operation does to other fields changes nothing here. -/
theorem Raised.step {m u v : State} {ns : List Notice} {rs : List Record} (h : Raised m u ns rs)
    (hw : v.window = u.window) (hb : v.bus = u.bus) (hr : v.reports = u.reports) : Raised m v ns rs := by
  obtain ⟨h1, h2, h3, h4⟩ := h
  refine ⟨hw.trans h1, hb.trans h2, ?_, ?_⟩
  · rw [hr]; exact h3
  · rw [hr]; exact h4

theorem Raised.mark {m u : State} {ns : List Notice} {rs : List Record} (h : Raised m u ns rs) (r : Record) :
    Raised m (mark r u) ns (r :: rs) := by
  obtain ⟨h1, h2, h3, h4⟩ := h
  refine ⟨h1, h2, ?_, fun q => ?_⟩
  · rw [mark_reports, h3]
  · simp only [mark_reports, List.mem_cons, h4 q, or_assoc]

theorem Raised.raise {m u : State} {ns : List Notice} {rs : List Record} (h : Raised m u ns rs) (n : Notice) :
    Raised m (raise n u) (ns ++ [n]) rs := by
  obtain ⟨h1, h2, h3, h4⟩ := h
  have hnot : u.reports.notice = noticed m ns := by rw [h3]
  unfold Machine.raise
  rw [h1, hnot]
  by_cases hv : m.window.areaValid = true
  · rw [if_pos hv]
    have hna : noticed m (ns ++ [n]) = noticed m ns ||| n.mask := by rw [noticed_append, hv, cond_true]
    by_cases hn : hasNotice (noticed m ns) n = true
    · rw [if_pos hn]
      have same : noticed m (ns ++ [n]) = noticed m ns := by
        refine notice_ext fun k => ?_
        rw [hna, hasNotice_or_mask]
        by_cases hk : n = k
        · subst hk; simp [hn]
        · simp [hk]
      refine ⟨h1, h2, ?_, fun q => ?_⟩
      · rw [same]; exact h3
      · rw [same]; exact h4 q
    · rw [if_neg hn]
      have fresh : noticed m (ns ++ [n]) ≠ m.reports.notice := by
        intro e
        have h1 := congrArg (fun w => hasNotice w n) e
        simp only [hna, hasNotice_or_mask, decide_true, Bool.or_true] at h1
        rw [hasNotice_noticed, ← h1] at hn
        simp at hn
      refine ⟨h1, h2, ?_, fun q => ?_⟩
      · rw [mark_reports, hna, ← hnot]
        simp only [State.setReports_reports]
        rw [h3]
      · simp only [mark_reports, State.setReports_reports, List.mem_cons, h4 q, ne_eq, fresh, not_false_eq_true, and_true]
        tauto
  · rw [if_neg hv]
    have same : noticed m (ns ++ [n]) = noticed m ns := by
      rw [noticed_append, Bool.eq_false_iff.mpr hv, cond_false]
    refine ⟨h1, h2, ?_, fun q => ?_⟩
    · rw [same]; exact h3
    · rw [same]; exact h4 q

theorem Raised.congr {m u : State} {ns ns' : List Notice} {rs rs' : List Record} (h : Raised m u ns rs)
    (hn : ∀ n, n ∈ ns ↔ n ∈ ns') (hr : ∀ r, r ∈ rs ↔ r ∈ rs') : Raised m u ns' rs' := by
  obtain ⟨h1, h2, h3, h4⟩ := h
  rw [noticed_congr m hn] at h3 h4
  exact ⟨h1, h2, h3, fun r => (h4 r).trans (by rw [hr r])⟩

/-- The link's writes within an event: the base moves with them. -/
theorem Raised.bus {m u : State} {ns : List Notice} {rs : List Record} (h : Raised m u ns rs) (b : Bus) :
    Raised { m with bus := b } (u.setBus b) ns rs := by
  obtain ⟨h1, -, h3, h4⟩ := h
  exact ⟨h1, rfl, h3, h4⟩

theorem Reported.congr {m t : State} {ns ns' : List Notice} {rs rs' : List Record} (h : Reported m t ns rs)
    (hn : ∀ n, n ∈ ns ↔ n ∈ ns') (hr : ∀ r, r ∈ rs ↔ r ∈ rs') : Reported m t ns' rs' := by
  have hw : ∀ r, r ∈ writtenRecords m ns rs ↔ r ∈ writtenRecords m ns' rs' := by
    intro r
    unfold writtenRecords
    rw [noticed_congr m hn]
    split
    · split
      · exact hr r
      · simp [hr r]
    · exact Iff.rfl
  unfold Reported at h ⊢
  simp only [← noticed_congr m hn, ← hw]
  exact h

/-- A state that agrees on the fields a record carries gives it the same contents. -/
theorem finishEvent_contents (u : State) (hn : (finishEvent u).reports.notice = u.reports.notice)
    (hf : (finishEvent u).reports.fault = u.reports.fault) (r : Record) :
    recordContents (finishEvent u) r = recordContents u r := by
  cases r with
  | part => simp [recordContents, partContents, hn]
  | fault => simp only [recordContents, faultContents, hf]
  | camera p => simp [recordContents, cameraContents]
  | soil p => simp [recordContents, soilContents]
  | door d => simp [recordContents, doorContents]
  | display d => simp [recordContents, displayContents]
  | lane l => simp [recordContents, laneContents]
  | reference p => simp [recordContents, referenceContents]

/-- The end of an event whose notices and records have been gathered, the link quiet. -/
theorem Raised.finish {m u : State} {ns : List Notice} {rs : List Record} (h : Raised m u ns rs)
    (hq : m.bus.fate = []) : Reported m (finishEvent u) ns rs := by
  obtain ⟨h1, h2, h3, h4⟩ := h
  have hnot : u.reports.notice = noticed m ns := by rw [h3]
  have hfa : u.reports.fault = m.reports.fault := by rw [h3]
  have hsu : u.reports.suspended = m.reports.suspended := by rw [h3]
  have han : u.reports.announce = m.reports.announce := by rw [h3]
  have hiv : u.reports.iv = m.reports.iv := by rw [h3]
  have hed : u.reports.editions = m.reports.editions := by rw [h3]
  have hlo : u.reports.lastOverride = m.reports.lastOverride := by rw [h3]
  have hfl : reportsFlow u = reportsFlow m := by unfold reportsFlow; rw [h1, hsu]
  have hbase : areaBase u = areaBase m := by unfold areaBase; rw [h1]
  by_cases hf : reportsFlow m = true
  · have hw : ∀ r, r ∈ writtenRecords m ns rs ↔ r ∈ u.reports.due := by
      intro r
      rw [h4 r, writtenRecords, if_pos hf]
      split
      · rename_i e; simp [e]
      · rename_i e; simp [e, or_comm]
    obtain ⟨a1, a2, a3, a4, a5, a6, a7, a8, a9, a10⟩ := finishEvent_quiet u (by rw [h2]; exact hq) (hfl.trans hf)
    have a11 : (finishEvent u).reports.announce = u.reports.announce := (finishEvent_spec u).2.2.2.2.2
    refine ⟨a1.trans hnot, a2.trans hfa, a3.trans hsu, a11.trans han, (finishEvent_spec u).2.2.2.2.1,
      a4.trans hq.symm, ?_, ?_, fun r => ?_, fun d => ?_, fun r hr => ?_, fun x hx => ?_⟩
    · rw [Bool.eq_iff_iff, a5, hiv, hnot]; simp [hf]
    · rw [a6, hiv, h2]
      cases m.reports.iv <;> cases (finishEvent u).reports.iv <;> simp
    · rw [a7 r, hed]; simp only [hw]; split <;> simp
    · rw [a8 d, hlo]; simp only [hw]
      have : (finishEvent u).displays = u.displays := by simp
      rw [this]
    · have hr' := (hw r).mp hr
      have hb : areaBase (finishEvent u) = areaBase u := by simp [areaBase]
      unfold RecordStands
      rw [hb, a9 r hr', recordImage, finishEvent_contents u a1 a2, a7 r, if_pos hr']
    · rw [a10 x fun r hr => by rw [hbase]; exact hx r ((hw r).mpr hr), h2]
  · have hf' : reportsFlow m = false := Bool.eq_false_iff.mpr hf
    have hw : writtenRecords m ns rs = [] := by rw [writtenRecords, if_neg hf]
    rw [finishEvent_still u (hfl.trans hf')]
    unfold Reported
    rw [hw]
    refine ⟨hnot, hfa, hsu, han, rfl, ?_, ?_, ?_, fun r => ?_, fun d => ?_, fun r hr => ?_, fun x _ => ?_⟩
    · simp [h2]
    · simp [hiv, hf']
    · simp [hiv, h2]
    · simp [hed]
    · simp [hlo]
    · simp at hr
    · simp [h2]

end Sys2Proof.Machine
end

