-- ==== Sys2Proof/Laws/Endings.lean ====
section
/-! SUPPORT. What the end of a block and the stop of a lane leave in the lanes, and what they add to an event's reports. -/

namespace Sys2Proof.Machine

open Safety

/-! ## The lanes themselves -/

@[simp] theorem raise_lanes (n : Notice) (s : State) : (raise n s).lanes = s.lanes := by simp

@[simp] theorem updateLane_lanes (l : LaneId) (v : Lane) (s : State) : (updateLane l v s).lanes = s.lanes.set l v := by
  unfold updateLane
  split <;> rfl

@[simp] theorem getElem_setLane (lanes : Vector Lane 2) (l : LaneId) (v : Lane) : (lanes.set l.val v)[l] = v := by
  simp [Fin.getElem_fin]

theorem takeUp_lanes (l : LaneId) (s : State) (h : s.lanes[l].state = .idle) :
    (takeUp l s).lanes = s.lanes.set l (laneFree s.lanes[l]) := by
  unfold takeUp
  dsimp only
  split
  · rename_i hd rest _ hq
    simp only [updateLane_lanes, laneFree]
    rw [hq]
  · rename_i _ _ hx
    have hq : s.lanes[l].queue = [] := by
      rcases hq : s.lanes[l].queue with _ | ⟨a, rest⟩
      · rfl
      · exact absurd hq (hx a rest h)
    have hv : laneFree s.lanes[l] = s.lanes[l] := by
      simp only [laneFree]
      rw [hq]
      rcases hl : s.lanes[l] with ⟨q, st, d, f, k, g⟩
      rw [hl] at h hq
      simp only at h hq
      subst h hq
      rfl
    rw [hv]
    simp [Fin.getElem_fin]

/-- A halt stops a lane (R163, R164). -/
theorem stopLane_lanes (l : LaneId) (h : Halt) (s : State) :
    (stopLane l h s).lanes = s.lanes.set l (laneHalted s.lanes[l] h) := by
  have key (z : Bool) (t : State) (ht : t.lanes = s.lanes.set l
      (if z then { s.lanes[l] with state := .idle, halting := none, done := 0, failed := 0, skipped := 0 }
        else { s.lanes[l] with state := .idle, halting := none })) :
      (takeUp l t).lanes = s.lanes.set l (laneHalted s.lanes[l] { announce := h.announce, zero := z }) := by
    have hl : t.lanes[l] = if z then { s.lanes[l] with state := .idle, halting := none, done := 0, failed := 0, skipped := 0 }
        else { s.lanes[l] with state := .idle, halting := none } := by rw [ht, getElem_setLane]
    rw [takeUp_lanes _ _ (by rw [hl]; cases z <;> rfl), hl, ht, Vector.set_set]
    congr 1
    cases z <;> simp only [laneHalted, laneFree, Bool.false_eq_true, if_false, if_true]
  unfold stopLane
  dsimp only
  refine key h.zero _ ?_
  split <;> simp only [raise_lanes, updateLane_lanes]

/-- Where a lane stands off its chain: at a halt that waits, or free (R163, R166). -/
theorem leaveChain_lanes (l : LaneId) (s : State) :
    (leaveChain l s).lanes = s.lanes.set l (match s.lanes[l].halting with
      | none => laneFree s.lanes[l]
      | some h => laneHalted s.lanes[l] h) := by
  unfold leaveChain
  cases hh : s.lanes[l].halting with
  | some h => exact stopLane_lanes l h s
  | none =>
    dsimp only
    rw [takeUp_lanes _ _ (by simp)]
    simp only [updateLane_lanes, getElem_setLane, Vector.set_set]
    congr 1

/-- Where a lane stands after a block: `laneLeft` before its counter (R163, R169). -/
theorem advance_lanes (l : LaneId) (c : Chain) (hof : Bool) (next : Word) (e : Ending) (v : Lane) (s : State)
    (hv : s.lanes[l] = v.count e) : (advance l c hof next e s).lanes = s.lanes.set l (laneLeft v c hof next e) := by
  have hs : s.lanes[l].halting = v.halting := by rw [hv]; cases e <;> rfl
  have hl := leaveChain_lanes l s
  unfold advance laneLeft
  cases hh : v.halting with
  | some h =>
    rw [hs, hh]
    dsimp only
    rw [stopLane_lanes, hv]
    cases e <;> rfl
  | none =>
    rw [hs, hh] at hl ⊢
    dsimp only at hl ⊢
    cases e with
    | done =>
      simp only [laneAfter]
      split
      · rw [hl, hv]; rfl
      · simp only [setChain, updateLane_lanes]; rw [hv]; rfl
    | skipped =>
      simp only [laneAfter]
      split
      · rw [hl, hv]; rfl
      · simp only [setChain, updateLane_lanes]; rw [hv]; rfl
    | failed r d =>
      simp only [laneAfter]
      by_cases hr : r = .chainTooLong
      · subst hr
        simp only [or_true, if_true]
        rw [hl, hv]; rfl
      · simp only [hr, or_false]
        split
        · rw [hl, hv]; rfl
        · simp only [setChain, updateLane_lanes]; rw [hv]; rfl

/-! ## What they add to the reports -/

/-- A further change of a lane whose record is due already. -/
theorem Raised.lane {m u : State} {ns : List Notice} {rs : List Record} (h : Raised m u ns rs) (l : LaneId) (v : Lane)
    (hl : .lane l ∈ rs) : Raised m (updateLane l v u) ns rs := by
  unfold updateLane
  have h1 : Raised m (u.setLane l v) ns rs := h.step rfl rfl rfl
  split
  · exact h1
  · refine (h1.mark (.lane l)).congr (fun _ => Iff.rfl) fun r => ?_
    simp only [List.mem_cons]
    constructor
    · rintro (rfl | h)
      exacts [hl, h]
    · exact .inr

theorem Raised.takeUp {m u : State} {ns : List Notice} {rs : List Record} (h : Raised m u ns rs) (l : LaneId)
    (hl : .lane l ∈ rs) : Raised m (takeUp l u) ns rs := by
  unfold Machine.takeUp
  dsimp only
  split
  · exact h.lane l _ hl
  · exact h

theorem Raised.stopLane {m u : State} {ns : List Notice} {rs : List Record} (h : Raised m u ns rs) (l : LaneId) (k : Halt)
    (hl : .lane l ∈ rs) : Raised m (stopLane l k u) (ns ++ if k.announce then [.laneHalted] else []) rs := by
  unfold Machine.stopLane
  dsimp only
  split
  · exact ((h.lane l _ hl).raise _).takeUp l hl
  · rw [List.append_nil]
    exact (h.lane l _ hl).takeUp l hl

theorem Raised.leaveChain {m u : State} {ns : List Notice} {rs : List Record} (h : Raised m u ns rs) (l : LaneId)
    (hl : .lane l ∈ rs) : Raised m (leaveChain l u) (ns ++ haltNotices u.lanes[l]) rs := by
  unfold Machine.leaveChain
  cases hh : u.lanes[l].halting with
  | some k =>
    simp only [haltNotices, hh]
    exact h.stopLane l k hl
  | none =>
    simp only [haltNotices, hh, List.append_nil]
    exact (h.lane l _ hl).takeUp l hl

theorem Raised.advance {m u : State} {ns : List Notice} {rs : List Record} (h : Raised m u ns rs) (l : LaneId) (c : Chain)
    (hof : Bool) (next : Word) (e : Ending) (hl : .lane l ∈ rs) :
    Raised m (advance l c hof next e u) (ns ++ haltNotices u.lanes[l]) rs := by
  unfold Machine.advance
  cases hh : u.lanes[l].halting with
  | some k =>
    simp only [haltNotices, hh]
    exact h.stopLane l _ hl
  | none =>
    have hleave := h.leaveChain l hl
    simp only [haltNotices, hh, List.append_nil] at hleave ⊢
    repeat' split
    all_goals first
      | exact hleave
      | exact h.lane l _ hl

theorem leBytes_inj {n v w : Nat} (h : leBytes n v = leBytes n w) : v % 256 ^ n = w % 256 ^ n := by
  induction n generalizing v w with
  | zero => simp [Nat.mod_one]
  | succ n ih =>
    simp only [leBytes, List.cons.injEq] at h
    obtain ⟨h1, h2⟩ := h
    have h3 := ih h2
    have h4 : v % 256 = w % 256 := by simpa using congrArg BitVec.toNat h1
    rw [pow_succ', Nat.mod_mul, Nat.mod_mul, h3, h4]

theorem mod_apart {a b d m : Nat} (hm : 0 < m) (h : a + d * m = b ∨ b + d * m = a) (hd : 0 < d) {k : Nat} (hk : d * m < k) :
    a % k ≠ b % k := by
  intro e
  have hpos : 0 < d * m := Nat.mul_pos hd hm
  rcases h with h | h
  · have : d * m ≡ 0 [MOD k] := by
      have : a + d * m ≡ a + 0 [MOD k] := by simpa [Nat.ModEq, h] using e.symm
      exact Nat.ModEq.add_left_cancel' a this
    have := Nat.mod_eq_of_lt hk ▸ this
    simp only [Nat.ModEq, Nat.zero_mod, Nat.mod_eq_of_lt hk] at this
    omega
  · have : d * m ≡ 0 [MOD k] := by
      have : b + d * m ≡ b + 0 [MOD k] := by simpa [Nat.ModEq, h] using e
      exact Nat.ModEq.add_left_cancel' b this
    simp only [Nat.ModEq, Nat.zero_mod, Nat.mod_eq_of_lt hk] at this
    omega

theorem word_succ (w : Word) : ∃ d, 0 < d ∧ d < 2 ^ 32 ∧ (w.toNat + d = (w + 1).toNat ∨ (w + 1).toNat + d = w.toNat) := by
  have h := w.isLt
  by_cases hw : w.toNat + 1 < 2 ^ 32
  · refine ⟨1, by omega, by omega, .inl ?_⟩
    rw [BitVec.toNat_add]
    simp
    omega
  · refine ⟨2 ^ 32 - 1, by omega, by omega, .inr ?_⟩
    have : w.toNat = 2 ^ 32 - 1 := by omega
    rw [BitVec.toNat_add, this]
    simp

/-- A counted ending always changes what the lane record shows (R166). -/
theorem count_contents (v : Lane) (e : Ending) : (v.count e).contents ≠ v.contents := by
  intro h
  have hp : (256 : Nat) ^ 28 = 2 ^ 224 := by norm_num
  cases e with
  | done =>
    obtain ⟨d, h0, h1, h2⟩ := word_succ v.done
    refine mod_apart (a := _) (b := _) (d := d) (m := 2 ^ 14) (by norm_num) ?_ h0 (k := 2 ^ 224) ?_ (hp ▸ leBytes_inj h)
    · show _ ∨ _
      simp only [Lane.count]
      rcases h2 with h2 | h2 <;> omega
    · calc d * 2 ^ 14 < 2 ^ 32 * 2 ^ 14 := Nat.mul_lt_mul_of_pos_right h1 (by norm_num)
        _ < 2 ^ 224 := by norm_num
  | failed r k =>
    obtain ⟨d, h0, h1, h2⟩ := word_succ v.failed
    refine mod_apart (a := _) (b := _) (d := d) (m := 2 ^ 46) (by norm_num) ?_ h0 (k := 2 ^ 224) ?_ (hp ▸ leBytes_inj h)
    · show _ ∨ _
      simp only [Lane.count]
      rcases h2 with h2 | h2 <;> omega
    · calc d * 2 ^ 46 < 2 ^ 32 * 2 ^ 46 := Nat.mul_lt_mul_of_pos_right h1 (by norm_num)
        _ < 2 ^ 224 := by norm_num
  | skipped =>
    obtain ⟨d, h0, h1, h2⟩ := word_succ v.skipped
    refine mod_apart (a := _) (b := _) (d := d) (m := 2 ^ 78) (by norm_num) ?_ h0 (k := 2 ^ 224) ?_ (hp ▸ leBytes_inj h)
    · show _ ∨ _
      simp only [Lane.count]
      rcases h2 with h2 | h2 <;> omega
    · calc d * 2 ^ 78 < 2 ^ 32 * 2 ^ 78 := Nat.mul_lt_mul_of_pos_right h1 (by norm_num)
        _ < 2 ^ 224 := by norm_num

theorem Raised.countEnding {m u : State} {ns : List Notice} {rs : List Record} (h : Raised m u ns rs) (l : LaneId)
    (notify : Bool) (e : Ending) :
    Raised m (countEnding l notify e u) (ns ++ endNotices l notify) (.lane l :: rs) := by
  have h1 : Raised m (updateLane l (u.lanes[l].count e) u) ns (.lane l :: rs) := by
    unfold updateLane
    rw [if_neg (count_contents _ e)]
    exact (h.step rfl rfl rfl).mark (.lane l)
  unfold Machine.countEnding endNotices
  dsimp only
  split
  · exact h1.raise _
  · simpa using h1

@[simp] theorem countEnding_lanes (l : LaneId) (n : Bool) (e : Ending) (s : State) :
    (countEnding l n e s).lanes = s.lanes.set l (s.lanes[l].count e) := by
  unfold countEnding
  dsimp only
  split <;> simp

/-- What the writing of an ending does: it keeps the canonical form, every byte outside the four fields and the count of interrupts;
where a write fails, the status is as the fields before it left it; on a quiet link the ending stands (R167, R170). -/
theorem writeEnding_spec (s : State) (block : Word) (e : Ending) :
    (s.bus.mem.wf → (writeEnding s block e).1.mem.wf) ∧
    (∀ x, (∀ w ∈ endingList s block e, x < w.1 ∨ w.1 + w.2.length ≤ x) →
      (writeEnding s block e).1.mem.read x = s.bus.mem.read x) ∧
    (writeEnding s block e).1.interrupts = s.bus.interrupts ∧
    (s.bus.fate = [] → writeEnding s block e = ((endingWritten s block e).bus, true)) ∧
    ((writeEnding s block e).2 = false →
      (writeEnding s block e).1.mem.read (areaBase s + block.toNat) = s.bus.mem.read (areaBase s + block.toNat)) := by
  have list : endingWrites s block e = endingList s block e := by
    simp only [endingWrites, endingList, blockAddress, Nat.add_zero]
  obtain ⟨h1, h2, h3, h4, h5⟩ := Bus.writeSealed_spec s.bus (endingWrites s block e)
  unfold writeEnding
  rw [list] at h1 h2 h3 h4 h5 ⊢
  refine ⟨h1, h2, h3, h4, fun hf => h5 hf _ ?_⟩
  simp only [endingList, List.dropLast_cons_cons, List.dropLast_singleton, List.mem_cons, List.not_mem_nil, or_false]
  rintro w (rfl | rfl | rfl) <;> exact .inl (by dsimp only; omega)

/-- The end of a block on a quiet link (R163, R167 to R169). -/
theorem endBlock_quiet {m u : State} {ns : List Notice} {rs : List Record} (h : Raised m u ns rs) (hq : m.bus.fate = [])
    (hc : u.clock = m.clock) (l : LaneId) (c : Chain) (notify hof : Bool) (next : Word) (e : Ending) :
    Raised (endingWritten m c.block e) (endBlock l c notify hof next e u)
      (ns ++ endNotices l notify ++ haltNotices u.lanes[l]) (.lane l :: rs) ∧
    (endBlock l c notify hof next e u).lanes = u.lanes.set l (laneLeft u.lanes[l] c hof next e) := by
  have hb : u.bus = m.bus := h.2.1
  have hbase : areaBase u = areaBase m := by unfold areaBase; rw [h.1]
  have hw := (writeEnding_spec u c.block e).2.2.2.1 (by rw [hb]; exact hq)
  have hm : (endingWritten u c.block e).bus = (endingWritten m c.block e).bus := by
    simp only [endingWritten, endingList, allWritten, hostWritten, List.foldl, hbase, hc, hb]
  unfold endBlock
  rw [hw]
  dsimp only
  rw [hm]
  have h1 : Raised (endingWritten m c.block e) (u.setBus (endingWritten m c.block e).bus) ns rs :=
    (h.bus (endingWritten m c.block e).bus)
  have hcnt : (countEnding l notify e (u.setBus (endingWritten m c.block e).bus)).lanes[l] = u.lanes[l].count e := by
    simp
  have hhalt : haltNotices (u.lanes[l].count e) = haltNotices u.lanes[l] := by cases e <;> rfl
  constructor
  · have h2 := (h1.countEnding l notify e).advance l c hof next e (by simp)
    rw [hcnt, hhalt] at h2
    exact h2
  · rw [advance_lanes l c hof next e u.lanes[l] _ hcnt]
    simp

end Sys2Proof.Machine
end

