-- ==== Sys2Proof/Laws/Lines.lean ====
section
/-! SUPPORT. What the storing of lines leaves: one line, and a run of patched lines, in frame memory, in the frame-in-progress
record, in the counters and in the sums. -/

namespace Sys2Proof.Machine

open Safety

@[simp] theorem getElem_setPort (ports : Vector CapturePort 12) (p : PortId) (v : CapturePort) :
    (ports.set p.val v)[p] = v := by simp [Fin.getElem_fin]

theorem lineBase_succ (p : PortId) (i : SlotId) (w n : Nat) : lineBase p i w (n + 1) = lineBase p i w n + 2 * w := by
  simp only [lineBase]; ring

theorem lineBase_mono (p : PortId) (i : SlotId) (w : Nat) {m n : Nat} (h : m ≤ n) : lineBase p i w m ≤ lineBase p i w n := by
  unfold lineBase
  exact Nat.add_le_add_left (Nat.mul_le_mul_right _ h) _

/-- The sums after a run of lines, each as it stands in frame memory (R44). -/
def sumLines (w h : Nat) (mem : Memory) (p : PortId) (slot : SlotId) (start count : Nat) (sums : Vector CellSums 48) :
    Vector CellSums 48 :=
  (List.range' start count).foldl (fun v j => accumulate w h j (mem.readBytes (lineBase p slot w j) (2 * w)) v) sums

theorem sumLines_congr {w h : Nat} {m k : Memory} {p : PortId} {slot : SlotId} {start count : Nat}
    {sums : Vector CellSums 48}
    (e : ∀ j, start ≤ j → j < start + count → m.readBytes (lineBase p slot w j) (2 * w) = k.readBytes (lineBase p slot w j) (2 * w)) :
    sumLines w h m p slot start count sums = sumLines w h k p slot start count sums := by
  unfold sumLines
  refine List.foldl_ext _ _ _ fun v j hj => ?_
  rw [List.mem_range'_1] at hj
  rw [e j hj.1 hj.2]

/-- A stored line (R14, R44). -/
theorem storeLine_spec (p : PortId) (f : FrameInProgress) (bytes : List Byte) (s : State)
    (hlen : bytes.length = 2 * s.ports[p].camera.width) :
    let q := s.ports[p]
    let t := storeLine p f bytes s
    t = { s with ports := t.ports, frameMem := t.frameMem } ∧
    t.ports = s.ports.set p
      { q with
        frame := some { f with next := f.next + 1 }
        sums := if f.due then sumLines q.camera.width q.camera.height t.frameMem p f.slot f.next 1 q.sums else q.sums } ∧
    t.frameMem.readBytes (lineBase p f.slot q.camera.width f.next) (2 * q.camera.width) = bytes ∧
    (∀ x, x < lineBase p f.slot q.camera.width f.next ∨ lineBase p f.slot q.camera.width (f.next + 1) ≤ x →
      t.frameMem.read x = s.frameMem.read x) := by
  intro q t
  have hm : t.frameMem.readBytes (lineBase p f.slot q.camera.width f.next) (2 * q.camera.width) = bytes :=
    Memory.readBytes_write_of _ _ hlen
  refine ⟨rfl, ?_, hm, fun x hx => ?_⟩
  · simp only [sumLines, List.range'_one, List.foldl_cons, List.foldl_nil, hm]
    rfl
  · refine Memory.read_write_outside ?_
    rw [lineBase_succ] at hx
    rw [hlen]; exact hx

theorem length_patchBytes (p : PortId) (f : FrameInProgress) (s : State) :
    (patchBytes p f s).length = 2 * s.ports[p].camera.width := by
  unfold patchBytes
  dsimp only
  split <;> simp

theorem getElem_patchBytes (p : PortId) (f : FrameInProgress) (s : State) (o : Nat)
    (h : o < 2 * s.ports[p].camera.width) : (patchBytes p f s).getD o 0 = patchByte s p f o := by
  unfold patchBytes patchByte
  dsimp only
  split
  · rw [List.getD_eq_getElem _ _ (by simpa using h), List.getElem_replicate]
  · rw [Memory.readBytes_eq, List.getD_eq_getElem _ _ (by simpa using h)]
    simp only [List.getElem_map, List.getElem_range]

/-- A byte of a run, from the run. -/
theorem Memory.read_of_readBytes {m : Memory} {a n : Nat} {bs : List Byte} (h : m.readBytes a n = bs) {i : Nat} (hi : i < n) :
    m.read (a + i) = bs.getD i 0 := by
  rw [← h, Memory.readBytes_eq, List.getD_eq_getElem _ _ (by simpa using hi)]
  simp only [List.getElem_map, List.getElem_range]

/-- A run of patched lines (R14, R15, R17, R44): each holds what the line before the run holds, or mid-grey; each is counted
in the frame and in the port, and a due frame adds its sums. -/
theorem patchLines_spec (p : PortId) (n : Nat) (s : State) (f : FrameInProgress) (hf : s.ports[p].frame = some f) :
    let q := s.ports[p]
    let t := patchLines p n s
    t = { s with ports := t.ports, frameMem := t.frameMem } ∧
    t.ports = s.ports.set p
      { q with
        frame := some { f with next := f.next + n, patched := f.patched + n }
        health := { q.health with patched := q.health.patched + BitVec.ofNat 32 n }
        sums := if f.due then sumLines q.camera.width q.camera.height t.frameMem p f.slot f.next n q.sums else q.sums } ∧
    LinesPatched s t p f (f.next + n) (f.next + n) := by
  induction n generalizing s f with
  | zero =>
    refine ⟨rfl, ?_, fun j o h1 h2 => by omega, fun x _ => rfl⟩
    have : (s.ports[p]) = { s.ports[p] with
        frame := some { f with next := f.next + 0, patched := f.patched + 0 }
        health := { s.ports[p].health with patched := s.ports[p].health.patched + BitVec.ofNat 32 0 }
        sums := if f.due then sumLines s.ports[p].camera.width s.ports[p].camera.height s.frameMem p f.slot f.next 0
          s.ports[p].sums else s.ports[p].sums } := by
      have h1 : (if f.due then sumLines s.ports[p].camera.width s.ports[p].camera.height s.frameMem p f.slot f.next 0
          s.ports[p].sums else s.ports[p].sums) = s.ports[p].sums := by split <;> rfl
      rw [h1]
      simp only [Nat.add_zero, BitVec.add_zero]
      rw [← hf]
    show s.ports = _
    rw [show (patchLines p 0 s).frameMem = s.frameMem from rfl, ← this]
    simp [Fin.getElem_fin]
  | succ n ih =>
    obtain ⟨a1, a2, a3, a4⟩ := storeLine_spec p { f with patched := f.patched + 1 } (patchBytes p f s) s (length_patchBytes p f s)
    have hp : patchLine p s = (storeLine p { f with patched := f.patched + 1 } (patchBytes p f s) s).setPort p
        { (storeLine p { f with patched := f.patched + 1 } (patchBytes p f s) s).ports[p] with
          health := { s.ports[p].health with patched := s.ports[p].health.patched + 1 } } := by
      unfold patchLine
      rw [hf]
      dsimp only
      rw [a2]
      simp
    have hq : (patchLine p s).ports[p] = { s.ports[p] with
        frame := some { f with next := f.next + 1, patched := f.patched + 1 }
        health := { s.ports[p].health with patched := s.ports[p].health.patched + 1 }
        sums := if f.due then sumLines s.ports[p].camera.width s.ports[p].camera.height (patchLine p s).frameMem p f.slot
          f.next 1 s.ports[p].sums else s.ports[p].sums } := by
      rw [hp, a2]
      simp
    have hset : ∀ v : CapturePort, (storeLine p { f with patched := f.patched + 1 } (patchBytes p f s) s).ports.set p v =
        s.ports.set p v := by
      intro v; rw [a2, Vector.set_set]
    have hpp : ∀ v : CapturePort, (patchLine p s).ports.set p v = s.ports.set p v := by
      intro v
      rw [hp]
      show ((storeLine p { f with patched := f.patched + 1 } (patchBytes p f s) s).ports.set p _).set p v = _
      rw [Vector.set_set, hset]
    have hmem : (patchLine p s).frameMem = (storeLine p { f with patched := f.patched + 1 } (patchBytes p f s) s).frameMem := by
      rw [hp]; rfl
    have hst : patchLine p s = { s with ports := (patchLine p s).ports, frameMem := (patchLine p s).frameMem } := by
      rw [hp]; rfl
    rw [← hmem] at a3 a4
    obtain ⟨b1, b2, b3, b4⟩ := ih (patchLine p s) { f with next := f.next + 1, patched := f.patched + 1 } (by rw [hq])
    have hcam : (patchLine p s).ports[p].camera = s.ports[p].camera := by rw [hq]
    have hw : (patchLine p s).ports[p].camera.width = s.ports[p].camera.width := by rw [hcam]
    have hpb : ∀ o, o < 2 * s.ports[p].camera.width →
        patchByte (patchLine p s) p { f with next := f.next + 1, patched := f.patched + 1 } o = patchByte s p f o := by
      intro o ho
      have h1 := getElem_patchBytes p f s o ho
      rw [← h1, ← Memory.read_of_readBytes a3 ho]
      show (if f.next + 1 = 0 then (128 : Byte) else _) = _
      rw [if_neg (by omega)]
      simp only [Nat.add_sub_cancel, hw]
    simp only [hw] at b3 b4
    have e1 : f.next + 1 + n = f.next + (n + 1) := by omega
    simp only [e1] at b2 b3 b4
    have hp2 : patchLines p (n + 1) s = patchLines p n (patchLine p s) := rfl
    intro q t
    have ht : t = patchLines p n (patchLine p s) := hp2
    refine ⟨?_, ?_, fun j o h1 h2 h3 => ?_, fun x hx => ?_⟩
    · rw [ht, b1, hst]
    · rw [ht, b2, hpp]
      simp only [hq]
      refine congrArg (fun v => s.ports.set p.val v p.isLt) ?_
      have n1 : f.next + 1 + n = f.next + (n + 1) := by omega
      have n2 : f.patched + 1 + n = f.patched + (n + 1) := by omega
      have n3 : s.ports[p].health.patched + 1 + BitVec.ofNat 32 n = s.ports[p].health.patched + BitVec.ofNat 32 (n + 1) := by
        rw [BitVec.add_assoc, BitVec.ofNat_add, BitVec.add_comm 1]; rfl
      simp only [n2, n3]
      refine congrArg (fun v => { q with
        frame := some { f with next := f.next + (n + 1), patched := f.patched + (n + 1) }
        health := { q.health with patched := q.health.patched + BitVec.ofNat 32 (n + 1) }
        sums := v }) ?_
      split
      · have hs : sumLines q.camera.width q.camera.height (patchLine p s).frameMem p f.slot f.next 1 q.sums =
            sumLines q.camera.width q.camera.height (patchLines p n (patchLine p s)).frameMem p f.slot f.next 1 q.sums := by
          apply sumLines_congr
          intro j h1 h2
          have hj : j = f.next := by omega
          subst hj
          refine Memory.readBytes_congr fun x h3 h4 => (b4 x (.inl ?_)).symm
          rw [lineBase_succ]; exact h4
        show sumLines q.camera.width q.camera.height _ p f.slot (f.next + 1) n
          (sumLines q.camera.width q.camera.height (patchLine p s).frameMem p f.slot f.next 1 q.sums) = _
        rw [hs]
        simp only [sumLines, List.range'_succ, List.foldl_cons, List.foldl_nil, List.range'_zero]
      · rfl
    · by_cases hj : j = f.next
      · subst hj
        rw [ht, b4 _ (.inl ?_)]
        · rw [Memory.read_of_readBytes a3 h3, getElem_patchBytes p f s o h3]
        · rw [lineBase_succ]; omega
      · rw [ht, ← hpb o h3]
        exact b3 j o (by omega) h2 h3
    · have h1 := lineBase_mono p f.slot s.ports[p].camera.width (show f.next ≤ f.next + 1 by omega)
      have h2 := lineBase_mono p f.slot s.ports[p].camera.width (show f.next + 1 ≤ f.next + (n + 1) by omega)
      rw [ht, b4 x (by omega)]
      exact a4 x (by dsimp only; omega)

end Sys2Proof.Machine
end

