-- ==== Sys2Proof/Laws/PerInstr.lean ====
section
/-! SUPPORT. A law of every command as syntax, one lemma a constructor, for statements that go by cases on the command. -/

namespace Sys2Proof.Laws.OwnRowWrites

/-- A command is well-formed unless it is a plain register write of a register whose write is a row of its own. -/
def Statement (i : Instr) : Prop :=
  i.wellFormed = true ∨ ∃ register value, i = .registerWrite register value ∧ register.plain = false

theorem powerOn : Statement .powerOn := .inl rfl

theorem linkReset : Statement .linkReset := .inl rfl

theorem frameOpen (port : PortId) (count width height : Half) : Statement (.frameOpen port count width height) := .inl rfl

theorem line (port : PortId) (number : Half) (payload : List Byte) (check : Half) : Statement (.line port number payload check) := .inl rfl

theorem frameClose (port : PortId) (count : Half) : Statement (.frameClose port count) := .inl rfl

theorem unknownPacket (port : PortId) : Statement (.unknownPacket port) := .inl rfl

theorem silenceTimerExpiry (port : PortId) : Statement (.silenceTimerExpiry port) := .inl rfl

theorem evaluationService : Statement .evaluationService := .inl rfl

theorem frameStart (display : DisplayId) : Statement (.frameStart display) := .inl rfl

theorem frameEnd (display : DisplayId) : Statement (.frameEnd display) := .inl rfl

theorem holdExpiry (display : DisplayId) (side : CabSide) : Statement (.holdExpiry display side) := .inl rfl

theorem doorLineEdge (door : DoorId) (level : Bool) : Statement (.doorLineEdge door level) := .inl rfl

theorem debounceExpiry (door : DoorId) : Statement (.debounceExpiry door) := .inl rfl

theorem areaLoWrite (value : Word) : Statement (.areaLoWrite value) := .inl rfl

theorem areaHiWrite (value : Word) : Statement (.areaHiWrite value) := .inl rfl

theorem areaSizeWrite (value : Word) : Statement (.areaSizeWrite value) := .inl rfl

theorem statusRead : Statement .statusRead := .inl rfl

theorem resetCauseWrite (value : Word) : Statement (.resetCauseWrite value) := .inl rfl

theorem registerWrite (register : HostRegister) (value : Word) : Statement (.registerWrite register value) := by
  cases h : register.plain with
  | true => exact .inl h
  | false => exact .inr ⟨register, value, rfl, h⟩

theorem runChain : Statement .runChain := .inl rfl

theorem haltLane : Statement .haltLane := .inl rfl

theorem acknowledge : Statement .acknowledge := .inl rfl

theorem restart : Statement .restart := .inl rfl

theorem wake : Statement .wake := .inl rfl

theorem headerRead (lane : LaneId) : Statement (.headerRead lane) := .inl rfl

theorem skipWalk (lane : LaneId) : Statement (.skipWalk lane) := .inl rfl

theorem defineCamera : Statement .defineCamera := .inl rfl

theorem parkCamera : Statement .parkCamera := .inl rfl

theorem unparkCamera : Statement .unparkCamera := .inl rfl

theorem loadLayout : Statement .loadLayout := .inl rfl

theorem clearLayout : Statement .clearLayout := .inl rfl

theorem selectLayout : Statement .selectLayout := .inl rfl

theorem setDisplay : Statement .setDisplay := .inl rfl

theorem setCab : Statement .setCab := .inl rfl

theorem learnReference : Statement .learnReference := .inl rfl

theorem setReference : Statement .setReference := .inl rfl

theorem measureOnce : Statement .measureOnce := .inl rfl

theorem setSoilLimits : Statement .setSoilLimits := .inl rfl

theorem setDoorPolicy : Statement .setDoorPolicy := .inl rfl

theorem enterStabling : Statement .enterStabling := .inl rfl

theorem exportFrame : Statement .exportFrame := .inl rfl

theorem exportScreen : Statement .exportScreen := .inl rfl

theorem exportFrameRow : Statement .exportFrameRow := .inl rfl

theorem exportScreenRow : Statement .exportScreenRow := .inl rfl

theorem attentionWrite (value : Word) : Statement (.attentionWrite value) := .inl rfl

theorem badCode : Statement .badCode := .inl rfl

end Sys2Proof.Laws.OwnRowWrites
end

