-- ==== Sys2Proof/Tests/Slice0.lean ====
section
/-! SUPPORT. Tests of the model on small states, with the figures of the data book's own examples, and for each statement a
state that meets its hypotheses. -/

namespace Sys2Proof.Tests

open Machine Safety

-- Each kernel evaluation below would else hold a thread of its own, and its memory, until its turn comes.
set_option Elab.async false

/-! ## Small states -/

/-- What a command leaves; the state it found where it stops. -/
def after (i : Instr) (s : State) : State :=
  match exec i s with
  | .next t => t
  | .fault _ => s
  | .refused _ => s

/-- The chain of the tests: one block, at 0x2000. -/
def chain : Chain := { head := 0x2000, block := 0x2000, position := 1, phase := .reach }

/-- A block of a kind. -/
def block (k : Kind) (target : Nat) (body : List Byte) : InHand :=
  { kind := k.code, notify := false, haltOnFail := false, target, next := 0, body }

/-- A lane with a block in hand. -/
def hand (l : LaneId) (b : InHand) (s : State) : State :=
  s.setLane l { state := .running { chain with phase := .taken b } }

/-- A lane at a block in a phase. -/
def walk (l : LaneId) (c : Chain) (s : State) : State := s.setLane l { state := .running c }

/-- A small camera in a port state: 16 by 6. -/
def cameraPort (state : PortState) : CapturePort :=
  { undefined := false, state, camera := { coverage := [0], width := 16, height := 6, patchLimit := 2 } }

/-- Port 0 in a state, with a frame in progress in slot 0 that expects a line. -/
def framing (next patched : Nat) (due : Bool) : State :=
  (State.reset.setPort 0
    { cameraPort .live with frame := some { count := 7, slot := 0, next, patched, due } }).setStore 0
    { slots := (Vector.replicate 6 {}).set 0 { state := .filling, count := 7, width := 16, height := 6 } }

/-- Attention holds a word. -/
def captured (w : Word) (s : State) : State := s.setWindow { s.window with attention := some (w, 0x2000) }

/-- The work area is valid, 64 KiB at 0x10000. -/
def withArea (s : State) : State :=
  s.setWindow { s.window with areaLo := 0x10000, areaSize := 1, areaValid := true }

theorem hand_inHand (l : LaneId) (k : Kind) (target : Nat) (body : List Byte) (s : State) (h : Calm s) :
    BlockInHand (hand l (block k target body) s) l k { chain with phase := .taken (block k target body) }
      (block k target body) := by
  refine ⟨?_, rfl, h⟩
  simp [hand, inHand, State.setLane]

/-- A link that completes `k` transactions and fails the next after `landed` bytes of it. -/
def failing (k landed : Nat) (s : State) : State := { s with bus := { s.bus with fate := failsAt k landed } }

theorem calm_reset : Calm State.reset := ⟨rfl, rfl⟩

/-! ## Well-formed terms -/

theorem test_write_of_area_lo_is_a_row_of_its_own : Instr.wellFormed (.registerWrite .areaLo 0) = false := by decide

theorem test_write_of_attention_is_a_row_of_its_own : Instr.wellFormed (.registerWrite .attention 1) = false := by decide

theorem test_plain_register_write : Instr.wellFormed (.registerWrite .command 5) = true := by decide

/-! ## The queue -/

/-- No row of the opcode table gives bits, so no word spells a command. -/
theorem test_no_word_spells_a_command : decodeTableWord 8 0 = none := by decide

/-- The queue is first in, first out, and an empty one ticks the clock. -/
theorem test_queue_order :
    step { State.reset with pending := [.registerWrite .command 5, .statusRead] } =
      .next { State.reset with window := { State.reset.window with command := 5 }, pending := [.statusRead] } := by rfl

theorem test_tick : step { State.reset with clock := 0xFFFFFFFF } = .next { State.reset with clock := 0 } := by rfl

/-! ## Operations -/

/-- The check value of the CRC of R2 over the digits 1 to 9. -/
theorem test_crc : crc16 [0x31, 0x32, 0x33, 0x34, 0x35, 0x36, 0x37, 0x38, 0x39] = 0x29B1 := by decide +kernel

/-- Stamps that wrapped (section 2.3). -/
theorem test_since_wraps : since 0x00000010 0xFFFFFFF0 = 32 := by decide

/-- A write of 0 leaves no cell, and a write keeps the order of addresses. -/
theorem test_memory_canonical : Memory.write [(4, 9), (6, 1)] 4 [0, 7] = [(5, 7), (6, 1)] := by decide

/-- The scaling figures of section 5.9. -/
theorem test_scale_positions :
    scalePosition 0 1280 640 0 = 32768 ∧ scalePosition 0 320 1280 0 = 0 ∧ scalePosition 0 320 1280 3 = 24576 ∧
    scalePosition 0 720 600 0 = 6553 ∧ scalePosition 0 640 640 639 = 639 * 65536 ∧
    scalePosition 0 1280 640 200 = 26247168 ∧ blend 100 140 128 = 120 ∧ blend 120 80 25 = 116 := by decide

/-- The colours of section 5.10. -/
theorem test_colours :
    toRgb 120 128 200 = ⟨221, 69, 120⟩ ∧ toRgb 60 160 110 = ⟨35, 62, 117⟩ ∧ toRgb 120 28 128 = ⟨120, 154, 0⟩ := by decide

/-- The stripes of R96 run by eights of i + j. -/
theorem test_stripes : fillPixel .striped 3 4 = ⟨128, 128, 128⟩ ∧ fillPixel .striped 4 4 = ⟨64, 64, 64⟩ := by decide

/-! ## Operands, the bytes as section 12.3 places them -/

/-- A DOOR camera of doors 1 and 2 of 1280 by 720 with timeout 250 ms given, patch limit and interval absent. -/
theorem test_define_camera_body :
    cameraOf [0, 0, 0, 1, 2, 1, 0x00, 0x05, 0xD0, 0x02, 250, 0, 0, 0, 0, 0] =
      some { role := .door, coverage := [0, 1], width := 1280, height := 720, silence := 250000, patchLimit := 8, interval := 4 } := by
  decide +kernel

/-- A width that is no multiple of 32 is out of range (R3). -/
theorem test_define_camera_width : cameraOf [3, 0, 0, 0, 0, 0, 0x4A, 0x01, 0xF0, 0, 0, 0, 0, 0, 0, 0] = none := by decide +kernel

/-- A tile of section 12.4: primary REAR, alternate port 2, mirrored, border 3, maximum age absent. -/
theorem test_tile_record :
    tileOf [0, 0, 88, 2, 64, 1, 240, 0, 0, 0, 0, 0, 64, 1, 240, 0, 0, 0, 0, 0, 64, 1, 240, 0, 17, 2, 0x83, 9, 8, 7, 0, 0] =
      some { dest := ⟨0, 600, 320, 240⟩, primary := .symbol .rear, primaryRect := ⟨0, 0, 320, 240⟩, alternate := some (.port 2)
             alternateRect := ⟨0, 0, 320, 240⟩, mirror := true, border := 3, colour := ⟨9, 8, 7⟩, maxAge := 100000 } := by
  decide +kernel

/-- A header of section 12.2: kind 4, both flags, target 6, body of 96 bytes, next at 0x2200. -/
theorem test_header :
    headerOf ([0, 0, 0, 4, 3, 6, 96, 0, 0x00, 0x22, 0, 0] ++ zeros 20) =
      { status := 0, kind := 4, notify := true, haltOnFail := true, target := 6, bodyLength := 96, next := 0x2200 } := by
  decide +kernel

/-- A SET DISPLAY that gives size, period and a left door layout, over the power-on settings. -/
theorem test_set_display_body :
    settingsOf ([0x17, 0, 0x80, 0x07, 0xB0, 0x04, 0, 0, 0x20, 0x4E, 0, 0, 0, 11, 0, 0] ++ zeros 8) {} =
      some { width := 1920, height := 1200, period := 20000, doorLeft := some 11 } := by decide +kernel

/-- Limits 7 and 8 given, the rest kept. -/
theorem test_soil_limits_body :
    limitsOf [0x80, 0x01, 0, 0, 0, 0, 0, 0, 0, 0, 30, 70] {} = { warn := 30, blind := 70 } := by decide +kernel

/-- The operands of an export block. -/
theorem test_export_body :
    exportOperands ([0, 0, 0, 0, 1, 0, 0, 0, 0, 0x1E, 0, 0, 0, 0xA0, 0x8C, 0] ++ zeros 16) =
      { dest := 4294967296, stride := 7680, room := 9216000 } := by decide +kernel

/-! ## Records of the report region, the bytes as section 12.5 places them -/

/-- Notices LANE0_DONE and WAKE, STABLED, cab B, RIGHT CLEAR, woken by door 5, written at 0x01020304. -/
theorem test_part_record :
    (partContents { State.reset with
      clock := 0x01020304, mode := .stabled, cab := some .b, clear := ⟨false, true⟩, wakeCause := .door 4
      reports := { State.reset.reports with notice := 0x401 } }).take 14 = [1, 4, 1, 2, 2, 1, 5, 0, 0, 0, 4, 3, 2, 1] := by
  decide +kernel

/-- Door 5, of side B, VIEWING since 9, opened at 7, 258 lapses, last viewed on display 2 in tile 6, its dwell 1500 ms. -/
theorem test_door_record :
    (doorContents (State.reset.setDoor 4
      { level := true, state := .viewing 9, opened := some 7, lapses := 258, lastView := some (2, 6) }) 4).take 20 =
      [5, 2, 1, 2, 0, 7, 7, 0, 0, 0, 9, 0, 0, 0, 2, 1, 2, 6, 0xDC, 5] := by decide +kernel

/-- A drawn, STALE, SMEARED alternate of port 3, 12,345.678 ms old; and a tile that is not present. -/
theorem test_tile_entry :
    tileEntry (some
      { tile := { dest := ⟨0, 0, 16, 16⟩, primary := .port 0, primaryRect := ⟨0, 0, 16, 6⟩, alternate := some (.port 3)
                  alternateRect := ⟨0, 0, 16, 6⟩, mirror := false, border := 0, colour := ⟨0, 0, 0⟩, maxAge := 20000 }
        hidden := false, drawn := true, fill := .none, stale := true, badge := .smeared
        shown := some { port := 3, alternate := true, slot := 0, width := 16, height := 6, age := 12345678 } }) =
      [15, 3, 52, 0, 0x39, 0x30] ∧ tileEntry none = [0, 255, 0, 0, 0, 0] := by decide +kernel

/-- One head, 0x2000, queued behind a FAULTED lane; one block DONE. -/
theorem test_lane_record :
    ({ state := .faulted, queue := [0x2000], done := 1 } : Lane).contents = [6, 0x40] ++ zeros 17 ++ [0x10] ++ zeros 8 := by
  decide +kernel

/-! ## The registers and the sources -/

/-- The part code of IDENT (section 12.1). -/
theorem test_part_code : (readRegister .reset .ident).extractLsb' 8 16 = 0x1204 := by
  simp only [readRegister]
  generalize Config.identFamily = family
  generalize Config.identRevision = revision
  ext i h
  simp [BitVec.getElem_extractLsb']
  grind

/-- Ports 2 and 5 have an END camera of end A, port 7 a FLANK camera of end B, side A. -/
def tram (cab : Option AB) : State :=
  let camera (c : CameraRecord) : CapturePort := { undefined := false, state := .parked, camera := c }
  let s := (State.reset.setPort 5 (camera { role := .endCamera, tip := some .a })).setPort 2
    (camera { role := .endCamera, tip := some .a })
  { s.setPort 7 (camera { role := .flank, tip := some .b, side := some .a }) with cab }

/-- The rows of R112: the lower of two ports, PARKED though it is; the sides turn with the cab; cab NONE resolves nothing. -/
theorem test_symbols :
    resolve (tram (some .a)) (.symbol .front) = some 2 ∧ resolve (tram (some .b)) (.symbol .rear) = some 2 ∧
    resolve (tram (some .b)) (.symbol .leftFlank) = some 7 ∧ resolve (tram (some .b)) (.symbol .rightFlank) = none ∧
    resolve (tram (some .a)) (.symbol .leftFlank) = none ∧ resolve (tram none) (.symbol .front) = none ∧
    resolve (tram none) (.port 11) = some 11 := by decide +kernel

/-! ## One command on a small state -/

/-- A block of another kind is not the one in hand. -/
theorem test_other_kind_waits :
    exec .parkCamera (hand 0 (block .setCab 0 [1, 0, 0, 0]) .reset) = .next (hand 0 (block .setCab 0 [1, 0, 0, 0]) .reset) := by
  rfl

/-- SET CAB to A: the cab is active, the block ends DONE, the lane is IDLE again. -/
theorem test_set_cab :
    let t := after .setCab (hand 0 (block .setCab 0 [1, 0, 0, 0]) .reset)
    t.cab = some .a ∧ t.bus.mem.read 0x2000 = 2 ∧ t.lanes[(0 : LaneId)].state = .idle ∧ t.clear = ⟨true, true⟩ := by
  decide +kernel

/-- A target that is no port fails BAD_TARGET (2). -/
theorem test_bad_target :
    let t := after .measureOnce (hand 0 (block .measureOnce 12 []) .reset)
    t.bus.mem.readBytes 0x2000 2 = [3, 2] ∧ t.lanes[(0 : LaneId)].failed = 1 := by decide +kernel

/-- A frame of one camera goes LIVE at its close, and its slot is the newest READY one (R17, R19). -/
theorem test_frame_close :
    let t := after (.frameClose 0 7) (framing 6 0 false)
    t.ports[(0 : PortId)].state = .live ∧ t.store[(0 : PortId)].order = [0] ∧ t.ports[(0 : PortId)].health.good = 1 := by
  decide +kernel

/-- Another frame count at the close is a bad frame (R17, R18). -/
theorem test_frame_close_mismatch :
    let t := after (.frameClose 0 8) (framing 6 0 false)
    t.store[(0 : PortId)].order = [] ∧ t.ports[(0 : PortId)].health.bad = 1 := by decide +kernel

/-- Section 1.8: a good frame at 5,000,000, a timeout of 200,000: LOST at 5,200,000, not before. -/
theorem test_silence :
    let s := State.reset.setPort 0 { cameraPort .live with silence := some 5000000 }
    (after (.silenceTimerExpiry 0) { s with clock := 5200000 }).ports[(0 : PortId)].state = .lost ∧
    (after (.silenceTimerExpiry 0) { s with clock := 5199999 }).ports[(0 : PortId)].state = .live := by decide +kernel

/-- An edge runs the debounce timer; its expiry opens the door (R126, R127, R133). -/
theorem test_door_line :
    let s := after (.doorLineEdge 1 true) { State.reset with clock := 80003000 }
    s.doors[(1 : DoorId)].timer = some 80033000 ∧
    (after (.debounceExpiry 1) { s with clock := 80033000 }).doors[(1 : DoorId)].state = .opened ∧
    (after (.debounceExpiry 1) { s with clock := 80032999 }).doors[(1 : DoorId)].state = .shut := by decide +kernel

/-- AREA_LO ignores its low 12 bits (R158). -/
theorem test_area_lo : (after (.areaLoWrite 0x12345678) .reset).window.areaLo = 0x12345000 := by decide +kernel

/-- A first write of AREA_SIZE announces the reset: RESET, its bit 9, and IV (R158, R175, R179). -/
theorem test_area_size :
    let t := after (.areaSizeWrite 1) (.setWindow .reset { State.reset.window with areaLo := 0x10000 })
    t.reports.notice = 0x200 ∧ t.reports.iv = true ∧ t.window.areaValid = true := by decide +kernel

/-- STATUS after reset: REJECT alone (R159, section 12.1). -/
theorem test_status : (after .statusRead .reset).window.readData = 2 := by decide +kernel

/-- RESET_CAUSE after power-on is POWER, and a 1 clears it (R160). -/
theorem test_reset_cause :
    State.reset.window.resetCause = 1 ∧ (after (.resetCauseWrite 1) .reset).window.resetCause = 0 := by decide +kernel

/-- A second ATTENTION while BUSY is dropped with reason BUSY (R161). -/
theorem test_busy :
    let t := after (.attentionWrite 5) (after (.attentionWrite 3) .reset)
    t.window.attention = some (3, 0) ∧ t.window.dropped = true ∧ t.window.dropReason = .busy := by decide +kernel

/-- RUN CHAIN without an area is dropped with reason REJECT (R161, R162). -/
theorem test_run_chain_reject : (after .runChain (captured 1 .reset)).window.dropReason = .reject := by decide +kernel

/-- RUN CHAIN starts an IDLE lane at its head (R162, R166). -/
theorem test_run_chain :
    (after .runChain (captured 0x11 (withArea .reset))).lanes[(1 : LaneId)].state =
      .running { head := 0x2000, block := 0x2000, position := 0, phase := .reach } := by decide +kernel

/-- A misplaced block faults its lane (R168, R170). -/
theorem test_misplaced :
    let t := after (.headerRead 0) (walk 0 { chain with block := 0x1000 } (withArea .reset))
    t.lanes[(0 : LaneId)].state = .faulted ∧ t.reports.notice = 0x100 := by decide +kernel

/-- A block of kind 0 fails BAD_KIND; memory that nothing has written gives kind 0. -/
theorem test_bad_kind :
    (after (.headerRead 0) (walk 0 chain (withArea .reset))).bus.mem.readBytes 0x12000 2 = [3, 1] := by decide +kernel

/-- The link fails the status of the ending of a block of kind 0: no final status, the lane FAULTED, the reason in place (R170). -/
theorem test_failed_status :
    let t := after (.headerRead 0) (failing 4 1 (walk 0 chain (withArea .reset)))
    t.bus.mem.readBytes 0x12000 2 = [0, 1] ∧ t.lanes[(0 : LaneId)].state = .faulted ∧ t.lanes[(0 : LaneId)].failed = 0 := by
  decide +kernel

/-- A skip walk ends a PENDING block SKIPPED (R169). -/
theorem test_skip :
    let t := after (.skipWalk 0) (walk 0 { chain with phase := .skip } (withArea .reset))
    t.bus.mem.read 0x12000 = 4 ∧ t.lanes[(0 : LaneId)].skipped = 1 := by decide +kernel

/-- ENTER STABLING parks a LIVE port and records it; WAKE brings it back to SEEKING (R182, R184). -/
theorem test_stabling :
    let s := after .enterStabling (hand 0 (block .enterStabling 0 []) (State.reset.setPort 0 (cameraPort .live)))
    s.mode = .stabled ∧ s.ports[(0 : PortId)].state = .parked ∧
    (after .wake (captured 5 s)).ports[(0 : PortId)].state = .seeking := by decide +kernel

/-- A link reset keeps the clock and the cab and sets LINK (R171). -/
theorem test_link_reset :
    let t := after .linkReset { State.reset with cab := some .b, clock := 9 }
    t.cab = some .b ∧ t.clock = 9 ∧ t.window.resetCause = 3 := by decide +kernel

/-- A power-on reset keeps frame memory and samples an active door line (R23, R144). -/
theorem test_power_on :
    let t := after .powerOn { State.reset with cab := some .b, frameMem := [(0, 1)], doors := .replicate 8 { raw := true } }
    t.cab = none ∧ t.frameMem = [(0, 1)] ∧ t.doors[(3 : DoorId)].timer = some 30000 := by decide +kernel

/-! ## A state that meets the hypotheses of each statement -/

/-- Cab A is active over lines that are right, and a command waits. -/
def running : State :=
  { State.reset with cab := some .a, clear := ⟨true, true⟩, clock := 100000, pending := [.registerWrite .command 5] }

theorem running_steps : ∃ t, step running = .next t := ⟨_, rfl⟩

theorem witness_StepRunsFrontCommand : running.pending = .registerWrite .command 5 :: [] ∧ State.reset.pending = [] := ⟨rfl, rfl⟩

theorem no_tiles (d : DisplayId) : (framing 0 0 false).displays[d].tiles = [] := by
  revert d
  decide

theorem witness_EveryCommandCompletes : FramesInBounds (framing 0 0 false) := by
  refine ⟨?_, ?_, ?_, ?_⟩
  · show ∀ p : PortId, (framing 0 0 false).ports[p].camera.width ≤ 1280 ∧ (framing 0 0 false).ports[p].camera.height ≤ 768
    decide
  · show ∀ (p : PortId) (i : SlotId), (framing 0 0 false).store[p].slots[i].width ≤ 1280 ∧
      (framing 0 0 false).store[p].slots[i].height ≤ 768
    decide
  · intro p ops i w h c t n hm
    cases hm
  · intro d t ht
    rw [no_tiles d] at ht
    cases ht

theorem witness_ClearLinesStayExact : LinesExact running := by
  have shut : ∀ d : DoorId, running.doors[d].state = .shut := by decide
  constructor <;> exact ⟨fun _ => ⟨rfl, .a, rfl, fun d _ _ => .inl (shut d)⟩, fun _ => rfl⟩

theorem witness_OffPortsStayParked : ParkedWhereOff running :=
  ⟨by decide, by decide, by decide⟩

theorem witness_MemoryAndReportsStaySettled : MemoryCanonical running ∧ IvHasNotice running ∧ NothingDue running :=
  ⟨⟨by decide, by decide⟩, nofun, rfl⟩

theorem witness_FramesAndSoilStayInRange : FramesInBounds (framing 0 0 false) ∧ SoilInRange (framing 0 0 false) :=
  ⟨witness_EveryCommandCompletes, by decide, by decide +kernel⟩

theorem witness_LanesAndExportStayCoherent :
    LanesInRange running ∧ BlocksPlaced running ∧ HaltsSettled running ∧ MoverHasBlock running := by
  have idle : ∀ l : LaneId, running.lanes[l].state = .idle := by decide
  have empty : ∀ l : LaneId, running.lanes[l].queue.length ≤ 4 := by decide
  refine ⟨fun l => ⟨empty l, fun c h => ?_⟩, fun l c b h => ?_, ⟨rfl, fun h => absurd rfl h⟩, fun h => absurd rfl h⟩
  · rw [idle l] at h
    cases h
  · rw [inHand, idle l] at h
    cases h

/-- Port 0 has one READY slot, slot 2, that nobody holds. -/
def pictured (s : State) : State :=
  (s.setPort 0 (cameraPort .live)).setStore 0
    { slots := (Vector.replicate 6 {}).set 2 { state := .ready, count := 8812, stamp := 90000, width := 16, height := 6 }
      order := [2] }

theorem pictured_slots (s : State) (h : s.ports = State.reset.ports) (k : s.store = State.reset.store) :
    SlotsCoherent (pictured s) := by
  have frames : ∀ p : PortId, (pictured State.reset).ports[p].frame = none := by decide
  have still : ∀ (p : PortId) (i : SlotId), (pictured State.reset).store[p].slots[i].state ≠ .filling := by decide
  have eqp : (pictured s).ports = (pictured State.reset).ports := by simp [pictured, State.setPort, State.setStore, h]
  have eqs : (pictured s).store = (pictured State.reset).store := by simp [pictured, State.setPort, State.setStore, k]
  intro p
  refine ⟨⟨fun i => ?_, ?_, ?_, ?_, ?_⟩, fun _ => by rw [eqp]; exact frames p⟩
  · rw [eqp, eqs, frames p]
    exact ⟨fun h => absurd h (still p i), fun ⟨f, h, _⟩ => nomatch h⟩
  all_goals
    rw [eqs]
    revert p
    decide

/-- Where nobody holds a slot and an unconfigured display has no frame, the holders are as R27, R31 and R32 say. -/
theorem free_holders (s : State) (free : ∀ (p : PortId) (i : SlotId), s.store[p].slots[i].locks = {})
    (plain : ∀ d : DisplayId, s.displays[d].configured = false → s.displays[d].timing = none) : HoldersBounded s := by
  have none_ : ∀ o : Holder, LockSet.mem {} o = false := by rintro (d | _) <;> simp [LockSet.mem]
  refine ⟨plain, fun d p i m => ?_, fun d p i j m => ?_, fun p i m => ?_⟩
  all_goals
    rw [free, none_] at m
    cases m

theorem reset_free : ∀ (p : PortId) (i : SlotId), State.reset.store[p].slots[i].locks = {} := by decide

theorem reset_plain : ∀ d : DisplayId, State.reset.displays[d].configured = false → State.reset.displays[d].timing = none := by
  decide

theorem pictured_holders (s : State) (h : s.displays = State.reset.displays) (k : s.store = State.reset.store) :
    HoldersBounded (pictured s) := by
  have eqs : (pictured s).store = (pictured State.reset).store := by simp [pictured, State.setPort, State.setStore, k]
  have eqd : (pictured s).displays = State.reset.displays := h
  have free : ∀ (p : PortId) (i : SlotId), (pictured State.reset).store[p].slots[i].locks = {} := by decide
  exact free_holders _ (by rw [eqs]; exact free) (by rw [eqd]; exact reset_plain)

theorem witness_SlotsAndLocksStayCoherent : SlotsCoherent (pictured running) ∧ HoldersBounded (pictured running) :=
  ⟨pictured_slots running rfl rfl, pictured_holders running rfl rfl⟩

theorem witness_DoorsAndOverridesStayCoherent : ViewsNeedCab running ∧ VerdictsOfCab running ∧ OverridesFollow running := by
  have shut : ∀ d : DoorId, running.doors[d].state = .shut ∧ running.doors[d].level = false := by decide
  refine ⟨⟨fun d => ⟨fun _ => (shut d).2, fun _ => (shut d).1⟩, fun d h => ?_⟩, ?_, ?_, ?_⟩
  · exact nofun
  · show ∀ (d : DisplayId) (k : DoorId), _ → running.stored[d][k] = none
    intro d k _
    revert d k
    decide
  · decide +kernel
  · have plain : ∀ d : DisplayId, isOverrideDisplay running d = false := by decide
    have idle : ∀ d : DisplayId, running.displays[d].left = .idle ∧ running.displays[d].right = .idle ∧
        running.displays[d].settings.doorScreen = false := by decide
    exact fun d => ⟨fun h => absurd h (by rw [plain d]; decide), fun _ => ⟨(idle d).1, (idle d).2.1⟩, fun _ => (idle d).2.2⟩

theorem witness_SlotChoiceSucceedsByPreference :
    HoldersBounded (pictured running) ∧ SlotsCoherent (pictured running) ∧
    (pictured running).ports[(0 : PortId)].frame = none ∧ (pictured running).store[(0 : PortId)].choose = some 0 :=
  ⟨pictured_holders running rfl rfl, pictured_slots running rfl rfl, by decide, by decide⟩

/-- A tile of 16 by 16 at the top left, its primary port 0. -/
def tile (x : Nat) : Tile :=
  { dest := ⟨x, 0, 16, 16⟩, primary := .port 0, primaryRect := ⟨0, 0, 16, 6⟩, alternate := some (.port 1)
    alternateRect := ⟨0, 0, 16, 6⟩, mirror := false, border := 0, colour := ⟨1, 2, 3⟩, maxAge := 100000 }

/-- Two tiles at one place: the earlier is hidden; beside it neither is. -/
theorem witness_HiddenExactlyWhenCovered :
    (∀ t ∈ [tile 0, tile 0], 16 ≤ t.dest.w ∧ 16 ≤ t.dest.h) ∧
    (markHidden [tile 0, tile 0]).map (fun t => t.hidden) = [true, false] ∧
    (markHidden [tile 0, tile 15]).map (fun t => t.hidden) = [false, false] := by decide

/-- A symbol with two ports that fit it, and one with none. A drawn tile and one that another covers; the drawn one shows port 0 where it is LIVE with a READY slot, and is filled black
where its ports are PARKED. -/
theorem witness_FrameTilesAreDecided :
    let shows (s : State) := (composeTiles s 640 480 [⟨tile 0, false⟩, ⟨tile 0, false⟩]).map fun t => (t.drawn, t.shown.isSome, t.fill)
    shows (pictured running) = [(false, false, .none), (true, true, .none)] ∧
    shows running = [(false, false, .none), (true, false, .black)] ∧
    resolve (tram (some .a)) (.symbol .front) = some 2 ∧ resolve (tram (some .a)) (.symbol .rear) = none := by decide +kernel

/-- A display of 640 by 480 with a minimum door tile of 16 by 16. -/
def settings : DisplaySettings := { width := 640, height := 480, period := 20000, minWidth := 16, minHeight := 16 }

theorem witness_VerdictIsTopmostQualifyingTile :
    let s := pictured running
    let v := verdictVector s settings (composeTiles s 640 480 [⟨tile 0, false⟩, ⟨tile 40, false⟩])
    v[(0 : DoorId)] = some 1 ∧ v[(1 : DoorId)] = none := by decide +kernel

theorem witness_PixelIsTopmostTile :
    let s := pictured running
    let p : Display := { frameWidth := 640, frameHeight := 480, tiles := composeTiles s 640 480 [⟨tile 0, false⟩] }
    pixelAt s p 16 0 = ⟨0, 0, 0⟩ ∧ (∃ below t above, p.tiles = below ++ t :: above ∧ t.drawn = true ∧
      (t.tile.dest.clip p.frameWidth p.frameHeight).has 15 15 = true) :=
  ⟨by decide +kernel, [], _, [], rfl, by decide +kernel, by decide +kernel⟩

theorem witness_LineSumsPerCell :
    0 < 2 ∧ 0 < 1 ∧ (List.replicate 32 (5 : Byte)).length = 2 * (8 * 2) ∧ 5 < 6 * 1 ∧ 5 / 1 = (5 : Fin 6).val ∧
    5 / 1 ≠ (0 : Fin 6).val := by decide

/-- Three records to write, the link failing one transaction of the second. -/
def writing (k landed : Nat) : State :=
  failing (3 + k) landed { withArea .reset with reports := { State.reset.reports with due := [.part, .camera 2, .fault] } }

/-- The second of three records fails at its head edition, its contents, its tail edition; the part record is not written. -/
theorem witness_FailedRecordWriteSuspendsReports :
    let written : List Record := [.fault] ++ .camera 2 :: [.part]
    (∀ k < 3, (writing k 1).bus.fate = failsAt (3 * [Record.fault].length + k) 1 ++ [] ∧ reportsFlow (writing k 1) = true) ∧
    (∀ q, q ∈ (writing 1 1).reports.due ↔ q ∈ written) ∧
    written.Pairwise (fun p q => p ≠ .part ∧ (q = .part ∨ recordPlace p < recordPlace q)) ∧
    (∀ k < 3, (failing k 1 (withArea .reset)).bus.fate = failsAt k 1 ++ [] ∧ reportsFlow (failing k 1 (withArea .reset)) = true) := by
  refine ⟨by decide, fun q => ?_, by decide, by decide⟩
  show q ∈ [Record.part, .camera 2, .fault] ↔ q ∈ [Record.fault, .camera 2, .part]
  simp only [List.mem_cons, List.not_mem_nil, or_false]
  constructor <;> rintro (h | h | h) <;> simp [h]

/-- The tail edition of camera record 2 fails, whatever the link may say of its bytes: head edition 1, tail edition 0, the part record as it was. -/
theorem test_tail_edition_fails :
    let t := finishEvent (writing 2 2)
    t.bus.mem.readBytes (0x10000 + 0x180) 3 = [1, 0, 2] ∧ t.bus.mem.readBytes (0x10000 + 0x1BE) 2 = [0, 0] ∧
    t.bus.mem.readBytes (0x10000) 2 = [0, 0] ∧ t.bus.mem.readBytes (0x10000 + 0x40) 2 = [1, 0] ∧
    t.reports.suspended = true := by decide +kernel

/-! ### Camera ports -/

theorem frame_size : FrameSize 16 6 := by simp [FrameSize]

theorem witness_PacketsAreDiscarded :
    State.reset.ports[(0 : PortId)].state = .parked ∧ State.reset.ports[(0 : PortId)].frame = none ∧
    Calm (framing 3 0 false) ∧ (framing 3 0 false).ports[(0 : PortId)].state ≠ .parked ∧
    (framing 3 0 false).ports[(0 : PortId)].frame = some { count := 7, slot := 0, next := 3, patched := 0, due := false } ∧
    FrameSize (framing 3 0 false).ports[(0 : PortId)].camera.width (framing 3 0 false).ports[(0 : PortId)].camera.height ∧
    (framing 3 0 false).ports[(0 : PortId)].camera.height ≤ (6 : Half).toNat ∧ (2 : Half).toNat < 3 :=
  ⟨rfl, rfl, ⟨rfl, rfl⟩, by decide, rfl, frame_size, by decide, by decide⟩

theorem witness_FrameOpenFillsChosenSlot :
    let s := pictured running
    Calm s ∧ s.ports[(0 : PortId)].state ≠ .parked ∧ (16 : Half).toNat = s.ports[(0 : PortId)].camera.width ∧
    (6 : Half).toNat = s.ports[(0 : PortId)].camera.height ∧ s.store[(0 : PortId)].choose = some 0 :=
  ⟨⟨rfl, rfl⟩, by decide, rfl, rfl, by decide⟩

theorem witness_MismatchedFrameOpenIsCounted :
    let s := pictured running
    Calm s ∧ s.ports[(0 : PortId)].state ≠ .parked ∧ (17 : Half).toNat ≠ s.ports[(0 : PortId)].camera.width :=
  ⟨⟨rfl, rfl⟩, by decide, by decide⟩

theorem witness_LineIsStoredOrPatched :
    let s := framing 3 0 true
    let f : FrameInProgress := { count := 7, slot := 0, next := 3, patched := 0, due := true }
    Calm s ∧ s.ports[(0 : PortId)].state ≠ .parked ∧ s.ports[(0 : PortId)].frame = some f ∧
    FrameSize s.ports[(0 : PortId)].camera.width s.ports[(0 : PortId)].camera.height ∧ f.next ≤ (5 : Half).toNat ∧
    (5 : Half).toNat < s.ports[(0 : PortId)].camera.height :=
  ⟨⟨rfl, rfl⟩, by decide, rfl, frame_size, by decide, by decide⟩

/-- One line missing under a patch limit of 2; none missing is the clean frame. -/
theorem witness_GoodFrameBecomesReady :
    let s := framing 5 0 true
    let f : FrameInProgress := { count := 7, slot := 0, next := 5, patched := 0, due := true }
    Calm s ∧ s.ports[(0 : PortId)].state ≠ .parked ∧ s.ports[(0 : PortId)].frame = some f ∧
    FrameSize s.ports[(0 : PortId)].camera.width s.ports[(0 : PortId)].camera.height ∧ (7 : Half) = f.count ∧
    f.patched + (s.ports[(0 : PortId)].camera.height - f.next) ≤ s.ports[(0 : PortId)].camera.patchLimit :=
  ⟨⟨rfl, rfl⟩, by decide, rfl, frame_size, rfl, by decide⟩

theorem witness_BadFrameBecomesEmpty :
    let s := framing 3 0 true
    let f : FrameInProgress := { count := 7, slot := 0, next := 3, patched := 0, due := true }
    Calm s ∧ s.ports[(0 : PortId)].state ≠ .parked ∧ s.ports[(0 : PortId)].frame = some f ∧
    FrameSize s.ports[(0 : PortId)].camera.width s.ports[(0 : PortId)].camera.height ∧ (8 : Half) ≠ f.count ∧
    s.ports[(0 : PortId)].camera.patchLimit < f.patched + (s.ports[(0 : PortId)].camera.height - f.next) :=
  ⟨⟨rfl, rfl⟩, by decide, rfl, frame_size, by decide, by decide⟩

theorem witness_SilenceLosesLivePort :
    let s := { State.reset.setPort 0 { cameraPort .live with silence := some 5 } with clock := 200005 }
    Calm s ∧ s.ports[(0 : PortId)].state = .live ∧ s.ports[(0 : PortId)].silence = some 5 ∧
    s.ports[(0 : PortId)].camera.silence ≤ since s.clock 5 :=
  ⟨⟨rfl, rfl⟩, by decide, by decide, by decide⟩

/-! ### The Soil Monitor -/

/-- An entry of port 0 waits, and its camera is in a soil state. -/
def serving (m : Soil) : State :=
  { State.reset.setSoil 0 m with
    evalQueue := [{ port := 0, stamp := 0, cellWidth := 2, cellHeight := 1, sums := .replicate 48 {} }] }

/-- A learning with a sample, of `k`, still to come. -/
def lesson (k : Nat) : Learning := { target := 4, taken := k, sums := .replicate 48 0, saved := .unlearned }

theorem witness_LearnSampleIsGathered :
    State.reset.evalQueue = [] ∧
    (∃ e rest, (serving {}).evalQueue = e :: rest ∧ Calm (serving {}) ∧ (serving {}).soil[e.port].state = .unlearned) ∧
    (∃ e rest, (serving { state := .learning, learning := some (lesson 3) }).evalQueue = e :: rest ∧
      (serving { state := .learning, learning := some (lesson 3) }).soil[e.port].learning = some (lesson 3) ∧
      (lesson 3).taken + 1 = (lesson 3).target) ∧
    (∃ e rest, (serving { state := .learning, learning := some (lesson 2) }).evalQueue = e :: rest ∧
      (serving { state := .learning, learning := some (lesson 2) }).soil[e.port].learning = some (lesson 2) ∧
      (lesson 2).taken + 1 ≠ (lesson 2).target) :=
  ⟨rfl, ⟨_, _, rfl, ⟨rfl, rfl⟩, rfl⟩, ⟨_, _, rfl, rfl, rfl⟩, ⟨_, _, rfl, rfl, by decide⟩⟩

/-- A score below, at and above the thresholds 25 and 60 of R39. -/
theorem witness_EvaluationFollowsStages :
    (∃ e rest, Calm (serving { state := .clean }) ∧ (serving { state := .clean }).evalQueue = e :: rest ∧
      (serving { state := .clean }).soil[e.port].state = .clean) ∧
    stateOfScore {} 24 = .clean ∧ stateOfScore {} 25 = .smeared ∧ stateOfScore {} 60 = .blinded :=
  ⟨⟨_, _, ⟨rfl, rfl⟩, rfl, rfl⟩, rfl, rfl, rfl⟩

/-! ### Displays -/

/-- Display 0 at the end of its period, its frame ended or not, under cab A. -/
def showing (ended : Bool) : State :=
  running.setDisplay 0
    { configured := true, settings := settings, timing := some { start := 80000, period := 20000, ended } }

theorem showing_plain (e : Bool) (d : DisplayId) :
    (showing e).displays[d].configured = false → (showing e).displays[d].timing = none := by
  revert e d
  decide

/-- An EXPORT SCREEN of display 0 waits for its frame start. -/
def awaiting (stride room : Nat) (s : State) : State :=
  { hand 1 (block .exportScreen 0 []) s with mover := .waiting 0 ⟨0x40000000, stride, room⟩ }

/-- Display 1 holds tile 4 for door 4, and display 0 none; no display of cab B does. -/
def viewed : State := { running with stored := running.stored.set 1 ((Vector.replicate 8 none).set 3 (some 4)) }

/-- The lowest display of the cab is the view, with its tile (R139). -/
theorem test_qualifying_view :
    qualifyingView viewed .a 3 = some (1, 4) ∧ qualifyingView viewed .b 3 = none ∧ qualifyingView viewed .a 2 = none := by
  decide +kernel

/-- A frame start that is LIVE and one that is DARK, with no export, and with one that waits: a stride of 2560 and a room of 1228800
just meet a frame of 640 by 480. -/
theorem witness_FrameStartTakesFrame :
    (let s := showing true
     Calm s ∧ s.displays[(0 : DisplayId)].configured = true ∧
     s.displays[(0 : DisplayId)].timing = some { start := 80000, period := 20000, ended := true } ∧
     reached s.clock (stampAfter 80000 20000) = true ∧ s.calling = callingSet s ∧ (∀ ops, s.mover ≠ .waiting 0 ops) ∧
     startsLive s 0 ∧ ¬ startsLive { s with cab := some .b } 0 ∧ State.reset.displays[(0 : DisplayId)].configured = false) ∧
    (∀ stride room, HoldersBounded (awaiting stride room (showing true)) ∧ Calm (awaiting stride room (showing true)) ∧
      (inHand (awaiting stride room (showing true)) 1).isSome = true ∧ startsLive (awaiting stride room (showing true)) 0) ∧
    4 * settings.width ≤ 2560 ∧ settings.height * 2560 ≤ 1228800 ∧ 2556 < 4 * settings.width ∧
    1228796 < settings.height * 2560 :=
  ⟨⟨⟨rfl, rfl⟩, rfl, rfl, by decide, by decide +kernel, nofun, ⟨rfl, rfl⟩, fun h => (nomatch h.1), rfl⟩,
   fun _ _ => ⟨free_holders _ reset_free (showing_plain true), ⟨rfl, rfl⟩, rfl, rfl, rfl⟩, by decide⟩

theorem witness_FrameEndReleasesLocks :
    let s := showing false
    Calm s ∧ s.displays[(0 : DisplayId)].configured = true ∧
    s.displays[(0 : DisplayId)].timing = some { start := 80000, period := 20000, ended := false } ∧
    (∀ ops w h c n r, s.mover ≠ .copying 0 ops w h c n r) ∧ reached s.clock (stampAfter 80000 20000) = true ∧
    reached 99999 (stampAfter 80000 20000) = false :=
  ⟨⟨rfl, rfl⟩, rfl, rfl, nofun, by decide, by decide⟩

theorem witness_HoldExpiryIdlesSide :
    let s := { State.reset.setDisplay 0 { left := .held 500, right := .held 501 } with clock := 500 }
    s.displays[(0 : DisplayId)].left = .held 500 ∧ reached s.clock 500 = true ∧
    s.displays[(0 : DisplayId)].right = .held 501 ∧ reached s.clock 501 = false ∧
    s.displays[(0 : DisplayId)].override = .both := by decide

/-! ### Doors -/

/-- Door 3 with a raw level, its timer at its stamp. -/
def edged (raw level : Bool) (debounce : Nat) : State :=
  { State.reset.setDoor 3 { raw, level, state := if level then .opened else .shut, timer := some 70 } with
    clock := 70, debounce }

theorem witness_DoorEdgesRunTheTimer :
    (true ≠ (edged false false 30000).doors[(3 : DoorId)].raw ∧ true ≠ (edged false false 30000).doors[(3 : DoorId)].level ∧
      (edged false false 30000).debounce ≠ 0) ∧
    (false ≠ (edged true false 30000).doors[(3 : DoorId)].raw ∧ false = (edged true false 30000).doors[(3 : DoorId)].level) ∧
    ((edged false false 0).doors[(3 : DoorId)].timer = some 70 ∧ reached 70 70 = true ∧ reached 69 70 = false ∧
      (edged false false 0).doors[(3 : DoorId)].raw = (edged false false 0).doors[(3 : DoorId)].level) := by decide

theorem edged_follow (raw level : Bool) : DoorsFollowLevels (edged raw level 0) := by
  have all : ∀ (r l : Bool) (d : DoorId), (edged r l 0).doors[d].state = .shut ↔ (edged r l 0).doors[d].level = false := by
    decide
  exact all raw level

/-- Door 4 open: RIGHT calls under cab A, LEFT under cab B, neither under NONE, nor where the door is isolated (R111, R116). -/
theorem test_calling :
    let s (cab : Option AB) : State := { edged false true 0 with cab }
    callingSet (s (some .a)) = ⟨false, true⟩ ∧ callingSet (s (some .b)) = ⟨true, false⟩ ∧ callingSet (s none) = ⟨false, false⟩ ∧
    callingSet ((s (some .a)).setDoor 3 { state := .opened, isolated := true }) = ⟨false, false⟩ := by decide +kernel

/-- An edge with debounce time 0 that opens the door, and an expiry that shuts it; cab NONE and a cab. -/
theorem witness_DoorLevelChangesDoor :
    (edged false false 0).cab = none ∧ running.cab = some .a ∧
    (true ≠ (edged false false 0).doors[(3 : DoorId)].raw ∧ (edged false false 0).debounce = 0 ∧
      true ≠ (edged false false 0).doors[(3 : DoorId)].level ∧ Calm (edged false false 0) ∧
      (edged false false 0).mode = .run ∧ DoorsFollowLevels (edged false false 0)) ∧
    (false = (edged false true 0).doors[(3 : DoorId)].raw ∧ (edged false true 0).doors[(3 : DoorId)].timer = some 70 ∧
      reached (edged false true 0).clock 70 = true ∧ false ≠ (edged false true 0).doors[(3 : DoorId)].level ∧
      DoorsFollowLevels (edged false true 0)) :=
  ⟨rfl, rfl, ⟨by decide, rfl, by decide, ⟨rfl, rfl⟩, rfl, edged_follow _ _⟩, rfl, rfl, by decide, by decide, edged_follow _ _⟩

theorem witness_DoorLevelWakesPart :
    let s := { edged false false 0 with mode := .stabled }
    true ≠ s.doors[(3 : DoorId)].raw ∧ s.debounce = 0 ∧ true ≠ s.doors[(3 : DoorId)].level ∧ Calm s ∧ s.mode = .stabled ∧
    DoorsFollowLevels s :=
  ⟨by decide, rfl, by decide, ⟨rfl, rfl⟩, rfl, edged_follow false false⟩

/-! ### The register window and attention words -/

/-- A lane that walks is busy; after reset neither is, and sizes 0 and 257 are out of range. -/
theorem witness_AreaWritesPlaceTheArea :
    (∃ l : LaneId, (walk 0 chain .reset).lanes[l].state ≠ .idle) ∧
    (¬ ∃ l : LaneId, State.reset.lanes[l].state ≠ .idle ∨ State.reset.lanes[l].queue ≠ []) ∧
    ((0 : Word).truncate 9 : BitVec 9).toNat = 0 ∧ 256 < ((257 : Word).truncate 9 : BitVec 9).toNat := by decide

/-- A record written into the region by hand, with the edition the state has for it. -/
def standing (r : Record) (s : State) : State :=
  hostWritten s (areaBase s + r.offset)
    (leBytes 2 s.reports.editions[r.index].toNat ++ recordContents s r ++ leBytes 2 s.reports.editions[r.index].toNat)

/-- A lane with four heads queued, the 257th block of its chain reached. -/
def crowded : State :=
  (withArea .reset).setLane 1
    { queue := [0x2000, 0xFFFFE0, 0x1000000, 0x2001], state := .running { chain with head := 0xFFFFE0, position := 257 } }

/-- Sizes of 1 and 256; and records that stand: one of each kind, the lane's at the bounds of its queue and its position. -/
theorem witness_AreaSizeValidatesArea :
    ((∀ l : LaneId, State.reset.lanes[l].state = .idle ∧ State.reset.lanes[l].queue = []) ∧ Calm State.reset ∧
      1 ≤ ((1 : Word).truncate 9 : BitVec 9).toNat ∧ ((256 : Word).truncate 9 : BitVec 9).toNat ≤ 256) ∧
    (∀ r ∈ [Record.part, .fault, .camera 11, .soil 11, .door 7, .display 3, .lane 0, .reference 11],
      RecordStands (standing r running) r) ∧
    RecordStands (standing (.lane 1) crowded) (.lane 1) ∧ crowded.lanes[(1 : LaneId)].queue.length = 4 :=
  ⟨⟨by decide, calm_reset, by decide, by decide⟩, by unfold RecordStands; decide +kernel,
   by unfold RecordStands; decide +kernel, rfl⟩

theorem witness_RegisterAccessesAct :
    State.reset.window.attention = none ∧ (captured 1 .reset).window.attention ≠ none ∧
    (∀ l : LaneId, State.reset.lanes[l].queue.length ≤ 4) := by decide

/-- A lane with a queue that is full. -/
def queued (l : LaneId) (n : Nat) (s : State) : State := s.setLane l { state := .faulted, queue := .replicate n 0x2000 }

/-- Code 7, a RESTART of 14, and a HALT LANE and a RUN CHAIN of lane 2 are bad, the last under REJECT too; an ACKNOWLEDGE is not. A RUN
CHAIN of lane 1 meets REJECT, or a full queue. -/
theorem witness_WordsAreDropped :
    (captured 7 .reset).window.attention = some (7, 0x2000) ∧ 6 ≤ attentionCode 7 ∧
    attentionCode 0xE4 = 4 ∧ attentionTarget 0xE4 = 14 ∧ attentionCode 3 = 3 ∧
    attentionCode 0x11 = 1 ∧ attentionTarget 0x11 = (1 : LaneId).val ∧ Calm (captured 0x11 .reset) ∧
    (captured 0x11 .reset).window.areaValid = false ∧
    (attentionCode 0x21 = 1 ∧ attentionTarget 0x21 = 2 ∧ attentionCode 0x22 = 2 ∧ attentionTarget 0x22 = 2 ∧
      (∀ w, (captured w .reset).window.attention = some (w, 0x2000) ∧ Calm (captured w .reset)) ∧ reject (captured 0x21 .reset) = true ∧
      reject (captured 0x21 (withArea .reset)) = false) ∧
    (let s := captured 0x11 (queued 1 4 (withArea .reset))
     Calm s ∧ s.window.areaValid = true ∧ s.reports.suspended = false ∧ s.lanes[(1 : LaneId)].queue.length = 4) :=
  ⟨rfl, by decide, by decide, by decide, by decide, by decide, by decide, ⟨rfl, rfl⟩, rfl,
   ⟨by decide, by decide, by decide, by decide, fun _ => ⟨rfl, rfl, rfl⟩, rfl, rfl⟩, ⟨rfl, rfl⟩, rfl, rfl, rfl⟩

/-- Three heads wait and a fourth comes; in RUN and in STABLED. -/
theorem witness_RunChainAppendsHead :
    let s := captured 0x11 (queued 1 3 (withArea .reset))
    Captured s 0x11 0x2000 1 ∧ attentionTarget 0x11 = (1 : LaneId).val ∧ Calm s ∧ s.window.areaValid = true ∧
    s.reports.suspended = false ∧ s.lanes[(1 : LaneId)].queue.length < 4 ∧ s.mode = .run ∧
    ({ s with mode := .stabled } : State).mode = .stabled :=
  ⟨⟨rfl, by decide⟩, by decide, ⟨rfl, rfl⟩, rfl, rfl, by decide, rfl, rfl⟩

theorem witness_HaltStopsLaneBetweenBlocks :
    let s (w : Word) := captured w (walk 1 { chain with position := 256 } .reset)
    Captured (s 0x12) 0x12 0x2000 2 ∧ attentionTarget 0x12 = (1 : LaneId).val ∧
    Captured (s 0xD4) 0xD4 0x2000 4 ∧ attentionTarget 0xD4 = 12 + (1 : LaneId).val ∧ Calm (s 0x12) ∧
    inHand (s 0x12) 1 = none ∧ (s 0x12).lanes[(1 : LaneId)].halting = none ∧
    (s 0x12).lanes[(1 : LaneId)].queue.length ≤ 4 ∧
    (∀ c, (s 0x12).lanes[(1 : LaneId)].state = .running c → c.position ≤ 256) :=
  ⟨⟨rfl, by decide⟩, by decide, ⟨rfl, by decide⟩, by decide, ⟨rfl, rfl⟩, rfl, rfl, by decide, by
    intro c h
    cases h
    decide⟩

/-- An export of a frame of two lines with `rows` rows written, its block in hand. -/
def moving (rows : Nat) : State :=
  { hand 1 (block .exportFrame 0 []) .reset with mover := .moving 0 ⟨0x40000000, 64, 1000⟩ 2 16 2 8812 90000 rows }

/-- A lane 0 block; an export with a row to write; an export whose rows are all written. -/
theorem witness_HaltEndsBlockInHand :
    (∃ c b, let s := captured 0x02 (hand 0 (block .setCab 0 []) .reset)
      Captured s 0x02 0x2000 2 ∧ attentionTarget 0x02 = (0 : LaneId).val ∧ Calm s ∧ inHand s 0 = some (c, b) ∧
      s.lanes[(0 : LaneId)].halting = none) ∧
    (∃ c b, let s := captured 0xD4 (moving 1)
      Captured s 0xD4 0x2000 4 ∧ attentionTarget 0xD4 = 12 + (1 : LaneId).val ∧ Calm s ∧ inHand s 1 = some (c, b) ∧
      s.lanes[(1 : LaneId)].halting = none ∧ s.mover.allRows = false ∧ s.mover ≠ .idle) ∧
    (∃ c b, let s := captured 0x12 (moving 2)
      Captured s 0x12 0x2000 2 ∧ attentionTarget 0x12 = (1 : LaneId).val ∧ Calm s ∧ inHand s 1 = some (c, b) ∧
      s.lanes[(1 : LaneId)].halting = none ∧ s.mover.allRows = true) :=
  ⟨⟨_, _, ⟨rfl, by decide⟩, by decide, ⟨rfl, rfl⟩, rfl, rfl⟩,
   ⟨_, _, ⟨rfl, by decide⟩, by decide, ⟨rfl, rfl⟩, rfl, rfl, by decide, nofun⟩,
   ⟨_, _, ⟨rfl, by decide⟩, by decide, ⟨rfl, rfl⟩, rfl, rfl, by decide⟩⟩

theorem witness_AcknowledgeClearsNotices : Captured (captured 0x02000003 .reset) 0x02000003 0x2000 3 ∧
    Calm (captured 0x02000003 .reset) :=
  ⟨⟨rfl, by decide⟩, rfl, rfl⟩

theorem framing_slots : PortSlots (framing 3 0 true).store[(0 : PortId)] (framing 3 0 true).ports[(0 : PortId)].frame := by
  have frame : (framing 3 0 true).ports[(0 : PortId)].frame =
    some { count := 7, slot := 0, next := 3, patched := 0, due := true } := rfl
  have filling : ∀ i : SlotId, (framing 3 0 true).store[(0 : PortId)].slots[i].state = .filling ↔ (0 : SlotId) = i := by decide
  refine ⟨fun i => ?_, by decide, by decide, by decide, by decide⟩
  rw [filling i, frame]
  exact ⟨fun h => ⟨_, rfl, h⟩, fun ⟨f, h, k⟩ => by cases h; exact k⟩

theorem witness_RestartPortStartsAfresh :
    let s := captured 0x04 (framing 3 0 true)
    Captured s 0x04 0x2000 4 ∧ attentionTarget 0x04 = (0 : PortId).val ∧ Calm s ∧
    PortSlots s.store[(0 : PortId)] s.ports[(0 : PortId)].frame :=
  ⟨⟨rfl, by decide⟩, by decide, ⟨rfl, rfl⟩, framing_slots⟩

/-- A lane that walks, with the area valid and not; an export with a row to write; an export whose rows are all written, with a halt
that waits. -/
theorem witness_RestartAllRewritesReports :
    (let s := captured 0xF4 (withArea (walk 0 chain .reset))
     Captured s 0xF4 0x2000 4 ∧ attentionTarget 0xF4 = 15 ∧ Calm s ∧ HaltsSettled s ∧ s.window.areaValid = true) ∧
    (captured 0xF4 .reset).window.areaValid = false ∧
    (let s := captured 0xF4 (hand 0 (block .setCab 0 []) (moving 1))
     Captured s 0xF4 0x2000 4 ∧ Calm s ∧ HaltsSettled s ∧ (inHand s 0).isSome = true ∧ (inHand s 1).isSome = true ∧
     s.mover ≠ .idle ∧ s.mover.allRows = false) ∧
    (let s := captured 0xF4 ((moving 2).setLane 1
       { (moving 2).lanes[(1 : LaneId)] with halting := some { announce := true, zero := false } })
     Captured s 0xF4 0x2000 4 ∧ Calm s ∧ HaltsSettled s ∧ (inHand s 1).isSome = true ∧ s.mover.allRows = true) :=
  ⟨⟨⟨rfl, by decide⟩, by decide, ⟨rfl, rfl⟩, ⟨rfl, fun h => absurd rfl h⟩, rfl⟩, rfl,
   ⟨⟨rfl, by decide⟩, ⟨rfl, rfl⟩, ⟨rfl, fun h => absurd rfl h⟩, rfl, rfl, nofun, by decide⟩,
   ⟨rfl, by decide⟩, ⟨rfl, rfl⟩, ⟨rfl, fun _ => ⟨by decide, rfl⟩⟩, rfl, by decide⟩

theorem witness_WakeWakesStabledPart :
    Captured (captured 5 .reset) 5 0x2000 5 ∧ Calm (captured 5 .reset) ∧ (captured 5 .reset).mode = .run ∧
    Captured (captured 5 { State.reset with mode := .stabled }) 5 0x2000 5 :=
  ⟨⟨rfl, by decide⟩, ⟨rfl, rfl⟩, rfl, rfl, by decide⟩

/-! ### The walk along a chain -/

/-- A lane at a block whose header begins with some bytes, in a work area of 64 KiB. -/
def reaching (l : LaneId) (phase : LanePhase) (position : Nat) (header : List Byte) : State :=
  hostWritten (walk l { chain with position, phase } (withArea .reset)) 0x12000 header

theorem reaching_walks (l : LaneId) (phase : LanePhase) (position : Nat) (header : List Byte) :
    Walks (reaching l phase position header) l phase { chain with position, phase } := by
  refine ⟨?_, rfl, ?_, rfl⟩ <;> simp [reaching, hostWritten, walk, State.setLane]

theorem placed (l : LaneId) (phase : LanePhase) (position : Nat) (header : List Byte) :
    Safety.Placed (reaching l phase position header) chain.block := by
  refine ⟨by decide, by decide, ?_⟩
  show 0x2000 + 32 ≤ 65536
  decide

/-- A block of lane 0 that is PENDING, the last its chain may hold, and one of lane 1 of 288 bytes. -/
theorem witness_HeaderReadTakesBlock :
    (let s := reaching 0 .reach 255 [0, 0, 0, 14]
     s.bus.fate = [] ∧ (s.bus.mem.read 0x12000).toNat = 0 ∧ (s.bus.mem.read 0x12003).toNat = 14) ∧
    (let s := reaching 1 .reach 0 [0, 0, 0, 15, 0, 0, 32, 1]
     (s.bus.mem.read 0x12003).toNat = 15 ∧ (s.bus.mem.read 0x12006).toNat + 256 * (s.bus.mem.read 0x12007).toNat = 288 ∧
     0x2000 + 32 + 288 ≤ areaBytes s) := by decide +kernel

/-- Status 1, a body of 289 bytes, and kind 15 on lane 0. -/
theorem witness_HeaderReadEndsBlock :
    ((reaching 0 .reach 256 []).bus.fate = []) ∧
    ((reaching 0 .reach 0 [1]).bus.mem.read 0x12000).toNat ≠ 0 ∧
    (let s := reaching 0 .reach 0 [0, 0, 0, 1, 0, 0, 33, 1]
     288 < (s.bus.mem.read 0x12006).toNat + 256 * (s.bus.mem.read 0x12007).toNat) ∧
    ((reaching 0 .reach 0 [0, 0, 0, 15]).bus.mem.read 0x12003).toNat = 15 := by decide +kernel

/-- The 257th block, a PENDING one, and one that is DONE. -/
theorem witness_SkipWalkSkipsBlock :
    Walks (reaching 0 .skip 256 []) 0 .skip { chain with position := 256, phase := .skip } ∧
    ((reaching 0 .skip 255 []).bus.mem.read 0x12000).toNat = 0 ∧
    ((reaching 0 .skip 255 [2]).bus.mem.read 0x12000).toNat ≠ 0 :=
  ⟨reaching_walks _ _ _ _, by decide +kernel, by decide +kernel⟩

theorem failing_walks (k landed : Nat) (l : LaneId) (phase : LanePhase) (position : Nat) (header : List Byte) :
    Walks (failing k landed (reaching l phase position header)) l phase { chain with position, phase } ∧
    Safety.Placed (failing k landed (reaching l phase position header)) chain.block :=
  ⟨reaching_walks l phase position header, placed l phase position header⟩

/-- A block below the region's end, as the 257th of its chain. -/
def below : State := walk 0 { chain with block := 0x1FE0, position := 256 } (withArea .reset)

/-- The last place of the area, with a body of 16 bytes. -/
def leaving : State :=
  hostWritten (walk 0 { chain with block := 0xFFE0, position := 255 } (withArea .reset)) 0x1FFE0 [0, 0, 0, 1, 0, 0, 16, 0]

/-- A block below the region's end; a body that leaves the area. The link fails a header, a body of 4 bytes, TAKEN after that body,
and TAKEN with no body. It fails a status for the 257th block, a SKIPPED one, one of status 1, one of 289 bytes, and one of kind 0;
and a field of the ending of a CLEAR LAYOUT. -/
theorem witness_MisplacedBlockFaultsLane :
    (Walks below 0 .reach { chain with block := 0x1FE0, position := 256 } ∧ ¬ Safety.Placed below 0x1FE0 ∧ below.bus.fate = []) ∧
    (Walks leaving 0 .reach { chain with block := 0xFFE0, position := 255 } ∧ Safety.Placed leaving 0xFFE0 ∧
      leaving.bus.fate = [] ∧ leaving.bus.mem.readBytes 0x1FFE0 8 = [0, 0, 0, 1, 0, 0, 16, 0] ∧
      areaBytes leaving < 0xFFE0 + 32 + 16) ∧
    (∀ k landed l phase position header,
      Walks (failing k landed (reaching l phase position header)) l phase { chain with position, phase } ∧
      Safety.Placed (failing k landed (reaching l phase position header)) chain.block ∧
      (failing k landed (reaching l phase position header)).bus.fate = failsAt k landed) ∧
    (let header (status kind low high : Byte) := [status, 0, 0, kind, 0, 0, low, high]
     let reads (header : List Byte) := (reaching 0 .reach 0 header).bus.mem.readBytes 0x12000 8 = header
     reads (header 0 1 4 0) ∧ reads (header 0 14 0 0) ∧ reads (header 1 1 0 0) ∧ reads (header 0 1 33 1) ∧
     reads (header 0 0 0 0) ∧ 288 < 33 + 256 * 1 ∧ 0x2000 + 32 + 4 ≤ areaBytes (reaching 0 .reach 0 (header 0 1 4 0))) ∧
    (∃ c b, let s := failing 3 1 (hand 0 (block .clearLayout 15 []) .reset)
      inHand s 0 = some (c, b) ∧ b.kind = Kind.clearLayout.code ∧ b.target = (15 : LayoutId).val ∧ b.body = [] ∧
      s.lanes[(0 : LaneId)].halting = none ∧ NothingDue s ∧ s.bus.fate = failsAt 3 1) :=
  ⟨⟨⟨rfl, rfl, rfl, rfl⟩, fun h => absurd h.2.1 (by decide), rfl⟩,
   ⟨⟨rfl, rfl, rfl, rfl⟩, ⟨by decide, by decide, by decide +kernel⟩, rfl, by decide +kernel, by decide +kernel⟩,
   fun k landed l phase position header =>
    ⟨(failing_walks k landed l phase position header).1, (failing_walks k landed l phase position header).2, rfl⟩,
   by decide +kernel, ⟨_, _, rfl, rfl, rfl, rfl, rfl, rfl, rfl⟩⟩

/-! ### Lane 0 blocks -/

/-- A command's block in hand of lane 0 of a Calm state. -/
theorem in_hand (k : Kind) (target : Nat) (body : List Byte) (s : State) (h : Calm s) :
    ∃ c b, BlockInHand (hand 0 (block k target body) s) 0 k c b ∧ b.target = target ∧ b.body = body :=
  ⟨_, _, hand_inHand 0 k target body s h, rfl, rfl⟩

/-- The body of a DOOR camera of 320 by 240. -/
def cameraBody : List Byte := [0, 0, 0, 1, 0, 0, 0x40, 1, 240, 0, 0, 0, 0, 0, 0, 0]

/-- Target 12; a LIVE port; 15 bytes; role 4; and a body in range of an UNDEFINED PARKED port. -/
theorem witness_DefineCameraTakesRecord :
    (∃ c b, BlockInHand (hand 0 (block .defineCamera 12 []) .reset) 0 .defineCamera c b ∧ 12 ≤ b.target) ∧
    (∃ c b, BlockInHand (hand 0 (block .defineCamera 0 []) (pictured .reset)) 0 .defineCamera c b ∧ b.target = (0 : PortId).val) ∧
    (∃ c b, BlockInHand (hand 0 (block .defineCamera 11 cameraBody) .reset) 0 .defineCamera c b ∧
      b.target = (11 : PortId).val ∧ b.body = cameraBody) ∧
    State.reset.ports[(11 : PortId)].state = .parked ∧ (pictured .reset).ports[(0 : PortId)].state ≠ .parked ∧
    cameraBody.length = 16 ∧ (cameraBody.drop 1).length ≠ 16 ∧ (cameraOf cameraBody).isSome = true ∧
    cameraOf (4 :: cameraBody.drop 1) = none :=
  ⟨⟨_, _, hand_inHand _ _ _ _ _ calm_reset, by decide⟩, ⟨_, _, hand_inHand _ _ _ _ _ ⟨rfl, rfl⟩, rfl⟩,
   ⟨_, _, hand_inHand _ _ _ _ _ calm_reset, rfl, rfl⟩, rfl, by decide, rfl, by decide, by decide +kernel, by decide +kernel⟩

theorem witness_ParkAndUnparkMoveThePort :
    (∃ c b, BlockInHand (hand 0 (block .parkCamera 0 []) (framing 3 0 true)) 0 .parkCamera c b ∧
      b.target = (0 : PortId).val ∧ b.body = []) ∧
    (framing 3 0 true).ports[(0 : PortId)].state ≠ .parked ∧ (framing 3 0 true).ports[(1 : PortId)].state = .parked ∧
    PortSlots (framing 3 0 true).store[(0 : PortId)] (framing 3 0 true).ports[(0 : PortId)].frame ∧
    (∃ c b, BlockInHand (hand 0 (block .unparkCamera 0 []) (State.reset.setPort 0 (cameraPort .parked))) 0 .unparkCamera c b ∧
      b.target = (0 : PortId).val ∧ b.body = []) ∧
    (State.reset.setPort 0 (cameraPort .parked)).ports[(0 : PortId)].undefined = false ∧
    State.reset.ports[(0 : PortId)].undefined = true :=
  ⟨in_hand _ _ _ _ ⟨rfl, rfl⟩, by decide, by decide, framing_slots, in_hand _ _ _ _ ⟨rfl, rfl⟩, rfl, rfl⟩

/-- The 32 bytes of a tile of 320 by 240 at a column of the canvas. -/
def tileBytes (x : Nat) : List Byte :=
  leBytes 2 x ++ [0, 0, 64, 1, 240, 0, 0, 0, 0, 0, 64, 1, 240, 0, 0, 0, 0, 0, 64, 1, 240, 0, 0, 255, 0, 9, 8, 7, 0, 0]

/-- A tile that ends at the canvas's last column, and a list whose second tile ends past it; lengths of 0 and 33; a selection of slots
15 and 16. -/
theorem witness_LayoutBlocksChangeTheTable :
    (∃ c b, BlockInHand (hand 0 (block .loadLayout 15 (tileBytes 1600)) .reset) 0 .loadLayout c b ∧
      b.target = (15 : LayoutId).val ∧ b.body = tileBytes 1600) ∧
    (tileBytes 1600).length = 32 ∧ TileAllowed (tileBytes 1600) 0 ∧
    (∃ c b, BlockInHand (hand 0 (block .loadLayout 15 (tileBytes 1600 ++ tileBytes 1601)) .reset) 0 .loadLayout c b ∧
      b.target = (15 : LayoutId).val ∧ b.body = tileBytes 1600 ++ tileBytes 1601) ∧
    TileAllowed (tileBytes 1600 ++ tileBytes 1601) 0 ∧ ¬ TileAllowed (tileBytes 1600 ++ tileBytes 1601) 32 ∧
    ([] : List Byte).length = 0 ∧ (0 :: tileBytes 0).length % 32 ≠ 0 ∧
    (∃ c b, BlockInHand (hand 0 (block .clearLayout 15 []) .reset) 0 .clearLayout c b ∧ b.target = (15 : LayoutId).val ∧
      b.body = []) ∧
    (∃ c b, BlockInHand (hand 0 (block .selectLayout 3 [15, 0, 0, 0]) .reset) 0 .selectLayout c b ∧
      b.target = (3 : DisplayId).val ∧ b.body = [15, 0, 0, 0]) ∧
    number [15, 0, 0, 0] 0 1 = (15 : LayoutId).val ∧ 16 ≤ number [16, 0, 0, 0] 0 1 := by
  refine ⟨in_hand _ _ _ _ calm_reset, rfl, ?_, in_hand _ _ _ _ calm_reset, ?_, ?_, rfl, by decide, in_hand _ _ _ _ calm_reset,
    in_hand _ _ _ _ calm_reset, by decide +kernel, by decide +kernel⟩
  all_goals
    simp only [TileAllowed, IsSource, SourceFits]
    decide +kernel

/-- Width, height and period of a display of 640 by 480. -/
def displayBody : List Byte := [7, 0, 0x80, 2, 0xE0, 1, 0, 0, 0x20, 0x4E, 0, 0] ++ zeros 12

/-- An unconfigured display and a body of 640 by 480, 20 ms; with it, an export that waits for the display. A body that gives the
width only, one of 639 columns, an on-count at 2^N - 1 and at 2^N; and a configured display. -/
theorem witness_SetDisplayTakesSettings :
    (∃ c b, BlockInHand (hand 0 (block .setDisplay 0 displayBody) running) 0 .setDisplay c b ∧
      b.target = (0 : DisplayId).val ∧ b.body = displayBody) ∧
    displayBody.length = 24 ∧ number displayBody 0 2 = 7 ∧ number displayBody 2 2 = 640 ∧ number displayBody 4 2 = 480 ∧
    number displayBody 8 4 = 20000 ∧ (number (1 :: displayBody.drop 1) 0 2).testBit 1 = false ∧
    number ([7, 0, 0x7F, 2] ++ displayBody.drop 4) 2 2 = 639 ∧
    (let body (count : Byte) : List Byte := [0, 3] ++ zeros 16 ++ [4, count] ++ zeros 4
     number (body 15) 0 2 = 768 ∧ number (body 15) 19 1 = 2 ^ number (body 15) 18 1 - 1 ∧
     number (body 16) 19 1 = 2 ^ number (body 16) 18 1) ∧
    running.displays[(0 : DisplayId)].configured = false ∧ running.displays[(0 : DisplayId)].timing = none ∧
    running.calling = callingSet running ∧ (∀ ops, running.mover ≠ .waiting 0 ops) ∧ startsLive running 0 ∧
    ¬ startsLive running 2 ∧ (showing true).displays[(0 : DisplayId)].configured = true ∧
    (∃ c b, let s := hand 0 (block .setDisplay 0 displayBody) (awaiting 2560 1228800 running)
      BlockInHand s 0 .setDisplay c b ∧ s.mover = .waiting 0 ⟨0x40000000, 2560, 1228800⟩ ∧ HoldersBounded s ∧
      (inHand s 1).isSome = true ∧ s.calling = callingSet s) :=
  ⟨in_hand _ _ _ _ ⟨rfl, rfl⟩, rfl, by decide +kernel, by decide +kernel, by decide +kernel, by decide +kernel,
   by decide +kernel, by decide +kernel, by decide +kernel, rfl, rfl,
   by decide +kernel, nofun, ⟨rfl, rfl⟩, (fun h => nomatch h.1), rfl,
   ⟨_, _, hand_inHand _ _ _ _ _ ⟨rfl, rfl⟩, rfl, free_holders _ reset_free reset_plain, rfl, by decide +kernel⟩⟩

/-- A screen of 640 by 480 with row 479 to write, and with every row written at the frame end. -/
def copying (row : Nat) : State :=
  { (hand 1 (block .exportScreen 0 []) (pictured running)).setDisplay 0 (showing false).displays[(0 : DisplayId)] with
    mover := .copying 0 ⟨0x40000000, 2560, 1228800⟩ 640 480 80000 51203 row }

theorem copying_holders (row : Nat) : HoldersBounded (copying row) := by
  have free : ∀ (p : PortId) (i : SlotId), (pictured running).store[p].slots[i].locks = {} := by decide
  have plain : ∀ d : DisplayId, (copying 0).displays[d].configured = false → (copying 0).displays[d].timing = none := by decide
  exact free_holders _ free plain

/-- Cab B over cab A, with no export, with a WAITING and with a COPYING one of display 0, which is of cab A; cab A again, and a byte
of 3. -/
theorem witness_SetCabHandsOver :
    (∃ c b, BlockInHand (hand 0 (block .setCab 0 [2, 0, 0, 0]) running) 0 .setCab c b ∧ b.body.length = 4 ∧
      (b.body.getD 0 0).toNat = abNumber (some .b)) ∧
    some AB.b ≠ running.cab ∧ some AB.a = running.cab ∧ 2 < (([3, 0, 0, 0] : List Byte).getD 0 0).toNat ∧
    screenOf running.mover = none ∧ some AB.b ≠ some (cabOf 0) ∧
    (∃ c b, let s := hand 0 (block .setCab 0 [2, 0, 0, 0]) (awaiting 2560 1228800 (showing true))
      BlockInHand s 0 .setCab c b ∧ screenOf s.mover = some 0 ∧ some AB.b ≠ s.cab ∧ (inHand s 1).isSome = true ∧
      HoldersBounded s) ∧
    (∃ c b, let s := hand 0 (block .setCab 0 [2, 0, 0, 0]) (copying 479)
      BlockInHand s 0 .setCab c b ∧ screenOf s.mover = some 0 ∧ some AB.b ≠ s.cab ∧ (inHand s 1).isSome = true ∧
      HoldersBounded s) :=
  ⟨⟨_, _, hand_inHand _ _ _ _ _ ⟨rfl, rfl⟩, rfl, rfl⟩, by decide, rfl, by decide, rfl, by decide,
   ⟨_, _, hand_inHand _ _ _ _ _ ⟨rfl, rfl⟩, rfl, by decide, rfl, free_holders _ reset_free (showing_plain true)⟩,
   ⟨_, _, hand_inHand _ _ _ _ _ ⟨rfl, rfl⟩, rfl, by decide, rfl, copying_holders 479⟩⟩

/-- A debounce time of 250 is in range and one of 251 is not; nor is a dwell of 199 of door 8. -/
theorem witness_SetDoorPolicyTakesPolicy :
    (∃ c b, BlockInHand (hand 0 (block .setDoorPolicy 0 ([1, 0, 0, 0, 250] ++ zeros 19)) running) 0 .setDoorPolicy c b ∧
      b.body.length = 24) ∧
    policyRanges ([1, 0, 0, 0, 250] ++ zeros 19) = true ∧ policyRanges ([1, 0, 0, 0, 251] ++ zeros 19) = false ∧
    policyRanges ([0, 0, 1, 0] ++ zeros 18 ++ [199, 0]) = false :=
  ⟨⟨_, _, hand_inHand _ _ _ _ _ ⟨rfl, rfl⟩, rfl⟩, by decide +kernel, by decide +kernel, by decide +kernel⟩

theorem pictured_port_slots (p : PortId) :
    PortSlots (pictured running).store[p] (pictured running).ports[p].frame := (pictured_slots running rfl rfl p).1

/-- RUN with every door SHUT, with no export and with a COPYING one; a door that is not SHUT; and STABLED. -/
theorem witness_EnterStablingParksThePart :
    (∃ c b, BlockInHand (hand 0 (block .enterStabling 0 []) (pictured running)) 0 .enterStabling c b ∧ b.body = []) ∧
    (pictured running).mode = .run ∧ (∀ k : DoorId, (pictured running).doors[k].state = .shut) ∧
    (¬ ∀ k : DoorId, (edged true true 0).doors[k].state = .shut) ∧
    (∀ p : PortId, PortSlots (pictured running).store[p] (pictured running).ports[p].frame) ∧
    (∀ d ops w h y f r, (pictured running).mover ≠ .copying d ops w h y f r) ∧
    (∃ c b, let s := hand 0 (block .enterStabling 0 []) (copying 479)
      BlockInHand s 0 .enterStabling c b ∧ b.body = [] ∧ s.mode = .run ∧ (∀ k : DoorId, s.doors[k].state = .shut) ∧
      (∀ p : PortId, PortSlots s.store[p] s.ports[p].frame) ∧
      s.mover = .copying 0 ⟨0x40000000, 2560, 1228800⟩ 640 480 80000 51203 479 ∧ (inHand s 1).isSome = true ∧
      HoldersBounded s) :=
  ⟨⟨_, _, hand_inHand _ _ _ _ _ ⟨rfl, rfl⟩, rfl⟩, rfl, by decide, by decide, pictured_port_slots, nofun,
   ⟨_, _, hand_inHand _ _ _ _ _ ⟨rfl, rfl⟩, rfl, rfl, by decide, pictured_port_slots, rfl, rfl, copying_holders 479⟩⟩

/-- 4 and 32 frames, and 3 and 33; a reference of 96 bytes. -/
theorem witness_ReferenceBlocksSetTheReference :
    (∃ c b, BlockInHand (hand 0 (block .learnReference 0 [4, 0, 0, 0]) (pictured running)) 0 .learnReference c b ∧
      b.target = (0 : PortId).val ∧ b.body = [4, 0, 0, 0]) ∧
    (pictured running).ports[(0 : PortId)].undefined = false ∧ (pictured running).ports[(0 : PortId)].state = .live ∧
    (let frames (n : Byte) := if n.toNat = 0 then 16 else n.toNat
     4 ≤ frames 4 ∧ frames 32 ≤ 32 ∧ frames 3 < 4 ∧ 32 < frames 33 ∧ frames 0 = 16) ∧
    (∃ c b, BlockInHand (hand 0 (block .setReference 0 (zeros 96)) (pictured running)) 0 .setReference c b ∧
      b.target = (0 : PortId).val ∧ b.body = zeros 96) ∧
    (zeros 96).length = 96 ∧ (pictured running).soil[(0 : PortId)].state ≠ .learning ∧
    (serving { state := .learning }).soil[(0 : PortId)].state = .learning :=
  ⟨in_hand _ _ _ _ ⟨rfl, rfl⟩, rfl, rfl, by decide, in_hand _ _ _ _ ⟨rfl, rfl⟩, rfl, by decide, rfl⟩

/-- The power-on limits are consistent; a warn threshold at the blind one is not. -/
theorem witness_SoilBlocksSetFlagAndLimits :
    (∃ c b, BlockInHand (hand 0 (block .measureOnce 0 []) (pictured running)) 0 .measureOnce c b ∧
      b.target = (0 : PortId).val ∧ b.body = []) ∧
    (pictured running).ports[(0 : PortId)].undefined = false ∧ running.ports[(0 : PortId)].undefined = true ∧
    (∃ c b, BlockInHand (hand 0 (block .setSoilLimits 0 (zeros 12)) (pictured running)) 0 .setSoilLimits c b ∧
      b.target = (0 : PortId).val ∧ b.body = zeros 12) ∧
    (limitsOf (zeros 12) {}).consistent = true ∧ (limitsOf ([0x80, 0] ++ zeros 8 ++ [60, 0]) {}).consistent = false :=
  ⟨in_hand _ _ _ _ ⟨rfl, rfl⟩, rfl, rfl, in_hand _ _ _ _ ⟨rfl, rfl⟩, by decide +kernel, by decide +kernel⟩

/-! ### Exports -/

/-- The body of an export block with a stride and a room. -/
def exportBody (stride room : Nat) : List Byte := leBytes 8 0x40000000 ++ leBytes 4 stride ++ leBytes 4 room ++ zeros 16

/-- A state of lane 1 with an export block, port 0 with a READY slot. -/
def exporting (k : Kind) (body : List Byte) : State := hand 1 (block k 0 body) (pictured running)

/-- Display 0 is served: its last frame start was LIVE, under cab A. -/
def served : State :=
  (showing true).setDisplay 0 { (showing true).displays[(0 : DisplayId)] with live := true }

/-- A frame of 16 by 6 with its stride and room met, and each missed by 4; a stride that is no multiple of 4, and a stride of 0; a
screen of a display that is served, its stride and room met, and of one that is not. -/
theorem witness_ExportBlocksAreTaken :
    (∃ c b, BlockInHand (exporting .exportFrame (exportBody 32 192)) 1 .exportFrame c b ∧ b.target = (0 : PortId).val ∧
      b.body = exportBody 32 192) ∧
    (exporting .exportFrame (exportBody 32 192)).mover = .idle ∧
    HoldersBounded (exporting .exportFrame (exportBody 32 192)) ∧ SlotsCoherent (exporting .exportFrame (exportBody 32 192)) ∧
    (exportBody 32 192).length = 32 ∧ number (exportBody 32 192) 0 8 = 0x40000000 ∧ number (exportBody 32 192) 8 4 = 2 * 16 ∧
    number (exportBody 32 192) 12 4 = 6 * 32 ∧ number (exportBody 28 192) 8 4 < 2 * 16 ∧
    number (exportBody 32 188) 12 4 < 6 * 32 ∧ number (exportBody 30 192) 8 4 % 4 ≠ 0 ∧ number (exportBody 0 192) 8 4 = 0 ∧
    (pictured running).store[(0 : PortId)].slots[(2 : SlotId)].width = 16 ∧
    (pictured running).store[(0 : PortId)].slots[(2 : SlotId)].height = 6 ∧
    (pictured running).store[(0 : PortId)].order.getLast? = some 2 ∧ (pictured running).store[(1 : PortId)].order = [] ∧
    (∃ c b, BlockInHand (exporting .exportScreen (exportBody 32 192)) 1 .exportScreen c b ∧ b.target = (0 : DisplayId).val) ∧
    ¬ ((pictured running).displays[(0 : DisplayId)].configured = true) ∧
    (∃ c b, let s := hand 1 (block .exportScreen 0 (exportBody 2560 1228800)) served
      BlockInHand s 1 .exportScreen c b ∧ s.mover = .idle ∧ HoldersBounded s ∧ s.displays[(0 : DisplayId)].live = true ∧
      startsLive s 0 ∧ number b.body 8 4 = 4 * 640 ∧ number b.body 12 4 = 480 * 2560) :=
  ⟨⟨_, _, hand_inHand _ _ _ _ _ ⟨rfl, rfl⟩, rfl, rfl⟩, rfl, pictured_holders running rfl rfl, pictured_slots running rfl rfl,
   by decide +kernel, by decide +kernel, by decide +kernel, by decide +kernel, by decide +kernel, by decide +kernel,
   by decide +kernel, by decide +kernel, rfl, rfl, rfl, rfl, ⟨_, _, hand_inHand _ _ _ _ _ ⟨rfl, rfl⟩, rfl⟩, by decide,
   ⟨_, _, hand_inHand _ _ _ _ _ ⟨rfl, rfl⟩, rfl,
    free_holders _ reset_free (show ∀ d : DisplayId, served.displays[d].configured = false → served.displays[d].timing = none by
      decide),
    rfl, ⟨rfl, rfl⟩, by decide +kernel, by decide +kernel⟩⟩

/-- Row 0 of two and row 1 of two; a row that the link fails, and the last of the four fields; a row and then the status of the
ending. -/
theorem witness_FrameRowsAreWritten :
    (moving 0).mover = .moving 0 ⟨0x40000000, 64, 1000⟩ 2 16 2 8812 90000 0 ∧ FrameSize 16 2 ∧ (moving 0).bus.fate = [] ∧
    (∃ c b, BlockInHand (moving 1) 1 .exportFrame c b) ∧
    (∃ c b, inHand (failing 0 3 (moving 0)) 1 = some (c, b) ∧ NothingDue (failing 0 3 (moving 0)) ∧
      (failing 0 3 (moving 0)).bus.fate = failsAt 0 3 ++ EndingFate.outcomes none) ∧
    (∃ c b, inHand (failing 4 1 (moving 1)) 1 = some (c, b) ∧ NothingDue (failing 4 1 (moving 1)) ∧
      (failing 4 1 (moving 1)).bus.fate = failsAt (1 + 3) 1 ++ EndingFate.outcomes none) ∧
    (∃ c b, let s := { moving 0 with bus := { (moving 0).bus with fate := failsAt 0 3 ++ failsAt 3 1 } }
      inHand s 1 = some (c, b) ∧ NothingDue s ∧ s.bus.fate = failsAt 0 3 ++ EndingFate.outcomes (some (3, 1))) :=
  ⟨rfl, by simp [FrameSize], rfl, ⟨_, _, rfl, rfl, rfl, rfl⟩, ⟨_, _, rfl, rfl, rfl⟩, ⟨_, _, rfl, rfl, rfl⟩, ⟨_, _, rfl, rfl, rfl⟩⟩

theorem copying_frames (row : Nat) : FramesInBounds (copying row) := by
  have ports : ∀ p : PortId, (pictured running).ports[p].camera.width ≤ 1280 ∧ (pictured running).ports[p].camera.height ≤ 768 := by
    decide
  have slots : ∀ (p : PortId) (i : SlotId), (pictured running).store[p].slots[i].width ≤ 1280 ∧
      (pictured running).store[p].slots[i].height ≤ 768 := by decide
  have bare : ∀ d : DisplayId, (copying 0).displays[d].tiles = [] := by decide
  refine ⟨ports, slots, nofun, fun d t ht => ?_⟩
  have h : t ∈ (copying 0).displays[d].tiles := ht
  rw [bare d] at h
  cases h

/-- Row 479 of 480, and the same failed; every row written at the frame end, also with a halt that waits, and with the last of the
four fields failed. -/
theorem witness_ScreenRowsAreWritten :
    (copying 479).mover = .copying 0 ⟨0x40000000, 2560, 1228800⟩ 640 480 80000 51203 479 ∧ (copying 479).bus.fate = [] ∧
    FramesInBounds (copying 479) ∧ (copying 480).displays[(0 : DisplayId)].configured = true ∧
    (copying 480).displays[(0 : DisplayId)].timing = some { start := 80000, period := 20000, ended := false } ∧
    reached (copying 480).clock (stampAfter 80000 20000) = true ∧ HoldersBounded (copying 480) ∧
    (∃ c b, BlockInHand (copying 480) 1 .exportScreen c b) ∧
    (∃ c b, inHand (failing 0 9 (copying 479)) 1 = some (c, b) ∧ NothingDue (failing 0 9 (copying 479)) ∧
      (failing 0 9 (copying 479)).bus.fate = failsAt 0 9 ++ EndingFate.outcomes none) ∧
    (∃ c b, inHand (failing 3 1 (copying 480)) 1 = some (c, b) ∧ NothingDue (failing 3 1 (copying 480)) ∧
      (failing 3 1 (copying 480)).bus.fate = failsAt 3 1 ++ EndingFate.outcomes none) ∧
    (∃ c b, let s := { copying 480 with bus := { (copying 480).bus with fate := failsAt 3 1 ++ failsAt 0 1 } }
      inHand s 1 = some (c, b) ∧ NothingDue s ∧ s.bus.fate = failsAt 3 1 ++ EndingFate.outcomes (some (0, 1))) ∧
    (let s := (copying 480).setLane 1 { (copying 480).lanes[(1 : LaneId)] with halting := some { announce := true, zero := true } }
     s.mover.allRows = true ∧ (inHand s 1).isSome = true ∧ HoldersBounded s ∧ s.bus.fate = []) :=
  ⟨rfl, rfl, copying_frames 479, rfl, rfl, by decide, copying_holders 480, ⟨_, _, rfl, rfl, rfl, rfl⟩, ⟨_, _, rfl, rfl, rfl⟩, ⟨_, _, rfl, rfl, rfl⟩,
   ⟨_, _, rfl, rfl, rfl⟩, by decide, rfl, copying_holders 480, rfl⟩

end Sys2Proof.Tests
end

section
/-! The slots of a port under the operations of the Frame Store (R24 to R34): what each operation does to one slot's record, to its
locks, and to the coherence of the slot table. -/

namespace Sys2Proof.Machine

open Safety

-- The proofs are elaborated in order: side by side, each would hold a thread of its own, and its memory.
set_option Elab.async false

/-! ## Vectors at a bounded index -/

theorem getElem_set_fin {α : Type} {n : Nat} (v : Vector α n) (i j : Fin n) (x : α) :
    (v.set i.val x i.isLt)[j] = if i = j then x else v[j] := by
  simp only [Fin.getElem_fin, Vector.getElem_set, Fin.ext_iff]

@[simp] theorem getElem_set_same {α : Type} {n : Nat} (v : Vector α n) (i : Fin n) (x : α) : (v.set i.val x i.isLt)[i] = x := by
  rw [getElem_set_fin, if_pos rfl]

theorem getElem_set_other {α : Type} {n : Nat} (v : Vector α n) {i j : Fin n} (x : α) (h : i ≠ j) :
    (v.set i.val x i.isLt)[j] = v[j] := by
  rw [getElem_set_fin, if_neg h]

@[simp] theorem getElem_ofFn_fin {α : Type} {n : Nat} (f : Fin n → α) (i : Fin n) : (Vector.ofFn f)[i] = f i := by
  simp [Fin.getElem_fin]

theorem getElem_replicate_fin {α : Type} {n : Nat} (a : α) (i : Fin n) : (Vector.replicate n a)[i] = a := by
  simp [Fin.getElem_fin]

/-! ## Lock sets (R30) -/

@[simp] theorem LockSet.mem_add (l : LockSet) (g h : Holder) : (l.add h).mem g = (decide (g = h) || l.mem g) := by
  cases g with
  | mover => cases h <;> simp [LockSet.add, LockSet.mem]
  | display d =>
    cases h with
    | mover => simp [LockSet.add, LockSet.mem]
    | display e =>
      by_cases hd : d = e
      · subst hd; simp [LockSet.add, LockSet.mem]
      · have h : (l.displays.set e.val true e.isLt)[d] = l.displays[d] := getElem_set_other _ _ (Ne.symm hd)
        simpa [LockSet.add, LockSet.mem, hd] using h

@[simp] theorem LockSet.mem_remove (l : LockSet) (g h : Holder) : (l.remove h).mem g = (decide (g ≠ h) && l.mem g) := by
  cases g with
  | mover => cases h <;> simp [LockSet.remove, LockSet.mem]
  | display d =>
    cases h with
    | mover => simp [LockSet.remove, LockSet.mem]
    | display e =>
      by_cases hd : d = e
      · subst hd; simp [LockSet.remove, LockSet.mem]
      · have h : (l.displays.set e.val false e.isLt)[d] = l.displays[d] := getElem_set_other _ _ (Ne.symm hd)
        simpa [LockSet.remove, LockSet.mem, hd] using h

theorem LockSet.isEmpty_eq_false (l : LockSet) : l.isEmpty = false ↔ ∃ h, l.mem h = true := by
  constructor
  · intro h
    by_cases hm : l.mover = true
    · exact ⟨.mover, hm⟩
    · have hd : ∃ d : DisplayId, l.displays[d] = true := by simpa [LockSet.isEmpty, hm] using h
      exact hd.elim fun d hd => ⟨.display d, hd⟩
  · rintro ⟨h, hh⟩
    cases h with
    | mover => simp_all [LockSet.isEmpty, LockSet.mem]
    | display d =>
      have hd : ∃ d : DisplayId, l.displays[d] = true := ⟨d, hh⟩
      simp only [LockSet.isEmpty, Bool.and_eq_false_iff, List.all_eq_false]
      exact .inr ⟨d, List.mem_finRange d, by simpa [LockSet.mem] using hh⟩

theorem LockSet.not_isEmpty_of_mem {l : LockSet} {h : Holder} (hm : l.mem h = true) : l.isEmpty = false :=
  l.isEmpty_eq_false.mpr ⟨h, hm⟩

/-! ## One slot within its table (R24, R25) -/

/-- What R24 and R25 ask of one slot: `fills` says that it is the slot of the frame in progress, `listed` that it stands in the ready
order. -/
def SlotFits (t : Slot) (fills listed : Prop) : Prop :=
  (t.state = .filling ↔ fills) ∧ (t.locks.isEmpty = false → t.state = .ready) ∧
  (t.discard = true → t.locks.isEmpty = false) ∧ (listed ↔ t.state = .ready ∧ t.discard = false)

/-- The coherence of a port's slots, slot by slot. -/
theorem portSlots_iff (q : StorePort) (frame : Option FrameInProgress) :
    PortSlots q frame ↔
      q.order.Nodup ∧ ∀ i : SlotId, SlotFits q.slots[i] (∃ f, frame = some f ∧ f.slot = i) (i ∈ q.order) := by
  constructor
  · rintro ⟨h1, h2, h3, h4, h5⟩
    exact ⟨h4, fun i => ⟨h1 i, h2 i, h3 i, h5 i⟩⟩
  · rintro ⟨h4, h⟩
    exact ⟨fun i => (h i).1, fun i => (h i).2.1, fun i => (h i).2.2.1, h4, fun i => (h i).2.2.2⟩

section Slot
variable {t : Slot} {fills listed : Prop}

/-- An unlocked slot carries no discard mark. -/
theorem SlotFits.no_discard (h : SlotFits t fills listed) (hl : t.locks.isEmpty = true) : t.discard = false := by
  obtain ⟨-, -, hd, -⟩ := h
  by_contra hne
  rw [hd (by simpa using hne)] at hl
  cases hl

/-- A slot that a frame fills is unlocked and outside the ready order. -/
theorem SlotFits.of_fills (h : SlotFits t fills listed) (hf : fills) :
    t.state = .filling ∧ t.locks.isEmpty = true ∧ t.discard = false ∧ ¬ listed := by
  have hs : t.state = .filling := h.1.mpr hf
  have hl : t.locks.isEmpty = true := by
    by_contra hne
    have := h.2.1 (by simpa using hne)
    rw [hs] at this; cases this
  refine ⟨hs, hl, h.no_discard hl, fun hm => ?_⟩
  have := (h.2.2.2.mp hm).1
  rw [hs] at this; cases this

/-- A frame's slot once the frame has been given up (R28). -/
theorem SlotFits.toEmpty (h : SlotFits t fills listed) (hf : fills) : SlotFits t.toEmpty False listed := by
  obtain ⟨-, hl, -, hn⟩ := h.of_fills hf
  simp [SlotFits, Slot.toEmpty, hl, hn]

/-- A frame's slot once the frame is good (R28). -/
theorem SlotFits.complete (h : SlotFits t fills listed) (hf : fills) : SlotFits { t with state := .ready } False True := by
  obtain ⟨-, hl, hd, -⟩ := h.of_fills hf
  simp [SlotFits, hl, hd]

/-- An unlocked slot chosen for a frame (R26). -/
theorem SlotFits.fill (hl : t.locks.isEmpty = true) (count : Half) (stamp : Stamp) (width height : Nat) :
    SlotFits { t with state := .filling, count, stamp, width, height, discard := false } True False := by
  simp [SlotFits, hl]

/-- A slot of the ready order once a holder has joined its lock set (R30). -/
theorem SlotFits.lock (h : SlotFits t fills listed) (hr : listed) (g : Holder) :
    SlotFits { t with locks := t.locks.add g } fills listed := by
  obtain ⟨hs, hd⟩ := h.2.2.2.mp hr
  have hl : (t.locks.add g).isEmpty = false := LockSet.not_isEmpty_of_mem (h := g) (by simp)
  exact ⟨h.1, fun _ => hs, fun _ => hl, h.2.2.2⟩

/-- A slot that a holder has left (R33). -/
theorem SlotFits.release (h : SlotFits t fills listed) (g : Holder) : SlotFits (t.release g) fills listed := by
  unfold Slot.release
  by_cases hm : t.locks.mem g = true
  · rw [if_pos hm]
    obtain ⟨h1, h2, h3, h4⟩ := h
    have hs : t.state = .ready := h2 (LockSet.not_isEmpty_of_mem hm)
    have hf : ¬ fills := fun hf => by have := h1.mpr hf; rw [hs] at this; cases this
    by_cases he : (t.locks.remove g).isEmpty = true ∧ t.discard = true
    · have hn : ¬ listed := fun hr => by have := (h4.mp hr).2; rw [he.2] at this; cases this
      simp [SlotFits, Slot.toEmpty, he.1, he.2, hf, hn]
    · rw [if_neg (by simpa using he)]
      refine ⟨h1, fun _ => hs, fun hd => ?_, h4⟩
      rw [Bool.eq_false_iff]
      exact fun hl => he ⟨hl, hd⟩
  · rw [if_neg hm]; exact h

/-- A slot without a frame once its port has been parked or restarted (R34). -/
theorem SlotFits.withdraw (h : SlotFits t fills listed) (hf : ¬ fills) : SlotFits t.withdraw False False := by
  obtain ⟨h1, h2, h3, -⟩ := h
  unfold Slot.withdraw
  cases hs : t.state with
  | filling => exact absurd (h1.mp hs) hf
  | empty =>
    rw [hs] at h2
    have hl : t.locks.isEmpty = true := by by_contra hne; exact absurd (h2 (by simpa using hne)) (by decide)
    have hd : t.discard = false := by by_contra hne; rw [h3 (by simpa using hne)] at hl; cases hl
    simp [SlotFits, hs, hl, hd]
  | ready =>
    cases hl : t.locks.isEmpty
    · simp [SlotFits, hl]
    · simp [SlotFits, Slot.toEmpty, hl]

end Slot

theorem SlotFits.congr {t : Slot} {fills listed fills' listed' : Prop} (h : SlotFits t fills listed) (hf : fills ↔ fills')
    (hl : listed ↔ listed') : SlotFits t fills' listed' := by
  rwa [← propext hf, ← propext hl]

/-! ## The locks of a slot under an operation -/

@[simp] theorem Slot.toEmpty_locks (t : Slot) : t.toEmpty.locks = t.locks := rfl

theorem Slot.withdraw_locks (t : Slot) : t.withdraw.locks = t.locks := by
  unfold Slot.withdraw
  split
  · rfl
  · rfl
  · split <;> rfl

/-- A release takes one holder from the lock set and leaves the others. -/
@[simp] theorem Slot.release_mem (t : Slot) (g h : Holder) :
    (t.release h).locks.mem g = (decide (g ≠ h) && t.locks.mem g) := by
  unfold Slot.release
  by_cases hm : t.locks.mem h = true
  · rw [if_pos hm]
    dsimp only
    split <;> simp
  · rw [if_neg hm]
    by_cases hg : g = h
    · subst hg; simpa using hm
    · simp [hg]

/-! ## The slots of a port under an operation -/

@[simp] theorem StorePort.release_slot (q : StorePort) (h : Holder) (i : SlotId) :
    (q.release h).slots[i] = q.slots[i].release h := getElem_ofFn_fin _ _

@[simp] theorem StorePort.withdraw_slot (q : StorePort) (i : SlotId) : q.withdraw.slots[i] = q.slots[i].withdraw :=
  getElem_ofFn_fin _ _

theorem StorePort.drop_locks (q : StorePort) (i j : SlotId) : (q.drop i).slots[j].locks = q.slots[j].locks := by
  unfold StorePort.drop
  rw [getElem_set_fin]
  split
  · rename_i h; rw [← h]; rfl
  · rfl

theorem StorePort.complete_locks (q : StorePort) (i j : SlotId) : (q.complete i).slots[j].locks = q.slots[j].locks := by
  unfold StorePort.complete
  rw [getElem_set_fin]
  split
  · rename_i h; rw [← h]
  · rfl

theorem StorePort.fill_locks (q : StorePort) (i : SlotId) (c : Half) (u : Stamp) (w h : Nat) (j : SlotId) :
    (q.fill i c u w h).slots[j].locks = q.slots[j].locks := by
  unfold StorePort.fill
  rw [getElem_set_fin]
  split
  · rename_i h; rw [← h]
  · rfl

/-- A lock adds one holder to one slot. -/
theorem StorePort.lock_mem (q : StorePort) (i : SlotId) (h : Holder) (j : SlotId) (g : Holder) :
    (q.lock i h).slots[j].locks.mem g = (decide (j = i ∧ g = h) || q.slots[j].locks.mem g) := by
  unfold StorePort.lock
  rw [getElem_set_fin]
  split
  · rename_i hij; subst hij; simp
  · rename_i hij; simp [Ne.symm hij]

/-- The slot chosen for a FRAME OPEN is unlocked (R26). -/
theorem StorePort.choose_unlocked {q : StorePort} {i : SlotId} (h : q.choose = some i) : q.slots[i].locks.isEmpty = true := by
  unfold StorePort.choose at h
  split at h
  · rename_i j hj
    cases h
    have := List.find?_some hj
    simp only [Bool.and_eq_true] at this
    exact this.2
  · have := List.find?_some h
    simp only [Bool.and_eq_true] at this
    exact this.2

section Port
variable {q : StorePort} {f : FrameInProgress}

/-- A frame in progress is given up (R28). -/
theorem portSlots_drop (h : PortSlots q (some f)) : PortSlots (q.drop f.slot) none := by
  rw [portSlots_iff] at h ⊢
  refine ⟨h.1, fun i => ?_⟩
  unfold StorePort.drop
  rw [getElem_set_fin]
  split
  · rename_i hi
    subst hi
    exact ((h.2 f.slot).toEmpty ⟨f, rfl, rfl⟩).congr (by simp) Iff.rfl
  · rename_i hi
    exact (h.2 i).congr (by simpa using hi) Iff.rfl

/-- A frame is good: its slot joins the ready order (R28). -/
theorem portSlots_complete (h : PortSlots q (some f)) : PortSlots (q.complete f.slot) none := by
  rw [portSlots_iff] at h ⊢
  obtain ⟨-, -, -, hn⟩ := (h.2 f.slot).of_fills ⟨f, rfl, rfl⟩
  refine ⟨List.nodup_append.mpr ⟨h.1, List.nodup_singleton _, ?_⟩, fun i => ?_⟩
  · rintro a ha b hb rfl
    exact hn (List.mem_singleton.mp hb ▸ ha)
  · unfold StorePort.complete
    rw [getElem_set_fin]
    split
    · rename_i hi
      subst hi
      exact ((h.2 f.slot).complete ⟨f, rfl, rfl⟩).congr (by simp) (by simp)
    · rename_i hi
      exact (h.2 i).congr (by simpa using hi) (by simp [Ne.symm hi])

/-- The chosen slot takes a frame where none is in progress (R26). -/
theorem portSlots_fill (h : PortSlots q none) (hc : q.choose = some f.slot) (count : Half) (stamp : Stamp) (w k : Nat) :
    PortSlots (q.fill f.slot count stamp w k) (some f) := by
  rw [portSlots_iff] at h ⊢
  refine ⟨h.1.filter _, fun i => ?_⟩
  unfold StorePort.fill
  rw [getElem_set_fin]
  split
  · rename_i hi
    subst hi
    exact (SlotFits.fill (StorePort.choose_unlocked hc) count stamp w k).congr (by simp) (by simp)
  · rename_i hi
    exact (h.2 i).congr (by simpa using hi) (by simp [Ne.symm hi])

/-- The newest READY slot of the port takes a lock (R95, R146). -/
theorem portSlots_lock {frame : Option FrameInProgress} (h : PortSlots q frame) {i : SlotId} (hn : q.newest = some i) (g : Holder) :
    PortSlots (q.lock i g) frame := by
  rw [portSlots_iff] at h ⊢
  refine ⟨h.1, fun j => ?_⟩
  unfold StorePort.lock
  rw [getElem_set_fin]
  split
  · rename_i hi
    subst hi
    exact (h.2 i).lock (List.mem_of_getLast? hn) g
  · exact h.2 j

/-- A holder leaves the port's slots (R31 to R33). -/
theorem portSlots_release {frame : Option FrameInProgress} (h : PortSlots q frame) (g : Holder) : PortSlots (q.release g) frame := by
  rw [portSlots_iff] at h ⊢
  refine ⟨h.1, fun i => ?_⟩
  rw [StorePort.release_slot]
  exact (h.2 i).release g

/-- The slots of a port without a frame are withdrawn (R34). -/
theorem portSlots_withdraw (h : PortSlots q none) : PortSlots q.withdraw none := by
  rw [portSlots_iff] at h ⊢
  refine ⟨List.nodup_nil, fun i => ?_⟩
  rw [StorePort.withdraw_slot]
  exact ((h.2 i).withdraw (by simp)).congr (by simp) (by simp [StorePort.withdraw])

end Port

end Sys2Proof.Machine
end

section
/-! The coherence of slots, frames and locks as one invariant of the part, and how each operation of the model keeps it. -/

namespace Sys2Proof.Machine

open Safety

-- The proofs are elaborated in order: side by side, each would hold a thread of its own, and its memory.
set_option Elab.async false

/-- The slot tables fit the frames in progress, and no holder holds more than it may (R10, R24 to R34, R87). -/
def Coherent (s : State) : Prop := SlotsCoherent s ∧ HoldersBounded s

section Frame
variable {s t : State}

/-- The invariant reads the ports, the frame store, the configured flag and timing of each display, and the export record. -/
theorem Coherent.pipes (h : Coherent s)
    (hd : ∀ d : DisplayId, t.displays[d].configured = s.displays[d].configured ∧ t.displays[d].timing = s.displays[d].timing)
    (hp : t.ports = s.ports := by simp) (hs : t.store = s.store := by simp) (hm : t.mover = s.mover := by simp) :
    Coherent t := by
  obtain ⟨hc, h1, h2, h3, h4⟩ := h
  refine ⟨fun p => by rw [hs, hp]; exact hc p, fun d => ?_, fun d => ?_, ?_, ?_⟩
  · rw [(hd d).1, (hd d).2]; exact h1 d
  · rw [hs, (hd d).2]; exact h2 d
  · rw [hs]; exact h3
  · rw [hs, hm]; exact h4

theorem Coherent.congr (h : Coherent s) (hp : t.ports = s.ports := by simp) (hs : t.store = s.store := by simp)
    (hd : t.displays = s.displays := by simp) (hm : t.mover = s.mover := by simp) : Coherent t :=
  h.pipes (fun d => by rw [hd]; exact ⟨rfl, rfl⟩) hp hs hm

/-- An operation on one port that gives its slots a coherent table and leaves every lock as it was. -/
theorem Coherent.port (h : Coherent s) (p : PortId) (v : CapturePort) (w : StorePort) (hw : PortSlots w v.frame)
    (hk : v.state = .parked → v.frame = none) (hl : ∀ i : SlotId, w.slots[i].locks = s.store[p].slots[i].locks)
    (hp : t.ports = s.ports.set p v := by rfl) (hs : t.store = s.store.set p w := by rfl)
    (hd : t.displays = s.displays := by rfl) (hm : t.mover = s.mover := by rfl) : Coherent t := by
  obtain ⟨hc, h1, h2, h3, h4⟩ := h
  have locks : ∀ (r : PortId) (i : SlotId), t.store[r].slots[i].locks = s.store[r].slots[i].locks := by
    intro r i
    rw [hs, getElem_set_fin]
    split
    · rename_i hr; subst hr; exact hl i
    · rfl
  refine ⟨fun r => ?_, by rw [hd]; exact h1, by simp only [locks, hd]; exact h2, by simp only [locks]; exact h3,
    by simp only [locks, hm]; exact h4⟩
  rw [hs, hp, getElem_set_fin, getElem_set_fin]
  split
  · exact ⟨hw, hk⟩
  · exact hc r

/-- A port changes in nothing the slots depend on. -/
theorem Coherent.setPort (h : Coherent s) (p : PortId) (v : CapturePort) (hk : v.state = .parked → v.frame = none)
    (hf : v.frame = s.ports[p].frame := by rfl) : Coherent (s.setPort p v) :=
  h.port p v s.store[p] (by rw [hf]; exact (h.1 p).1) hk (fun _ => rfl) (hs := by simp [Fin.getElem_fin])

/-- A holder leaves every lock set; a display's frame then may be over, and the Export Mover's record may be anything. -/
theorem Coherent.release (h : Coherent s) (g : Holder) (hp : t.ports = s.ports) (hs : t.store = (releaseHolder g s).store)
    (hd : ∀ d : DisplayId, t.displays[d].configured = s.displays[d].configured ∧
      (t.displays[d].timing = s.displays[d].timing ∨
        g = .display d ∧ (s.displays[d].timing = none → t.displays[d].timing = none)))
    (hm : g = .mover ∨ t.mover = s.mover) : Coherent t := by
  obtain ⟨hc, h1, h2, h3, h4⟩ := h
  have store : ∀ r : PortId, t.store[r] = (s.store[r]).release g := fun r => by rw [hs]; exact getElem_ofFn_fin _ _
  have left : ∀ (r : PortId) (i : SlotId) (k : Holder), t.store[r].slots[i].locks.mem k = true →
      k ≠ g ∧ s.store[r].slots[i].locks.mem k = true := by
    intro r i k hk
    rw [store, StorePort.release_slot, Slot.release_mem, Bool.and_eq_true] at hk
    exact ⟨by simpa using hk.1, hk.2⟩
  refine ⟨fun r => ?_, fun d hu => ?_, fun d r i hl => ?_, fun d r i j hi hj => ?_, fun r i hl => ?_⟩
  · rw [store, hp]; exact ⟨portSlots_release (hc r).1 g, (hc r).2⟩
  · obtain ⟨hcfg, ht | ⟨-, ht⟩⟩ := hd d
    · rw [ht]; exact h1 d (hcfg ▸ hu)
    · exact ht (h1 d (hcfg ▸ hu))
  · obtain ⟨hg, hl⟩ := left r i _ hl
    rw [(hd d).2.resolve_right fun e => hg e.1.symm]; exact h2 d r i hl
  · exact h3 d r i j (left r i _ hi).2 (left r j _ hj).2
  · obtain ⟨hg, hl⟩ := left r i _ hl
    rw [hm.resolve_left (Ne.symm hg)]; exact h4 r i hl

end Frame

variable {s : State}

theorem Coherent.finish (h : Coherent s) : Coherent (finishEvent s) := h.congr

theorem Coherent.mark (h : Coherent s) (r : Record) : Coherent (mark r s) := h.congr

theorem Coherent.announce (h : Coherent s) (p : PortId) : Coherent (announceCamera p s) := h.congr

/-! ## Ports (chapter 1) -/

/-- A discarded frame leaves the port without one, in the state it was in. -/
theorem discardFrame_port (p : PortId) (s : State) :
    (discardFrame p s).ports[p] = { s.ports[p] with frame := none, sums := noSums } := by
  unfold discardFrame
  dsimp only
  split
  · rename_i hf
    simp only [State.setPort_ports, getElem_set_same]
    rw [hf]
  · simp only [State.setStore_ports, State.setPort_ports, getElem_set_same]

theorem Coherent.discardFrame (h : Coherent s) (p : PortId) : Coherent (discardFrame p s) := by
  unfold Machine.discardFrame
  dsimp only
  split
  · exact h.setPort p _ (h.1 p).2
  · rename_i f hf
    have hp := (h.1 p).1
    rw [hf] at hp
    exact h.port p { s.ports[p] with frame := none, sums := noSums } (s.store[p].drop f.slot) (portSlots_drop hp) (fun _ => rfl)
      (StorePort.drop_locks _ _)

theorem Coherent.abortFrame (h : Coherent s) (p : PortId) : Coherent (abortFrame p s) := by
  unfold Machine.abortFrame
  split
  · exact h
  · exact ((h.discardFrame p).setPort p _ fun _ => by rw [discardFrame_port]).mark _

theorem abortFrame_frame (p : PortId) (s : State) : (abortFrame p s).ports[p].frame = none := by
  unfold abortFrame
  split
  · assumption
  · simp only [mark_keeps, State.setPort_ports, getElem_set_same, discardFrame_port]

theorem abortFrame_state (p : PortId) (s : State) : (abortFrame p s).ports[p].state = s.ports[p].state := by
  unfold abortFrame
  split
  · rfl
  · simp only [mark_keeps, State.setPort_ports, getElem_set_same, discardFrame_port]

theorem Coherent.openFrame (h : Coherent s) (p : PortId) (count : Half) (hn : s.ports[p].frame = none)
    (hk : s.ports[p].state ≠ .parked) : Coherent (openFrame p count s) := by
  have hp := (h.1 p).1
  rw [hn] at hp
  unfold Machine.openFrame
  dsimp only
  split
  · exact h
  · rename_i i hi
    exact h.port p
      { s.ports[p] with frame := some { count, slot := i, next := 0, patched := 0, due := isDue s p }, sums := noSums }
      _ (portSlots_fill (f := { count, slot := i, next := 0, patched := 0, due := isDue s p }) hp hi _ _ _ _)
      (fun e => absurd e hk) fun j => StorePort.fill_locks ..

theorem Coherent.takeOpen (h : Coherent s) (p : PortId) (count width height : Half) (hk : s.ports[p].state ≠ .parked) :
    Coherent (takeOpen p count width height s) := by
  have ha := h.abortFrame p
  have hn := abortFrame_frame p s
  have hs := abortFrame_state p s
  unfold Machine.takeOpen
  dsimp only
  split
  · exact ha.openFrame p count hn (hs ▸ hk)
  · refine Coherent.mark (ha.setPort p _ ?_) _
    exact fun _ => hn

/-- A state whose port differs in a frame-in-progress record of the same slot only. -/
theorem Coherent.sameSlot {t : State} (h : Coherent s) {p : PortId} {f g : FrameInProgress} {v : CapturePort}
    (hp : t.ports = s.ports.set p v) (hf : s.ports[p].frame = some f) (hk : v.state ≠ .parked) (hv : v.frame = some g)
    (hg : g.slot = f.slot) (hs : t.store = s.store := by simp) (hd : t.displays = s.displays := by simp)
    (hm : t.mover = s.mover := by simp) : Coherent t := by
  refine h.port p v s.store[p] ?_ (fun e => absurd e hk) (fun _ => rfl) hp (by rw [hs]; simp [Fin.getElem_fin]) hd hm
  have hp := (h.1 p).1
  rw [portSlots_iff] at hp ⊢
  exact ⟨hp.1, fun i => (hp.2 i).congr (by rw [hf, hv]; simp [hg]) Iff.rfl⟩

/-- Patched lines keep the coherence, and the port receives a frame in the same slot. -/
theorem Coherent.patchLines (h : Coherent s) {p : PortId} {f : FrameInProgress} (hf : s.ports[p].frame = some f)
    (hk : s.ports[p].state ≠ .parked) (n : Nat) :
    Coherent (patchLines p n s) ∧ (patchLines p n s).ports[p].state ≠ .parked ∧
    ∃ g, (patchLines p n s).ports[p].frame = some g := by
  obtain ⟨-, hp, -⟩ := patchLines_spec p n s f hf
  refine ⟨h.sameSlot hp hf hk rfl rfl, ?_, ?_⟩
  · rw [hp, getElem_set_same]; exact hk
  · rw [hp, getElem_set_same]; exact ⟨_, rfl⟩

theorem Coherent.takeLine (h : Coherent s) {p : PortId} {f : FrameInProgress} (hf : s.ports[p].frame = some f)
    (hk : s.ports[p].state ≠ .parked) (n : Nat) (payload : List Byte) (check : Half) :
    Coherent (takeLine p f n payload check s) := by
  unfold Machine.takeLine
  dsimp only
  split
  · refine Coherent.mark (h.setPort p _ ?_) _
    exact fun e => absurd e hk
  · obtain ⟨h1, hk1, g, hg⟩ := h.patchLines hf hk (n - f.next)
    rw [hg]
    dsimp only
    split
    · exact h1.sameSlot (t := storeLine p g payload _) rfl hg hk1 rfl rfl
    · exact (h1.patchLines hg hk1 1).1

theorem Coherent.closeBad (h : Coherent s) {p : PortId} {f : FrameInProgress} (hf : s.ports[p].frame = some f) :
    Coherent (closeBad p f s) := by
  have hp := (h.1 p).1
  rw [hf] at hp
  exact h.port p _ _ (portSlots_drop hp) (fun _ => rfl) (StorePort.drop_locks _ _) rfl rfl rfl rfl

theorem Coherent.closeGood (h : Coherent s) {p : PortId} {f : FrameInProgress} (hf : s.ports[p].frame = some f) :
    Coherent (closeGood p f s) := by
  have hp := (h.1 p).1
  rw [hf] at hp
  have live : Coherent ((s.setPort p
      { s.ports[p] with
        frame := none
        sums := noSums
        silence := some s.clock
        state := .live
        health := { s.ports[p].health with good := s.ports[p].health.good + 1 } }).setStore p (s.store[p].complete f.slot)) :=
    h.port p _ _ (portSlots_complete hp) (fun _ => rfl) (StorePort.complete_locks _ _) rfl rfl rfl rfl
  unfold Machine.closeGood
  dsimp only
  split
  · exact live.congr
  · exact live.congr

theorem Coherent.takeClose (h : Coherent s) {p : PortId} {f : FrameInProgress} (hf : s.ports[p].frame = some f)
    (hk : s.ports[p].state ≠ .parked) (count : Half) : Coherent (takeClose p f count s) := by
  obtain ⟨h1, -, g, hg⟩ := h.patchLines hf hk (s.ports[p].camera.height - f.next)
  unfold Machine.takeClose
  dsimp only
  rw [hg]
  dsimp only
  split
  · exact h1.closeGood hg
  · exact h1.closeBad hg

theorem Coherent.losePort (h : Coherent s) (p : PortId) : Coherent (losePort p s) := by
  have h1 := h.setPort p
    { s.ports[p] with
      state := .lost, silence := none
      health := { s.ports[p].health with losses := s.ports[p].health.losses + 1 } } nofun
  unfold Machine.losePort
  exact h1.congr

theorem Coherent.stopPort (h : Coherent s) (p : PortId) : Coherent (stopPort p s) := by
  have h1 := h.discardFrame p
  have hn : (Machine.discardFrame p s).ports[p].frame = none := by rw [discardFrame_port]
  have hp := (h1.1 p).1
  rw [hn] at hp
  exact h1.port p { (Machine.discardFrame p s).ports[p] with silence := none } _ (by rw [hn]; exact portSlots_withdraw hp)
    (fun _ => hn) (fun i => by rw [StorePort.withdraw_slot, Slot.withdraw_locks]) rfl rfl rfl rfl

theorem stopPort_port (p : PortId) (s : State) :
    (stopPort p s).ports[p] = { s.ports[p] with frame := none, sums := noSums, silence := none } := by
  unfold stopPort
  simp only [State.setSoil_ports, State.setStore_ports, State.setPort_ports, getElem_set_same, discardFrame_port]

theorem Coherent.parkPort (h : Coherent s) (p : PortId) : Coherent (parkPort p s) := by
  have h1 := (h.stopPort p).setPort p { (Machine.stopPort p s).ports[p] with state := .parked }
    fun _ => by rw [stopPort_port]
  unfold Machine.parkPort
  exact h1.congr

theorem Coherent.restartPort (h : Coherent s) (p : PortId) : Coherent (restartPort p s) := by
  unfold Machine.restartPort
  dsimp only
  refine Coherent.announce ((h.stopPort p).setPort p _ ?_) p
  exact fun _ => by rw [stopPort_port]

/-- A PARKED port that enters SEEKING had no frame to lose. -/
theorem Coherent.seekPort (h : Coherent s) (p : PortId) (hk : s.ports[p].state = .parked) : Coherent (seekPort p s) := by
  have h1 := h.setPort p { s.ports[p] with state := .seeking, frame := none, silence := none } nofun ((h.1 p).2 hk).symm
  unfold Machine.seekPort
  exact h1.congr

theorem Coherent.defineCamera (h : Coherent s) (p : PortId) (c : CameraRecord) : Coherent (defineCamera p c s) := by
  have h1 := h.setPort p { s.ports[p] with camera := c, undefined := false } (h.1 p).2
  unfold Machine.defineCamera
  dsimp only
  split
  · exact h1.congr
  · exact h1.congr

/-! ## Sides and doors (chapters 6 and 7), mode (chapter 11) -/

/-- The override sides move; the pipe's configuration and timing stand. -/
theorem recomputeCalling_pipe (s : State) (d : DisplayId) :
    (recomputeCalling s).displays[d].configured = s.displays[d].configured ∧
    (recomputeCalling s).displays[d].timing = s.displays[d].timing := by
  unfold recomputeCalling
  dsimp only
  split
  · exact ⟨rfl, rfl⟩
  · dsimp only
    rw [getElem_ofFn_fin]
    split <;> exact ⟨rfl, rfl⟩

theorem recomputedDisplay_pipe (s : State) (now : Sides) (d : DisplayId) :
    (recomputedDisplay s now d).configured = s.displays[d].configured ∧
    (recomputedDisplay s now d).timing = s.displays[d].timing := by
  unfold recomputedDisplay
  dsimp only
  split <;> exact ⟨rfl, rfl⟩

theorem Coherent.doorsChanged (h : Coherent s) (before : Vector Door 8) : Coherent (doorsChanged before s) :=
  h.pipes fun d => by
    have hd : (Machine.doorsChanged before s).displays = (recomputeCalling s).displays := by simp [Machine.doorsChanged]
    rw [hd]; exact recomputeCalling_pipe s d

theorem Coherent.wakePort (h : Coherent s) (p : PortId) : Coherent (wakePort s p) := by
  unfold Machine.wakePort
  split
  · rename_i hw
    exact h.seekPort p (by simp only [Bool.and_eq_true, decide_eq_true_eq] at hw; exact hw.2)
  · exact h

theorem Coherent.wakePorts (ps : List PortId) {s : State} (h : Coherent s) : Coherent (ps.foldl Machine.wakePort s) := by
  induction ps generalizing s with
  | nil => exact h
  | cons p ps ih => exact ih (h.wakePort p)

theorem Coherent.leaveStabling (h : Coherent s) (cause : WakeCause) : Coherent (leaveStabling cause s) := by
  have hw := Coherent.wakePorts (List.finRange 12) h
  unfold Machine.leaveStabling
  generalize (List.finRange 12).foldl Machine.wakePort s = u at hw
  exact hw.congr rfl rfl rfl rfl

theorem Coherent.wakePart (h : Coherent s) (cause : WakeCause) : Coherent (wakePart cause s) := by
  unfold Machine.wakePart
  split
  · exact h
  · exact (h.leaveStabling cause).congr

theorem Coherent.changeDoor (h : Coherent s) (k : DoorId) (level : Bool) : Coherent (changeDoor k level s) :=
  Coherent.doorsChanged (h.congr (t := s.setDoor k _)) _

theorem Coherent.doorLevel (h : Coherent s) (k : DoorId) (level : Bool) : Coherent (doorLevel k level s) := by
  unfold Machine.doorLevel
  split
  · exact h.changeDoor k level
  · exact ((h.leaveStabling (.door k)).changeDoor k level).congr

theorem Coherent.parkRunning (h : Coherent s) (p : PortId) : Coherent (parkRunning s p) := by
  unfold Machine.parkRunning
  split
  · exact h
  · exact h.parkPort p

theorem Coherent.parkPorts (ps : List PortId) {s : State} (h : Coherent s) : Coherent (ps.foldl Machine.parkRunning s) := by
  induction ps generalizing s with
  | nil => exact h
  | cons p ps ih => exact ih (h.parkRunning p)

/-! ## The Export Mover and the lanes (chapters 8 and 9) -/

theorem Coherent.dropExport (h : Coherent s) : Coherent (dropExport s) := by
  have hd : (Machine.dropExport s).displays = s.displays := by simp
  refine h.release .mover (by simp) rfl ?_ (.inl rfl)
  exact fun d => by rw [hd]; exact ⟨rfl, .inl rfl⟩

theorem Coherent.endExport (h : Coherent s) (e : Ending) : Coherent (endExport e s) := by
  unfold Machine.endExport
  split
  · exact h.dropExport
  · exact h.dropExport.congr

theorem Coherent.exportWriteError (h : Coherent s) : Coherent (exportWriteError s) := by
  unfold Machine.exportWriteError
  split
  · exact h.dropExport
  · rename_i c b hb
    have hf := h.dropExport.congr (t := recordFault .hostWrite (some 1) c.block.toNat (Machine.dropExport s))
    dsimp only
    split
    · split
      · exact hf.congr
      · exact hf.congr
    · split
      · exact hf.congr
      · exact hf.congr

theorem Coherent.haltLane (h : Coherent s) (l : LaneId) (k : Halt) : Coherent (haltLane l k s) := by
  unfold Machine.haltLane
  dsimp only
  split
  · exact h.congr
  · split
    · exact h.congr
    · split
      · exact Coherent.endExport (h.congr) _
      · exact h.congr

theorem Coherent.completeExport (h : Coherent s) (count : Nat) (stamp : Stamp) (width height : Nat) :
    Coherent (completeExport count stamp width height s) := by
  unfold Machine.completeExport
  split
  · exact (h.congr (t := s.setBus _)).endExport _
  · exact (h.congr (t := s.setBus _)).exportWriteError

/-- The export record takes another value that moves no slot, where no slot was moved before. -/
theorem Coherent.setMover (h : Coherent s) (m : Export) (hm : ∀ p ops i w k c t n, s.mover ≠ .moving p ops i w k c t n) :
    Coherent { s with mover := m } := by
  obtain ⟨hc, h1, h2, h3, h4⟩ := h
  exact ⟨hc, h1, h2, h3, fun p i hl => by obtain ⟨_, _, _, _, _, _, e⟩ := h4 p i hl; exact absurd e (hm _ _ _ _ _ _ _ _)⟩

theorem Coherent.exportAtStart (h : Coherent s) (d : DisplayId) : Coherent (exportAtStart d s) := by
  unfold Machine.exportAtStart
  split
  · rename_i e ops hm
    split
    · dsimp only
      split
      · split
        · exact h.endExport _
        · exact h.setMover _ (by simp [hm])
      · exact h.endExport _
    · exact h
  · exact h
  · exact h
  · exact h

theorem Coherent.exportAtEnd (h : Coherent s) (d : DisplayId) : Coherent (exportAtEnd d s) := by
  unfold Machine.exportAtEnd
  split
  · split
    · exact h.completeExport _ _ _ _
    · exact h
  · exact h
  · exact h
  · exact h

theorem Coherent.stopForeignExport (h : Coherent s) : Coherent (stopForeignExport s) := by
  unfold Machine.stopForeignExport
  split
  · split
    · exact h
    · exact h.endExport _
  · split
    · exact h
    · exact h.endExport _
  · exact h
  · exact h

theorem Coherent.stopCopying (h : Coherent s) : Coherent (stopCopying s) := by
  unfold Machine.stopCopying
  split
  · exact h.endExport _
  · exact h
  · exact h
  · exact h

/-- An idle Export Mover takes the newest READY slot of a port (R146). -/
theorem Coherent.lockExport (h : Coherent s) (hm : s.mover = .idle) {p : PortId} {i : SlotId} (ops : ExportOperands)
    (hn : s.store[p].newest = some i) : Coherent (lockExport p ops i s) := by
  obtain ⟨hc, h1, h2, h3, h4⟩ := h
  have mem : ∀ (r : PortId) (j : SlotId) (g : Holder),
      (Machine.lockExport p ops i s).store[r].slots[j].locks.mem g = true →
        s.store[r].slots[j].locks.mem g = true ∨ r = p ∧ j = i ∧ g = .mover := by
    intro r j g hg
    have hs : (Machine.lockExport p ops i s).store = s.store.set p (s.store[p].lock i .mover) := rfl
    rw [hs, getElem_set_fin] at hg
    split at hg
    · rename_i hr
      subst hr
      rw [StorePort.lock_mem, Bool.or_eq_true] at hg
      exact hg.symm.imp_right fun e => ⟨rfl, by simpa using e⟩
    · exact .inl hg
  refine ⟨fun r => ?_, h1, fun d r j hl => ?_, fun d r j k hj hk => ?_, fun r j hl => ?_⟩
  · have hs : (Machine.lockExport p ops i s).store = s.store.set p (s.store[p].lock i .mover) := rfl
    refine ⟨?_, (hc r).2⟩
    rw [hs, getElem_set_fin]
    split
    · rename_i hr; subst hr; exact portSlots_lock (hc p).1 hn .mover
    · exact (hc r).1
  · exact h2 d r j ((mem r j _ hl).resolve_right (by simp))
  · exact h3 d r j k ((mem r j _ hj).resolve_right (by simp)) ((mem r k _ hk).resolve_right (by simp))
  · rcases mem r j _ hl with hl | ⟨rfl, rfl, -⟩
    · obtain ⟨_, _, _, _, _, _, e⟩ := h4 r j hl
      rw [hm] at e; cases e
    · exact ⟨_, _, _, _, _, _, rfl⟩

theorem Coherent.takeExportFrame (h : Coherent s) (hm : s.mover = .idle) (p : PortId) (ops : ExportOperands) :
    Coherent (takeExportFrame p ops s) := by
  unfold Machine.takeExportFrame
  dsimp only
  split
  · exact h.endExport _
  · split
    · exact h.endExport _
    · rename_i i hn
      split
      · exact (h.lockExport hm ops hn).endExport _
      · exact h.lockExport hm ops hn

theorem Coherent.takeExportScreen (h : Coherent s) (hm : s.mover = .idle) (d : DisplayId) (ops : ExportOperands) :
    Coherent (takeExportScreen d ops s) := by
  unfold Machine.takeExportScreen
  split
  · split
    · exact h.endExport _
    · exact h.setMover _ (by simp [hm])
  · exact h.endExport _

end Sys2Proof.Machine
end

section
/-! Every command keeps the coherence of slots, frames and locks. -/

namespace Sys2Proof.Machine

open Safety

-- The proofs are elaborated in order: side by side, each would hold a thread of its own, and its memory.
set_option Elab.async false

/-! ## The frame start and the frame end of a display (R92, R95, R107) -/

/-- A shown tile shows the newest READY slot of its port (R95). -/
theorem drawnTile_newest {s : State} {t : LaidTile} {v : Shown} (h : (drawnTile s t).shown = some v) :
    s.store[v.port].newest = some v.slot := by
  unfold drawnTile at h
  split at h
  · cases h
  · split at h
    · cases h
    · rename_i i hi
      cases h
      exact hi

theorem composeTiles_newest {s : State} {w k : Nat} {ts : List LaidTile} {f : FrameTile} (hf : f ∈ composeTiles s w k ts) {v : Shown}
    (h : f.shown = some v) : s.store[v.port].newest = some v.slot := by
  induction ts with
  | nil => cases hf
  | cons t later ih =>
    rcases List.mem_cons.mp hf with rfl | hf
    · split at h
      · exact drawnTile_newest h
      · cases h
    · exact ih hf

theorem startTiles_newest {s : State} {d : DisplayId} {f : FrameTile} (hf : f ∈ startTiles s d) {v : Shown} (h : f.shown = some v) :
    s.store[v.port].newest = some v.slot := by
  unfold startTiles at hf
  dsimp only at hf
  split at hf
  · exact composeTiles_newest hf h
  · cases hf

/-- A tile's lock leaves the ready orders. -/
theorem lockTile_newest (d : DisplayId) (s : State) (t : FrameTile) (p : PortId) :
    (lockTile d s t).store[p].newest = s.store[p].newest := by
  unfold lockTile
  split
  · rfl
  · rw [State.setStore_store, getElem_set_fin]
    split
    · rename_i h; subst h; rfl
    · rfl

/-- The locks of a frame start: coherent slot tables, each new lock the display's on a newest READY slot. -/
theorem lockTiles_spec (d : DisplayId) (ts : List FrameTile) {s : State} (hs : ∀ p : PortId, PortSlots s.store[p] s.ports[p].frame)
    (hn : ∀ f ∈ ts, ∀ v, f.shown = some v → s.store[v.port].newest = some v.slot) :
    (∀ p : PortId, PortSlots (ts.foldl (lockTile d) s).store[p] s.ports[p].frame) ∧
    ∀ (p : PortId) (i : SlotId) (g : Holder), (ts.foldl (lockTile d) s).store[p].slots[i].locks.mem g = true →
      s.store[p].slots[i].locks.mem g = true ∨ g = .display d ∧ s.store[p].newest = some i := by
  induction ts generalizing s with
  | nil => exact ⟨hs, fun _ _ _ h => .inl h⟩
  | cons t ts ih =>
    have hports : (lockTile d s t).ports = s.ports := by simp
    have one : (∀ p : PortId, PortSlots (lockTile d s t).store[p] s.ports[p].frame) ∧
        ∀ (p : PortId) (i : SlotId) (g : Holder), (lockTile d s t).store[p].slots[i].locks.mem g = true →
          s.store[p].slots[i].locks.mem g = true ∨ g = .display d ∧ s.store[p].newest = some i := by
      unfold lockTile
      split
      · exact ⟨hs, fun _ _ _ h => .inl h⟩
      · rename_i v hv
        have hnew := hn t (List.mem_cons_self ..) v hv
        rw [State.setStore_store]
        refine ⟨fun p => ?_, fun p i g h => ?_⟩
        · rw [getElem_set_fin]
          split
          · rename_i hp; subst hp; exact portSlots_lock (hs _) hnew _
          · exact hs p
        · rw [getElem_set_fin] at h
          split at h
          · rename_i hp
            subst hp
            rw [StorePort.lock_mem, Bool.or_eq_true, decide_eq_true_eq] at h
            rcases h with ⟨rfl, rfl⟩ | h
            · exact .inr ⟨rfl, hnew⟩
            · exact .inl h
          · exact .inl h
    obtain ⟨h1, h2⟩ := ih (s := lockTile d s t) (by rw [hports]; exact one.1) fun f hf v hv => by
      rw [lockTile_newest]; exact hn f (List.mem_cons_of_mem _ hf) v hv
    rw [hports] at h1
    refine ⟨h1, fun p i g h => ?_⟩
    rcases h2 p i g h with h | ⟨hg, h⟩
    · exact one.2 p i g h
    · rw [lockTile_newest] at h; exact .inr ⟨hg, h⟩

/-- The part once a display has taken the tiles of a frame start, its locks and its vector, before exports and doors follow. -/
def pipeStarted (d : DisplayId) (s : State) : State :=
  let tiles := startTiles s d
  let vector := verdictVector s s.displays[d].settings tiles
  let s1 := (tiles.foldl (lockTile d) s).setDisplay d (startedDisplay s d tiles vector)
  { s1 with stored := s1.stored.set d vector }

theorem takeFrameStart_eq (d : DisplayId) (s : State) :
    takeFrameStart d s =
      if recordDue (doorSteps d (exportAtStart d (pipeStarted d s))) d s.displays[d] then
        mark (.display d) (doorSteps d (exportAtStart d (pipeStarted d s)))
      else doorSteps d (exportAtStart d (pipeStarted d s)) := rfl

/-- A configured display that holds no slot takes its tiles and their locks. -/
theorem Coherent.pipeStarted {s : State} (h : Coherent s) (d : DisplayId) (hc : s.displays[d].configured = true)
    (hfree : ∀ (p : PortId) (i : SlotId), s.store[p].slots[i].locks.mem (.display d) = false) :
    Coherent (pipeStarted d s) := by
  obtain ⟨hslots, h1, h2, h3, h4⟩ := h
  obtain ⟨hp, hl⟩ := lockTiles_spec d (startTiles s d) (fun p => (hslots p).1) fun f hf v hv => startTiles_newest hf hv
  have hports : ((startTiles s d).foldl (lockTile d) s).ports = s.ports := by simp
  have hmover : ((startTiles s d).foldl (lockTile d) s).mover = s.mover := by simp
  have hdisp : ((startTiles s d).foldl (lockTile d) s).displays = s.displays := by simp
  unfold Machine.pipeStarted
  dsimp only
  generalize (startTiles s d).foldl (lockTile d) s = u at *
  generalize verdictVector s s.displays[d].settings (startTiles s d) = vector
  have old : ∀ {p : PortId} {i : SlotId} {e : DisplayId}, d ≠ e → u.store[p].slots[i].locks.mem (.display e) = true →
      s.store[p].slots[i].locks.mem (.display e) = true := fun hde hm =>
    (hl _ _ _ hm).resolve_right fun ⟨e, _⟩ => hde (by cases e; rfl)
  have new : ∀ {p : PortId} {i : SlotId}, u.store[p].slots[i].locks.mem (.display d) = true → s.store[p].newest = some i :=
    fun hm => ((hl _ _ _ hm).resolve_left (by rw [hfree]; decide)).2
  refine ⟨fun p => ⟨hports ▸ hp p, hports ▸ (hslots p).2⟩, fun e he => ?_, fun e p i hm => ?_, fun e p i j hi hj => ?_,
    fun p i hm => ?_⟩
  · dsimp only [State.setDisplay_displays] at he ⊢
    rw [hdisp, getElem_set_fin] at he ⊢
    split
    · rename_i hde
      rw [if_pos hde] at he
      exact absurd (hc.symm.trans he) (by decide)
    · rename_i hde
      rw [if_neg hde] at he
      exact h1 e he
  · dsimp only [State.setDisplay_displays]
    rw [hdisp, getElem_set_fin]
    split
    · exact ⟨_, rfl, rfl⟩
    · rename_i hde
      exact h2 e p i (old hde hm)
  · by_cases hde : d = e
    · subst hde
      exact Option.some.inj ((new hi).symm.trans (new hj))
    · exact h3 e p i j (old hde hi) (old hde hj)
  · obtain hm | ⟨e, -⟩ := hl p i _ hm
    · dsimp only [State.setDisplay_mover]
      rw [hmover]
      exact h4 p i hm
    · cases e

theorem Coherent.doorSteps {s : State} (h : Coherent s) (d : DisplayId) : Coherent (doorSteps d s) := by
  unfold Machine.doorSteps
  split
  · exact Coherent.doorsChanged (h.congr) _
  · exact h

/-- A configured display that holds no slot takes a frame start. -/
theorem Coherent.takeFrameStart {s : State} (h : Coherent s) (d : DisplayId) (hc : s.displays[d].configured = true)
    (hfree : ∀ (p : PortId) (i : SlotId), s.store[p].slots[i].locks.mem (.display d) = false) :
    Coherent (takeFrameStart d s) := by
  have hs := ((h.pipeStarted d hc hfree).exportAtStart d).doorSteps d
  rw [takeFrameStart_eq]
  split
  · exact hs.mark _
  · exact hs

/-- A frame start comes after the last frame's end, when the display holds nothing (R31, R87). -/
theorem Coherent.free_of_startDue {s : State} (h : Coherent s) {d : DisplayId} (hd : startDue s d = true) (p : PortId) (i : SlotId) :
    s.store[p].slots[i].locks.mem (.display d) = false := by
  rw [Bool.eq_false_iff]
  intro hm
  obtain ⟨t, ht, he⟩ := h.2.2.1 d p i hm
  unfold startDue at hd
  rw [ht] at hd
  simp [he] at hd

/-- A display that was not configured holds nothing (R87). -/
theorem Coherent.free_of_unconfigured {s : State} (h : Coherent s) {d : DisplayId} (hd : s.displays[d].configured = false)
    (p : PortId) (i : SlotId) : s.store[p].slots[i].locks.mem (.display d) = false := by
  rw [Bool.eq_false_iff]
  intro hm
  obtain ⟨t, ht, -⟩ := h.2.2.1 d p i hm
  rw [h.2.1 d hd] at ht
  cases ht

/-- The display of a frame end leaves every lock set (R31, R107). -/
theorem Coherent.endFrame {s : State} (h : Coherent s) (d : DisplayId) :
    Coherent ((releaseHolder (.display d) s).setDisplay d s.displays[d].endFrame) := by
  refine h.release (.display d) (by simp) (State.setDisplay_store _ _ _) (fun e => ?_) (.inr (by simp))
  rw [State.setDisplay_displays, (releaseHolder_keeps (.display d) s).2.2.2.2.2.1, getElem_set_fin]
  split
  · rename_i hde
    subst hde
    exact ⟨rfl, .inr ⟨rfl, fun hn => congrArg (Option.map _) hn⟩⟩
  · exact ⟨rfl, .inl rfl⟩

/-! ## Blocks of lane 0 -/

theorem Coherent.setPipe {s : State} (h : Coherent s) (d : DisplayId) (v : Display)
    (hc : v.configured = s.displays[d].configured := by rfl) (ht : v.timing = s.displays[d].timing := by rfl) :
    Coherent (s.setDisplay d v) :=
  h.pipes fun e => by
    rw [State.setDisplay_displays, getElem_set_fin]
    split
    · rename_i hde; subst hde; exact ⟨hc, ht⟩
    · exact ⟨rfl, rfl⟩

theorem Coherent.overrideAfter {s : State} (h : Coherent s) (was now : Bool) (d : DisplayId) :
    Coherent (overrideAfter was now d s) ∧ (overrideAfter was now d s).displays[d].configured = s.displays[d].configured := by
  obtain ⟨hc, ht⟩ := recomputedDisplay_pipe s (callingSet s) d
  unfold Machine.overrideAfter
  split
  · exact ⟨h, rfl⟩
  · have hd : (s.setDisplay d (recomputedDisplay s (callingSet s) d)).displays[d] = recomputedDisplay s (callingSet s) d :=
      getElem_set_same _ _ _
    exact ⟨h.setPipe d _ hc ht, (congrArg Display.configured hd).trans hc⟩

/-- A display becomes configured with new settings; its timing stands. -/
theorem Coherent.configure {s : State} (h : Coherent s) (d : DisplayId) (settings : DisplaySettings) :
    Coherent (s.setDisplay d { s.displays[d] with settings, configured := true }) := by
  obtain ⟨hc, h1, h2, h3, h4⟩ := h
  refine ⟨hc, fun e => ?_, fun e p i hm => ?_, h3, h4⟩
  · rw [State.setDisplay_displays, getElem_set_fin]
    split
    · intro hf; cases hf
    · exact h1 e
  · rw [State.setDisplay_displays, getElem_set_fin]
    obtain hx := h2 e p i hm
    split
    · rename_i hde; subst hde; exact hx
    · exact hx

theorem Coherent.setDisplay {s : State} (h : Coherent s) (d : DisplayId) (settings : DisplaySettings) :
    Coherent (setDisplay d settings s) := by
  unfold Machine.setDisplay
  dsimp only
  have hset := h.configure d settings
  obtain ⟨ho, hc⟩ := hset.overrideAfter s.displays[d].settings.doorScreen settings.doorScreen d
  rw [State.setDisplay_displays, getElem_set_same] at hc
  split
  · exact ho
  · rename_i hn
    refine ho.takeFrameStart d hc fun p i => ?_
    have hstore : (Machine.overrideAfter s.displays[d].settings.doorScreen settings.doorScreen d
        (s.setDisplay d { s.displays[d] with settings, configured := true })).store = s.store := by simp
    rw [hstore]
    exact h.free_of_unconfigured (by simpa using hn) p i

theorem Coherent.handover {s : State} (h : Coherent s) (cab : Option AB) : Coherent (handover cab s) := by
  have hdoors : Coherent (handoverDoors { s with cab }) := h.congr
  have hside : Coherent (recomputeOverrides (handoverDoors { s with cab })) :=
    hdoors.pipes fun d => by
      unfold recomputeOverrides
      dsimp only
      rw [getElem_ofFn_fin]
      exact recomputedDisplay_pipe _ _ d
  have hx : Coherent (reportDoors s.doors (recomputeLines (recomputeOverrides (handoverDoors { s with cab })))) := hside.congr
  unfold Machine.handover
  exact hx.stopForeignExport.congr

theorem Coherent.setDoorPolicy {s : State} (h : Coherent s) (body : List Byte) : Coherent (setDoorPolicy body s) :=
  Coherent.doorsChanged (h.congr) _

theorem Coherent.enterStabling {s : State} (h : Coherent s) : Coherent (enterStabling s) := by
  have stable : ∀ {u : State}, Coherent u →
      Coherent (Machine.mark .part (Machine.stopCopying (recomputeLines { u with mode := .stabled }))) :=
    fun {u} hu =>
      have hm : Coherent { u with mode := .stabled } := hu.congr
      (Coherent.stopCopying hm.congr).mark _
  unfold Machine.enterStabling
  exact stable (Coherent.parkPorts _ (h.congr))

theorem Coherent.restartAll {s : State} (h : Coherent s) : Coherent (restartAll s) := by
  have hh := (h.haltLane 0 { announce := false, zero := true }).haltLane 1 { announce := false, zero := true }
  unfold Machine.restartAll
  dsimp only
  split
  · exact hh.congr
  · exact hh.congr

/-! ## Every command -/

/-- Every state that an outcome can go on to is coherent. -/
def KeepsCoherence (o : Host.Outcome State Fault Refusal) : Prop := ∀ t, o = .next t → Coherent t

variable {s : State}

theorem Coherent.keeps (h : Coherent s) : KeepsCoherence (.next s) := by
  rintro _ ⟨⟩; exact h

theorem keeps_fault (f : Fault) : KeepsCoherence (.fault f) := by
  intro t h
  cases h

theorem Coherent.frameOpen (h : Coherent s) (p : PortId) (count width height : Half) :
    KeepsCoherence (execFrameOpen p count width height s) := by
  unfold execFrameOpen
  split
  · exact h.keeps
  · rename_i hk
    exact (h.takeOpen p count width height hk).finish.keeps

theorem Coherent.line (h : Coherent s) (p : PortId) (n : Half) (payload : List Byte) (check : Half) :
    KeepsCoherence (execLine p n payload check s) := by
  unfold execLine
  split
  · exact h.keeps
  · rename_i hk
    split
    · exact h.keeps
    · rename_i f hf
      split
      · exact (h.takeLine hf hk _ _ _).finish.keeps
      · exact keeps_fault _

theorem Coherent.frameClose (h : Coherent s) (p : PortId) (count : Half) : KeepsCoherence (execFrameClose p count s) := by
  unfold execFrameClose
  split
  · exact h.keeps
  · rename_i hk
    split
    · exact h.keeps
    · rename_i f hf
      split
      · exact (h.takeClose hf hk _).finish.keeps
      · exact keeps_fault _

theorem Coherent.silenceTimerExpiry (h : Coherent s) (p : PortId) : KeepsCoherence (execSilenceTimerExpiry p s) := by
  unfold execSilenceTimerExpiry
  split
  · exact (h.losePort p).finish.keeps
  · exact h.keeps

theorem Coherent.evaluationService (h : Coherent s) : KeepsCoherence (execEvaluationService s) := by
  unfold execEvaluationService
  split
  · exact h.keeps
  · exact Coherent.keeps h.congr

theorem Coherent.frameStart (h : Coherent s) (d : DisplayId) : KeepsCoherence (execFrameStart d s) := by
  unfold execFrameStart
  split
  · rename_i hd
    have hc : s.displays[d].configured = true := by
      unfold startDue at hd
      split at hd
      · cases hd
      · simp only [Bool.and_eq_true] at hd; exact hd.1.1
    exact (h.takeFrameStart d hc (h.free_of_startDue hd)).finish.keeps
  · exact h.keeps

theorem Coherent.frameEnd (h : Coherent s) (d : DisplayId) : KeepsCoherence (execFrameEnd d s) := by
  unfold execFrameEnd
  split
  · exact ((h.endFrame d).exportAtEnd d).finish.keeps
  · exact h.keeps

theorem Coherent.holdExpiry (h : Coherent s) (d : DisplayId) (side : CabSide) : KeepsCoherence (execHoldExpiry d side s) := by
  unfold execHoldExpiry
  cases side with
  | left => exact Coherent.keeps (h.setPipe d { s.displays[d] with left := s.displays[d].left.expire s.clock })
  | right => exact Coherent.keeps (h.setPipe d { s.displays[d] with right := s.displays[d].right.expire s.clock })

theorem Coherent.doorLineEdge (h : Coherent s) (k : DoorId) (level : Bool) : KeepsCoherence (execDoorLineEdge k level s) := by
  have hd : ∀ r, Coherent (s.setDoor k r) := fun r => h.congr
  unfold execDoorLineEdge
  dsimp only
  split
  · exact h.keeps
  · split
    · exact (hd _).keeps
    · split
      · exact ((hd _).doorLevel k level).finish.keeps
      · exact (hd _).keeps

theorem Coherent.debounceExpiry (h : Coherent s) (k : DoorId) : KeepsCoherence (execDebounceExpiry k s) := by
  have hd : ∀ r, Coherent (s.setDoor k r) := fun r => h.congr
  unfold execDebounceExpiry
  dsimp only
  split
  · exact h.keeps
  · split
    · split
      · exact (hd _).keeps
      · exact ((hd _).doorLevel k _).finish.keeps
    · exact h.keeps

/-- A write of a register reaches the window and the reports only. -/
theorem Coherent.writeRegister (h : Coherent s) (value : Word) (r : HostRegister) : Coherent (writeRegister value s r) := by
  cases r with
  | ident => exact h
  | areaLo =>
    show Coherent (writeAreaLo value s)
    unfold writeAreaLo
    split <;> exact h.congr
  | areaHi =>
    show Coherent (writeAreaHi value s)
    unfold writeAreaHi
    split <;> exact h.congr
  | areaSize =>
    show Coherent (writeAreaSize value s)
    unfold writeAreaSize
    split
    · exact h.congr
    · dsimp only
      split <;> exact h.congr
  | command => exact h.congr (t := s.setWindow _)
  | attention =>
    show Coherent (writeAttention value s)
    unfold writeAttention
    split <;> exact h.congr
  | status => exact h
  | resetCause => exact h.congr (t := s.setWindow _)

/-- A captured word is taken. -/
theorem Coherent.takeWord (h : Coherent s) (code : Nat) (effect : Word → Word → State → State)
    (he : ∀ w head u, Coherent u → Coherent (effect w head u)) : KeepsCoherence (takeWord code effect s) := by
  unfold Machine.takeWord
  split
  · exact h.keeps
  · split
    · exact (he _ _ _ h.congr).finish.keeps
    · exact h.keeps

theorem Coherent.runChain (h : Coherent s) (w head : Word) : Coherent (runChain w head s) := by
  unfold Machine.runChain
  split
  · exact h.congr
  · split
    · exact h.congr
    · split
      · exact h.congr
      · exact (h.wakePart .runChain).congr

theorem Coherent.haltByWord (h : Coherent s) (w head : Word) : Coherent (haltByWord w head s) := by
  unfold Machine.haltByWord
  split
  · exact h.congr
  · exact h.haltLane _ _

theorem Coherent.restartByWord (h : Coherent s) (w head : Word) : Coherent (restartByWord w head s) := by
  unfold Machine.restartByWord
  split
  · exact h.restartPort _
  · split
    · exact h.haltLane _ _
    · split
      · exact h.haltLane _ _
      · split
        · exact h.restartAll
        · exact h.congr

theorem Coherent.acknowledge (h : Coherent s) (w head : Word) : Coherent (acknowledge w head s) := h.congr

theorem Coherent.wakeByWord (h : Coherent s) (w head : Word) : Coherent (wakeByWord w head s) := by
  unfold Machine.wakeByWord
  exact h.wakePart .wake

theorem Coherent.badCode (h : Coherent s) : KeepsCoherence (execBadCode s) := by
  unfold execBadCode
  split
  · exact h.keeps
  · split
    · exact h.keeps
    · exact Coherent.keeps h.congr

/-- A lane walks to a block: lanes, reports and the link only. -/
theorem Coherent.reachBlock (h : Coherent s) (l : LaneId) (c : Chain) (rest : Chain → Header → State → State)
    (hr : ∀ c g u, Coherent u → Coherent (rest c g u)) : Coherent (reachBlock l c rest s) := by
  unfold Machine.reachBlock
  split
  · split
    · exact h.congr
    · exact hr _ _ _ h.congr
  · exact h.congr

theorem Coherent.headerRead (h : Coherent s) (l : LaneId) : KeepsCoherence (execHeaderRead l s) := by
  unfold execHeaderRead
  split
  · exact h.keeps
  · exact (h.reachBlock l _ _ fun _ _ _ hu => hu.congr).finish.keeps

theorem Coherent.skipWalk (h : Coherent s) (l : LaneId) : KeepsCoherence (execSkipWalk l s) := by
  unfold execSkipWalk
  split
  · exact h.keeps
  · exact (h.reachBlock l _ _ fun _ _ _ hu => hu.congr).finish.keeps

/-- A lane 0 block does its action and ends. -/
theorem Coherent.lane0Block (h : Coherent s) (kind : Kind) (act : InHand → State → State × Ending)
    (ha : ∀ b, Coherent (act b s).1) : KeepsCoherence (lane0Block kind act s) := by
  unfold Machine.lane0Block
  split
  · exact h.keeps
  · rename_i c b _
    split
    · have hb := ha b
      generalize act b s = r at hb
      obtain ⟨u, e⟩ := r
      exact Coherent.keeps hb.congr
    · exact h.keeps

theorem Coherent.actDefineCamera (h : Coherent s) (b : InHand) : Coherent (actDefineCamera b s).1 := by
  unfold Machine.actDefineCamera
  split
  · exact h
  · split
    · exact h
    · split
      · exact h
      · split
        · exact h
        · dsimp only
          exact h.defineCamera _ _

theorem Coherent.actParkCamera (h : Coherent s) (b : InHand) : Coherent (actParkCamera b s).1 := by
  unfold Machine.actParkCamera
  split
  · exact h
  · split
    · exact h
    · split
      · exact h
      · dsimp only
        exact h.parkPort _

theorem Coherent.actUnparkCamera (h : Coherent s) (b : InHand) : Coherent (actUnparkCamera b s).1 := by
  unfold Machine.actUnparkCamera
  split
  · exact h
  · split
    · exact h
    · split
      · exact h
      · split
        · rename_i hk
          exact h.seekPort _ hk
        · exact h

theorem Coherent.actLoadLayout (h : Coherent s) (b : InHand) : Coherent (actLoadLayout b s).1 := by
  unfold Machine.actLoadLayout
  repeat' split
  all_goals exact h.congr

theorem Coherent.actClearLayout (h : Coherent s) (b : InHand) : Coherent (actClearLayout b s).1 := by
  unfold Machine.actClearLayout
  repeat' split
  all_goals exact h.congr

theorem Coherent.actSelectLayout (h : Coherent s) (b : InHand) : Coherent (actSelectLayout b s).1 := by
  unfold Machine.actSelectLayout
  split
  · exact h
  · rename_i d _
    split
    · exact h
    · split
      · exact h
      · rename_i y _
        exact h.setPipe d { s.displays[d] with selected := y }

theorem Coherent.actSetDisplay (h : Coherent s) (b : InHand) : Coherent (actSetDisplay b s).1 := by
  unfold Machine.actSetDisplay
  split
  · exact h
  · split
    · exact h
    · split
      · exact h
      · split
        · exact h
        · dsimp only
          exact h.setDisplay _ _

theorem Coherent.actSetCab (h : Coherent s) (b : InHand) : Coherent (actSetCab b s).1 := by
  unfold Machine.actSetCab
  split
  · exact h
  · split
    · exact h
    · split
      · exact h
      · dsimp only
        exact h.handover _

theorem Coherent.actSetDoorPolicy (h : Coherent s) (b : InHand) : Coherent (actSetDoorPolicy b s).1 := by
  unfold Machine.actSetDoorPolicy
  split
  · exact h
  · split
    · dsimp only
      exact h.setDoorPolicy _
    · exact h

theorem Coherent.actEnterStabling (h : Coherent s) (b : InHand) : Coherent (actEnterStabling b s).1 := by
  unfold Machine.actEnterStabling
  split
  · exact h
  · split
    · exact h
    · split
      · dsimp only
        exact h.enterStabling
      · exact h

theorem Coherent.actLearnReference (h : Coherent s) (b : InHand) : Coherent (actLearnReference b s).1 := by
  unfold Machine.actLearnReference
  dsimp only
  repeat' split
  all_goals exact h.congr

theorem Coherent.actSetReference (h : Coherent s) (b : InHand) : Coherent (actSetReference b s).1 := by
  unfold Machine.actSetReference
  repeat' split
  all_goals exact h.congr

theorem Coherent.actMeasureOnce (h : Coherent s) (b : InHand) : Coherent (actMeasureOnce b s).1 := by
  unfold Machine.actMeasureOnce
  repeat' split
  all_goals exact h.congr

theorem Coherent.actSetSoilLimits (h : Coherent s) (b : InHand) : Coherent (actSetSoilLimits b s).1 := by
  unfold Machine.actSetSoilLimits
  repeat' split
  all_goals exact h.congr

theorem exportInHand_idle {s : State} {k : Kind} {b : InHand} (h : exportInHand s k = some b) : s.mover = .idle := by
  unfold exportInHand at h
  split at h
  · assumption
  · cases h

theorem Coherent.exportFrame (h : Coherent s) : KeepsCoherence (execExportFrame s) := by
  unfold execExportFrame
  split
  · exact h.keeps
  · rename_i b hb
    split
    · exact (h.endExport _).finish.keeps
    · split
      · exact (h.endExport _).finish.keeps
      · exact (h.takeExportFrame (exportInHand_idle hb) _ _).finish.keeps

theorem Coherent.exportScreen (h : Coherent s) : KeepsCoherence (execExportScreen s) := by
  unfold execExportScreen
  split
  · exact h.keeps
  · rename_i b hb
    split
    · exact (h.endExport _).finish.keeps
    · split
      · exact (h.endExport _).finish.keeps
      · exact (h.takeExportScreen (exportInHand_idle hb) _ _).finish.keeps

/-- The Export Mover goes on with the slot it is moving. -/
theorem Coherent.moveOn (h : Coherent s) {p : PortId} {ops : ExportOperands} {i : SlotId} {w k : Nat} {c : Half} {t : Stamp} {n m : Nat}
    (hm : s.mover = .moving p ops i w k c t n) (b : Bus) : Coherent { s.setBus b with mover := .moving p ops i w k c t m } := by
  obtain ⟨hc, h1, h2, h3, h4⟩ := h
  refine ⟨hc, h1, h2, h3, fun q j hl => ?_⟩
  obtain ⟨_, _, _, _, _, _, e⟩ := h4 q j hl
  rw [hm] at e
  cases e
  exact ⟨_, _, _, _, _, _, rfl⟩

theorem Coherent.exportFrameRow (h : Coherent s) : KeepsCoherence (execExportFrameRow s) := by
  unfold execExportFrameRow
  split
  · rename_i hm
    split
    · split
      · split
        · exact (Coherent.exportWriteError (h.congr)).finish.keeps
        · dsimp only
          split
          · exact ((h.moveOn hm _).completeExport _ _ _ _).finish.keeps
          · exact (h.moveOn hm _).keeps
      · exact h.keeps
    · exact keeps_fault _
  · exact h.keeps
  · exact h.keeps
  · exact h.keeps

theorem Coherent.exportScreenRow (h : Coherent s) : KeepsCoherence (execExportScreenRow s) := by
  unfold execExportScreenRow
  split
  · rename_i hm
    split
    · split
      · split
        · exact (Coherent.exportWriteError (h.congr)).finish.keeps
        · exact (Coherent.setMover (s := s.setBus _) h.congr _ (by simp [hm])).keeps
      · exact h.keeps
    · exact keeps_fault _
  · exact h.keeps
  · exact h.keeps
  · exact h.keeps

/-- The slots, ports and displays of a part without any frame, and no export. -/
theorem coherent_powerOn (s : State) : Coherent (powerOn s) := by
  have ports : ∀ p : PortId, (powerOn s).ports[p] = {} := fun p => getElem_replicate_fin _ p
  have slots : ∀ p : PortId, (powerOn s).store[p] = {} := fun p => getElem_replicate_fin _ p
  have pipes : ∀ d : DisplayId, (powerOn s).displays[d] = {} := fun d => getElem_replicate_fin _ d
  have slot : ∀ i : SlotId, ({} : StorePort).slots[i] = {} := fun i => getElem_replicate_fin _ i
  have free : ∀ g : Holder, ({} : LockSet).mem g = false := by
    intro g
    cases g with
    | display d => exact getElem_replicate_fin _ d
    | mover => rfl
  refine ⟨fun p => ⟨?_, fun _ => by rw [ports]⟩, fun d _ => by rw [pipes], fun d p i hl => ?_,
    fun d p i j hl => ?_, fun p i hl => ?_⟩
  · rw [slots, ports, portSlots_iff]
    refine ⟨List.nodup_nil, fun i => ?_⟩
    rw [slot]
    have he : ({} : LockSet).isEmpty = true := by decide
    simp [SlotFits, he]
  · rw [slots, slot, free] at hl; cases hl
  · rw [slots, slot, free] at hl; cases hl
  · rw [slots, slot, free] at hl; cases hl

theorem Coherent.linkReset (h : Coherent s) : Coherent (linkReset s) := by
  unfold Machine.linkReset
  exact h.dropExport.congr

/-- Every command keeps the coherence. -/
theorem Coherent.exec (h : Coherent s) (i : Instr) : KeepsCoherence (exec i s) := by
  cases i with
  | powerOn => exact (coherent_powerOn s).keeps
  | linkReset => exact h.linkReset.keeps
  | frameOpen p count width height => exact h.frameOpen p count width height
  | line p n payload check => exact h.line p n payload check
  | frameClose p count => exact h.frameClose p count
  | unknownPacket p => exact h.keeps
  | silenceTimerExpiry p => exact h.silenceTimerExpiry p
  | evaluationService => exact h.evaluationService
  | frameStart d => exact h.frameStart d
  | frameEnd d => exact h.frameEnd d
  | holdExpiry d side => exact h.holdExpiry d side
  | doorLineEdge k level => exact h.doorLineEdge k level
  | debounceExpiry k => exact h.debounceExpiry k
  | areaLoWrite v => exact (h.writeRegister v .areaLo).keeps
  | areaHiWrite v => exact (h.writeRegister v .areaHi).keeps
  | areaSizeWrite v => exact (h.writeRegister v .areaSize).keeps
  | statusRead => exact Coherent.keeps (h.congr)
  | resetCauseWrite v => exact (h.writeRegister v .resetCause).keeps
  | registerWrite r v => exact (h.writeRegister v r).keeps
  | runChain => exact h.takeWord 1 _ fun _ _ _ hu => hu.runChain _ _
  | haltLane => exact h.takeWord 2 _ fun _ _ _ hu => hu.haltByWord _ _
  | acknowledge => exact h.takeWord 3 _ fun _ _ _ hu => hu.acknowledge _ _
  | restart => exact h.takeWord 4 _ fun _ _ _ hu => hu.restartByWord _ _
  | wake => exact h.takeWord 5 _ fun _ _ _ hu => hu.wakeByWord _ _
  | headerRead l => exact h.headerRead l
  | skipWalk l => exact h.skipWalk l
  | defineCamera => exact h.lane0Block .defineCamera Machine.actDefineCamera h.actDefineCamera
  | parkCamera => exact h.lane0Block .parkCamera Machine.actParkCamera h.actParkCamera
  | unparkCamera => exact h.lane0Block .unparkCamera Machine.actUnparkCamera h.actUnparkCamera
  | loadLayout => exact h.lane0Block .loadLayout Machine.actLoadLayout h.actLoadLayout
  | clearLayout => exact h.lane0Block .clearLayout Machine.actClearLayout h.actClearLayout
  | selectLayout => exact h.lane0Block .selectLayout Machine.actSelectLayout h.actSelectLayout
  | setDisplay => exact h.lane0Block .setDisplay Machine.actSetDisplay h.actSetDisplay
  | setCab => exact h.lane0Block .setCab Machine.actSetCab h.actSetCab
  | learnReference => exact h.lane0Block .learnReference Machine.actLearnReference h.actLearnReference
  | setReference => exact h.lane0Block .setReference Machine.actSetReference h.actSetReference
  | measureOnce => exact h.lane0Block .measureOnce Machine.actMeasureOnce h.actMeasureOnce
  | setSoilLimits => exact h.lane0Block .setSoilLimits Machine.actSetSoilLimits h.actSetSoilLimits
  | setDoorPolicy => exact h.lane0Block .setDoorPolicy Machine.actSetDoorPolicy h.actSetDoorPolicy
  | enterStabling => exact h.lane0Block .enterStabling Machine.actEnterStabling h.actEnterStabling
  | exportFrame => exact h.exportFrame
  | exportScreen => exact h.exportScreen
  | exportFrameRow => exact h.exportFrameRow
  | exportScreenRow => exact h.exportScreenRow
  | attentionWrite v => exact (h.writeRegister v .attention).keeps
  | badCode => exact h.badCode

/-- Every step keeps the coherence. -/
theorem Coherent.step {t : State} (h : Coherent s) (hs : step s = .next t) : Coherent t := by
  unfold Machine.step at hs
  split at hs
  · cases hs
    exact h.congr rfl rfl rfl rfl
  · exact Coherent.exec (h.congr) _ t hs

end Sys2Proof.Machine
end

section
namespace Sys2Proof.Proofs
open Sys2Proof Sys2Proof.Machine Sys2Proof.Safety

/-- Settles O9: the two parts are one invariant, `Coherent`, which every command keeps. -/
theorem slotsAndLocksStayCoherent : Obligations.SlotsAndLocksStayCoherent := by
  intro s t h hs
  exact Coherent.step h hs

end Sys2Proof.Proofs
end

section
/-! The packets of the camera link and the silence timer (R1 to R19): what each command leaves in the port, the store, frame memory
and the Soil Monitor, and what it reports. -/

namespace Sys2Proof.Machine

open Safety

-- The proofs are elaborated in order: side by side, each would hold a thread of its own, and its memory.
set_option Elab.async false

/-! ## The end of an event -/

/-- What an event's operations leave, the end of the event leaves: `others v x` is `x` with the fields the event may
change as in `v`. -/
theorem finishEvent_others {s u : State} (others : State → State → State) (hself : ∀ v, others v v = v)
    (hlink : ∀ v x r b, others v { x with reports := r, bus := b } = others v x) (hu : ∀ v, others v u = others v s) :
    finishEvent u = others (finishEvent u) s :=
  ((hself _).symm.trans (finishEvent_unseen u (others _) (hlink _))).trans (hu _)

theorem finishEvent_ports (s : State) : (finishEvent s).ports = s.ports := by simp
theorem finishEvent_store (s : State) : (finishEvent s).store = s.store := by simp
theorem finishEvent_soil (s : State) : (finishEvent s).soil = s.soil := by simp
theorem finishEvent_evalQueue (s : State) : (finishEvent s).evalQueue = s.evalQueue := by simp
theorem finishEvent_lanes (s : State) : (finishEvent s).lanes = s.lanes := by simp
theorem finishEvent_frameMem (s : State) : (finishEvent s).frameMem = s.frameMem := by simp

theorem mark_ports (r : Record) (s : State) : (mark r s).ports = s.ports := rfl
theorem mark_store (r : Record) (s : State) : (mark r s).store = s.store := rfl
theorem mark_soil (r : Record) (s : State) : (mark r s).soil = s.soil := rfl
theorem raise_soil (n : Notice) (s : State) : (raise n s).soil = s.soil := by simp
theorem announceCamera_ports (p : PortId) (s : State) : (announceCamera p s).ports = s.ports := by simp
theorem announceCamera_soil (p : PortId) (s : State) : (announceCamera p s).soil = s.soil := by simp

/-! ## Within an event -/

section Raised
variable {m s : State} {ns : List Notice} {rs : List Record}

theorem Raised.setPort (h : Raised m s ns rs) (p : PortId) (q : CapturePort) : Raised m (s.setPort p q) ns rs := h.step rfl rfl rfl

theorem Raised.setStore (h : Raised m s ns rs) (p : PortId) (q : StorePort) : Raised m (s.setStore p q) ns rs := h.step rfl rfl rfl

theorem Raised.setSoil (h : Raised m s ns rs) (p : PortId) (v : Soil) : Raised m (s.setSoil p v) ns rs := h.step rfl rfl rfl

end Raised

/-- Between two events nothing is due and nothing has been raised. -/
theorem Raised.calm {s : State} (h : Calm s) : Raised s s [] [] := Raised.start h.1

/-! ## Frames within frame memory (R23) -/

theorem frameFits_of_size (p : PortId) (i : SlotId) {w h : Nat} (hs : FrameSize w h) : frameFits p i w h = true := by
  obtain ⟨hw, hh⟩ := hs
  have harea : h * (2 * w) ≤ 768 * (2 * 1280) := Nat.mul_le_mul hh (Nat.mul_le_mul_left 2 hw)
  have hp := p.isLt
  have hi := i.isLt
  have hend : (6 * p.val + i.val) * 1966080 + h * (2 * w) ≤ 268435456 := by omega
  exact decide_eq_true hend

theorem execLine_eq {s : State} {p : PortId} {f : FrameInProgress} (hk : s.ports[p].state ≠ .parked)
    (hf : s.ports[p].frame = some f) (hs : FrameSize s.ports[p].camera.width s.ports[p].camera.height) (n : Half)
    (payload : List Byte) (check : Half) :
    exec (.line p n payload check) s = .next (finishEvent (takeLine p f n.toNat payload check s)) := by
  show execLine p n payload check s = _
  unfold execLine
  rw [if_neg hk, hf]
  exact if_pos (frameFits_of_size p f.slot hs)

theorem execFrameClose_eq {s : State} {p : PortId} {f : FrameInProgress} (hk : s.ports[p].state ≠ .parked)
    (hf : s.ports[p].frame = some f) (hs : FrameSize s.ports[p].camera.width s.ports[p].camera.height) (count : Half) :
    exec (.frameClose p count) s = .next (finishEvent (takeClose p f count s)) := by
  show execFrameClose p count s = _
  unfold execFrameClose
  rw [if_neg hk, hf]
  exact if_pos (frameFits_of_size p f.slot hs)

theorem execFrameOpen_eq {s : State} {p : PortId} (hk : s.ports[p].state ≠ .parked) (count width height : Half) :
    exec (.frameOpen p count width height) s = .next (finishEvent (takeOpen p count width height s)) := if_neg hk

/-! ## Disorder (R16) -/

/-- A LINE out of order is counted and nothing else (R16). -/
theorem takeLine_disorder {s : State} {p : PortId} {f : FrameInProgress} {n : Nat} (payload : List Byte) (check : Half)
    (hn : s.ports[p].camera.height ≤ n ∨ n < f.next) :
    takeLine p f n payload check s = mark (.camera p) (s.setPort p
      { s.ports[p] with health := { s.ports[p].health with disorder := s.ports[p].health.disorder + 1 } }) := if_pos hn

/-! ## FRAME OPEN (R11 to R13) -/

theorem set_self {α : Type} {n : Nat} (v : Vector α n) (i : Fin n) : v.set i.val v[i] i.isLt = v := by
  simp [Fin.getElem_fin]

/-- The slots of a port once a frame still in progress, if any, has been aborted (R11). -/
def slotsAborted (q : StorePort) : Option FrameInProgress → StorePort
  | none => q
  | some f => slotDropped q f.slot

/-- The abort of a frame still in progress (R11): the slot is given up, the sums cleared, the abort counted. -/
theorem abortFrame_spec (p : PortId) (s : State) :
    let q := s.ports[p]
    (abortFrame p s).ports = s.ports.set p
      { q with
        frame := none
        sums := if q.frame.isSome then noSums else q.sums
        health := { q.health with aborted := q.health.aborted + if q.frame.isSome then 1 else 0 } } ∧
    (abortFrame p s).store = s.store.set p (slotsAborted s.store[p] q.frame) := by
  unfold abortFrame discardFrame
  dsimp only
  split
  · rename_i hf
    rw [hf]
    have hq : s.ports[p] = { s.ports[p] with
        frame := none
        sums := if (none : Option FrameInProgress).isSome then noSums else s.ports[p].sums
        health := { s.ports[p].health with
          aborted := s.ports[p].health.aborted + if (none : Option FrameInProgress).isSome then 1 else 0 } } := by
      simp only [Option.isSome_none, Bool.false_eq_true, if_false]
      rw [show s.ports[p].health.aborted + 0 = s.ports[p].health.aborted from BitVec.add_zero _, ← hf]
    exact ⟨by rw [← hq, set_self], by rw [slotsAborted, set_self]⟩
  · rename_i f hf
    rw [hf]
    simp only [mark_keeps, State.setPort_ports, State.setPort_store, State.setStore_ports, State.setStore_store, getElem_set_same,
      Vector.set_set]
    exact ⟨rfl, rfl⟩

/-- An abort has the camera record rewritten (R11). -/
theorem Raised.abortFrame {m s : State} {ns : List Notice} {rs : List Record} (h : Raised m s ns rs) (p : PortId) :
    Raised m (abortFrame p s) ns (if s.ports[p].frame.isSome then .camera p :: rs else rs) := by
  unfold Machine.abortFrame
  split
  · rename_i hf
    rw [hf]; exact h
  · rename_i f hf
    rw [hf]
    exact Raised.mark (h.step (by simp) (by simp) (by simp)) (.camera p)

/-- The due flag of R41, as the frame-in-progress record takes it. -/
theorem isDue_eq (s : State) (p : PortId) :
    isDue s p = decide (s.soil[p].state = .learning ∨ s.soil[p].oneShot = true ∨
      1 ≤ s.ports[p].camera.interval ∧ s.ports[p].camera.interval - 1 ≤ s.soil[p].intervalCount) := by
  unfold isDue
  simp only [Bool.decide_or, Bool.decide_and, Bool.decide_eq_true, Bool.or_assoc]

/-- A frame of the record's size fills the chosen slot (R13, R26). -/
theorem openFrame_eq {s : State} {p : PortId} {i : SlotId} (count : Half) (hi : s.store[p].choose = some i) :
    openFrame p count s =
      (s.setPort p
        { s.ports[p] with
          frame := some { count, slot := i, next := 0, patched := 0, due := isDue s p }
          sums := noSums }).setStore p
        (s.store[p].fill i count s.clock s.ports[p].camera.width s.ports[p].camera.height) := by
  unfold openFrame
  dsimp only
  rw [hi]

/-! ## Lines (R2, R14, R15) -/

theorem iterate_eq_iterate {α : Type} (f : α → α) (n : Nat) (x : α) : iterate f n x = f^[n] x := by
  induction n generalizing x with
  | zero => rfl
  | succ n ih => rw [iterate, ih, Function.iterate_succ_apply]

/-- A further patched line after a run of them. -/
theorem patchLine_patchLines (p : PortId) (n : Nat) (s : State) : patchLine p (patchLines p n s) = patchLines p (n + 1) s := by
  unfold patchLines
  rw [iterate_eq_iterate, iterate_eq_iterate, Function.iterate_succ_apply']

theorem crcBit_eq (c : Half) : crcBit c = if c.toNat < 2 ^ 15 then c <<< 1 else (c <<< 1) ^^^ 0x1021 := by
  unfold crcBit
  rw [BitVec.msb_eq_decide]
  by_cases h : c.toNat < 2 ^ 15
  · rw [if_pos h, if_neg (by simpa using h)]
  · rw [if_neg h, if_pos (by simpa using h)]

theorem byte_at_top (b : Byte) : (b.zeroExtend 16 <<< 8 : Half) = BitVec.ofNat 16 (256 * b.toNat) := by
  apply BitVec.eq_of_toNat_eq
  have := b.isLt
  simp only [BitVec.toNat_shiftLeft, BitVec.truncate_eq_setWidth, BitVec.toNat_setWidth, BitVec.toNat_ofNat, Nat.shiftLeft_eq]
  omega

/-- The CRC of R2, byte by byte. -/
theorem crc16_append (bs : List Byte) (b : Byte) :
    crc16 (bs ++ [b]) =
      (fun c : Half => if c.toNat < 2 ^ 15 then c <<< 1 else (c <<< 1) ^^^ 0x1021)^[8]
        (crc16 bs ^^^ BitVec.ofNat 16 (256 * b.toNat)) := by
  unfold crc16
  rw [List.foldl_append, List.foldl_cons, List.foldl_nil, crcByte, iterate_eq_iterate, byte_at_top]
  exact congrArg (fun f : Half → Half => f^[8] _) (funext crcBit_eq)

/-- A LINE that is not out of order: the lines it skips are patched, and it is stored if it is good, else patched (R14, R15). -/
theorem takeLine_eq {s : State} {p : PortId} {f : FrameInProgress} {n : Nat} (payload : List Byte) (check : Half)
    (hf : s.ports[p].frame = some f) (h1 : f.next ≤ n) (h2 : n < s.ports[p].camera.height) :
    takeLine p f n payload check s =
      if payload.length = 2 * s.ports[p].camera.width ∧ crc16 payload = check then
        storeLine p { f with next := n, patched := f.patched + (n - f.next) } payload (patchLines p (n - f.next) s)
      else patchLines p (n - f.next + 1) s := by
  obtain ⟨-, hp, -⟩ := patchLines_spec p (n - f.next) s f hf
  have hg : (patchLines p (n - f.next) s).ports[p].frame =
      some { f with next := n, patched := f.patched + (n - f.next) } := by
    rw [hp, getElem_set_same, Nat.add_sub_cancel' h1]
  unfold takeLine
  dsimp only
  rw [if_neg (by omega), hg, patchLine_patchLines]
  simp only [lineGood, Bool.and_eq_true, decide_eq_true_eq]

/-- A run of stored lines and one more after it. -/
theorem sumLines_append (w h : Nat) (mem : Memory) (p : PortId) (slot : SlotId) (start count : Nat) (sums : Vector CellSums 48) :
    sumLines w h mem p slot (start + count) 1 (sumLines w h mem p slot start count sums) =
      sumLines w h mem p slot start (count + 1) sums := by
  unfold sumLines
  rw [← List.foldl_append, show List.range' (start + count) 1 = List.range' (start + 1 * count) 1 by simp, List.range'_append]

/-! ## FRAME CLOSE (R17 to R19) -/

/-- The missing lines of a frame at its close, patched up to the frame's height (R17). -/
theorem patchMissing_spec {s : State} {p : PortId} {f : FrameInProgress} (hf : s.ports[p].frame = some f) :
    let h := s.ports[p].camera.height
    LinesPatched s (patchLines p (h - f.next) s) p f h h := by
  intro h
  obtain ⟨-, -, hl⟩ := patchLines_spec p (h - f.next) s f hf
  by_cases hn : f.next ≤ h
  · rwa [Nat.add_sub_cancel' hn] at hl
  · have h0 : h - f.next = 0 := by omega
    rw [h0]
    exact ⟨fun j o h1 h2 _ => by omega, fun _ _ => rfl⟩

/-- The frame closes by its count and its patches, the missing ones among them (R17). -/
theorem takeClose_eq {s : State} {p : PortId} {f : FrameInProgress} (count : Half) (hf : s.ports[p].frame = some f) :
    let missing := s.ports[p].camera.height - f.next
    let g := { f with next := f.next + missing, patched := f.patched + missing }
    takeClose p f count s =
      if count = f.count ∧ f.patched + missing ≤ s.ports[p].camera.patchLimit then closeGood p g (patchLines p missing s)
      else closeBad p g (patchLines p missing s) := by
  intro missing g
  obtain ⟨-, hp, -⟩ := patchLines_spec p missing s f hf
  have hg : (patchLines p missing s).ports[p].frame = some g := by rw [hp, getElem_set_same]
  unfold takeClose
  dsimp only
  rw [hg]

/-- What the hand-over of a good frame leaves in the Soil Monitor (R43, R46). -/
theorem soilClose_spec (p : PortId) (clean due : Bool) (stamp : Stamp) (sums : Vector CellSums 48) (s : State) :
    let m := s.soil[p]
    let c := s.ports[p].camera
    let t := soilClose p clean due stamp sums s
    if ¬ clean then t.soil = s.soil ∧ t.evalQueue = s.evalQueue
    else if due = false then
      t.soil = s.soil.set p { m with intervalCount := min (m.intervalCount + 1) 254 } ∧ t.evalQueue = s.evalQueue
    else if s.evalQueue.length < 4 then
      t.soil = s.soil.set p { m with intervalCount := 0, oneShot := false } ∧
      t.evalQueue = s.evalQueue ++ [{ port := p, stamp, cellWidth := c.width / 8, cellHeight := c.height / 6, sums }]
    else t.soil = s.soil.set p { m with skips := m.skips + 1 } ∧ t.evalQueue = s.evalQueue := by
  intro m c t
  unfold t soilClose
  cases clean with
  | false => exact ⟨rfl, rfl⟩
  | true =>
    cases due with
    | false => exact ⟨rfl, rfl⟩
    | true =>
      by_cases hq : s.evalQueue.length < 4
      · simp [hq, m, c]
      · simp [hq, m]

/-- A skipped frame has the soil record rewritten (R46). -/
theorem Raised.soilClose {m s : State} {ns : List Notice} {rs : List Record} (h : Raised m s ns rs) (p : PortId) (clean due : Bool)
    (stamp : Stamp) (sums : Vector CellSums 48) :
    Raised m (soilClose p clean due stamp sums s) ns
      ((if clean = true ∧ due = true ∧ 4 ≤ s.evalQueue.length then [.soil p] else []) ++ rs) := by
  unfold Machine.soilClose
  cases clean with
  | false => exact h
  | true =>
    cases due with
    | false => exact h.step rfl rfl rfl
    | true =>
      by_cases hq : s.evalQueue.length < 4
      · simp only [hq, Nat.not_le.2 hq, Bool.not_true, Bool.false_eq_true, and_false, if_false, if_true, List.nil_append]
        exact h.step (by simp) (by simp) (by simp)
      · simp only [hq, Nat.not_lt.1 hq, Bool.not_true, Bool.false_eq_true, and_true, if_false, if_true, List.singleton_append]
        exact Raised.mark (h.step (by simp) (by simp) (by simp)) (.soil p)

section Close
variable (p : PortId) (f : FrameInProgress) (s : State)

/-- A good frame at its close, before it is announced (R19). -/
theorem closeGood_eq :
    closeGood p f s =
      let q := s.ports[p]
      let t := ((soilClose p (decide (f.patched = 0)) f.due s.store[p].slots[f.slot].stamp q.sums s).setPort p
        { q with
          frame := none
          sums := noSums
          silence := some s.clock
          state := .live
          health := { q.health with good := q.health.good + 1 } }).setStore p (s.store[p].complete f.slot)
      if q.state = .live then t else announceCamera p t := rfl

theorem closeGood_fields :
    let q := s.ports[p]
    (closeGood p f s).ports = s.ports.set p
      { q with
        frame := none
        sums := noSums
        silence := some s.clock
        state := .live
        health := { q.health with good := q.health.good + 1 } } ∧
    (closeGood p f s).store = s.store.set p (s.store[p].complete f.slot) ∧
    (closeGood p f s).soil = (soilClose p (decide (f.patched = 0)) f.due s.store[p].slots[f.slot].stamp q.sums s).soil ∧
    (closeGood p f s).evalQueue = (soilClose p (decide (f.patched = 0)) f.due s.store[p].slots[f.slot].stamp q.sums s).evalQueue := by
  rw [closeGood_eq]
  dsimp only
  split <;> simp

end Close

theorem Raised.announceCamera {m s : State} {ns : List Notice} {rs : List Record} (h : Raised m s ns rs) (p : PortId) :
    Raised m (announceCamera p s) (ns ++ [.camera]) (.camera p :: rs) := (h.mark _).raise _

/-- A port that becomes LIVE is announced (R7). -/
theorem Raised.closeGood {m s : State} {ns : List Notice} {rs : List Record} (h : Raised m s ns rs) (p : PortId) (f : FrameInProgress) :
    Raised m (closeGood p f s) (ns ++ if s.ports[p].state = .live then [] else [.camera])
      ((if s.ports[p].state = .live then [] else [.camera p]) ++
        ((if f.patched = 0 ∧ f.due = true ∧ 4 ≤ s.evalQueue.length then [.soil p] else []) ++ rs)) := by
  rw [closeGood_eq]
  have hs := h.soilClose p (decide (f.patched = 0)) f.due s.store[p].slots[f.slot].stamp s.ports[p].sums
  simp only [decide_eq_true_eq] at hs
  by_cases hl : s.ports[p].state = .live
  · simp only [if_pos hl, List.append_nil, List.nil_append]
    exact hs.step rfl rfl rfl
  · simp only [if_neg hl]
    exact (hs.step (by simp) (by simp) (by simp)).announceCamera p

/-! ## The silence timer and learning (R9, R63) -/

theorem silenceExpired_iff (s : State) (p : PortId) :
    silenceExpired s p = true ↔
      s.ports[p].state = .live ∧ ∃ t, s.ports[p].silence = some t ∧ s.ports[p].camera.silence ≤ since s.clock t := by
  unfold silenceExpired
  cases hs : s.ports[p].silence with
  | none => simp
  | some t => simp

theorem rated_iff (t : SoilState) : t.rated = true ↔ t = .clean ∨ t = .smeared ∨ t = .blinded := by
  cases t <;> decide

theorem updateSoil_soil (p : PortId) (always : Bool) (m : Soil) (s : State) :
    (updateSoil p always m s).soil = s.soil.set p m := by
  unfold updateSoil
  dsimp only
  split
  · rw [raise_soil, mark_soil]
    rfl
  · rw [mark_soil]
    rfl

/-- A learning in progress is dropped, and nothing happens where there is none (R63). -/
theorem abandonLearning_soil (p : PortId) (s : State) :
    (abandonLearning p s).soil = s.soil.set p (learningDropped s.soil[p]) := by
  unfold abandonLearning learningDropped
  dsimp only
  cases hl : s.soil[p].learning with
  | none => exact (set_self s.soil p).symm
  | some r =>
    simp only [updateSoil_soil, ← rated_iff]
    rfl

theorem Raised.abandonLearning {m s : State} {ns : List Notice} {rs : List Record} (h : Raised m s ns rs) (p : PortId) :
    Raised m (abandonLearning p s) (ns ++ dropNotices s.soil[p]) (dropRecords p s.soil[p] ++ rs) := by
  unfold Machine.abandonLearning dropNotices dropRecords
  dsimp only
  cases hl : s.soil[p].learning with
  | none => simpa using h
  | some r => exact ((h.setSoil p _).mark (.soil p)).raise .soil

end Sys2Proof.Machine
end

section
/-! The statements about the packets of the camera link and the silence timer. -/

namespace Sys2Proof.Machine

open Safety

-- The proofs are elaborated in order: side by side, each would hold a thread of its own, and its memory.
set_option Elab.async false

/-! ## Packets with no frame in progress (R10) -/

theorem execLine_noFrame {s : State} {p : PortId} (hf : s.ports[p].frame = none) (n : Half) (payload : List Byte) (check : Half) :
    exec (.line p n payload check) s = .next s := by
  show execLine p n payload check s = _
  unfold execLine
  rw [hf]
  split <;> rfl

theorem execFrameClose_noFrame {s : State} {p : PortId} (hf : s.ports[p].frame = none) (count : Half) :
    exec (.frameClose p count) s = .next s := by
  show execFrameClose p count s = _
  unfold execFrameClose
  rw [hf]
  split <;> rfl

/-! ## FRAME OPEN (R11 to R13) -/

/-- A mismatched FRAME OPEN aborts a frame still in progress and is counted (R11, R12). -/
theorem takeOpen_mismatched {s : State} {p : PortId} {count width height : Half}
    (hd : ¬ (width.toNat = s.ports[p].camera.width ∧ height.toNat = s.ports[p].camera.height)) :
    takeOpen p count width height s = mark (.camera p) ((abortFrame p s).setPort p
      { (abortFrame p s).ports[p] with
        health := { (abortFrame p s).ports[p].health with mismatched := (abortFrame p s).ports[p].health.mismatched + 1 } }) := by
  refine if_neg fun h => hd ?_
  rwa [(abortFrame_spec p s).1, getElem_set_same] at h

/-- A matching FRAME OPEN aborts a frame still in progress and opens one of its own (R11, R13). -/
theorem takeOpen_matching {s : State} {p : PortId} {count width height : Half}
    (hw : width.toNat = s.ports[p].camera.width) (hh : height.toNat = s.ports[p].camera.height) :
    takeOpen p count width height s = openFrame p count (abortFrame p s) := by
  refine if_pos ?_
  rw [(abortFrame_spec p s).1, getElem_set_same]
  exact ⟨hw, hh⟩

theorem finishEvent_takeOpen (p : PortId) (count width height : Half) (s : State) :
    let t := finishEvent (takeOpen p count width height s)
    t = { s with ports := t.ports, store := t.store, reports := t.reports, bus := t.bus } :=
  let others (v x : State) : State := { x with ports := v.ports, store := v.store, reports := v.reports, bus := v.bus }
  finishEvent_others others (fun _ => rfl) (fun _ _ _ _ => rfl) fun v =>
    takeOpen_unseen p count width height s (others v) fun _ _ _ _ => rfl

/-! ## LINE (R14, R15, R44) -/

/-- A line before line `n` ends where line `n` begins, or before it. -/
theorem lineBase_lt (p : PortId) (i : SlotId) {w j n o : Nat} (hj : j < n) (ho : o < 2 * w) :
    lineBase p i w j + o < lineBase p i w n := by
  have := lineBase_mono p i w (show j + 1 ≤ n from hj)
  rw [lineBase_succ] at this
  omega

/-- A line stored after a run of patched ones leaves them as they were (R14). -/
theorem LinesPatched.store {s v u : State} {p : PortId} {f : FrameInProgress} {n : Nat} (h : LinesPatched s v p f n n)
    (hn : f.next ≤ n)
    (hout : ∀ x, x < lineBase p f.slot s.ports[p].camera.width n ∨ lineBase p f.slot s.ports[p].camera.width (n + 1) ≤ x →
      u.frameMem.read x = v.frameMem.read x) : LinesPatched s u p f n (n + 1) := by
  obtain ⟨hpatched, hkept⟩ := h
  refine ⟨fun j o hj hjn ho => ?_, fun x hx => ?_⟩
  · exact (hout _ (.inl (lineBase_lt p f.slot hjn ho))).trans (hpatched j o hj hjn ho)
  · have h1 := lineBase_mono p f.slot s.ports[p].camera.width hn
    have h2 := lineBase_mono p f.slot s.ports[p].camera.width (show n ≤ n + 1 by omega)
    exact (hout x (by omega)).trans (hkept x (by omega))

/-- The sums of a run of lines and of a line stored after it (R44). -/
theorem sumLines_store {w h : Nat} {m k : Memory} (p : PortId) (slot : SlotId) {start n : Nat} (sums : Vector CellSums 48)
    (hn : start ≤ n) (hout : ∀ x, x < lineBase p slot w n → k.read x = m.read x) :
    sumLines w h k p slot n 1 (sumLines w h m p slot start (n - start) sums) = sumLines w h k p slot start (n + 1 - start) sums := by
  have hold : sumLines w h m p slot start (n - start) sums = sumLines w h k p slot start (n - start) sums := by
    refine sumLines_congr fun j _ hj => Memory.readBytes_congr fun x h1 h2 => (hout x ?_).symm
    have := lineBase_lt p slot (w := w) (o := x - lineBase p slot w j) (show j < n by omega) (by omega)
    omega
  have happ := sumLines_append w h k p slot start (n - start) sums
  rw [Nat.add_sub_cancel' hn] at happ
  rw [hold, happ, Nat.sub_add_comm hn]

/-- A good LINE past a gap: the skipped lines are patched, the line is stored, and a due frame adds the sums of them all. -/
theorem storeLine_patchLines_spec {s v u : State} {p : PortId} {q : CapturePort} {f : FrameInProgress} {n : Nat} {payload : List Byte}
    (hq : s.ports[p] = q) (hf : q.frame = some f) (hn : f.next ≤ n) (hlen : payload.length = 2 * q.camera.width)
    (hv : v = patchLines p (n - f.next) s)
    (hu : u = storeLine p { f with next := n, patched := f.patched + (n - f.next) } payload v) :
    u.ports = s.ports.set p
      { q with
        frame := some { f with next := n + 1, patched := f.patched + (n - f.next) }
        health := { q.health with patched := q.health.patched + BitVec.ofNat 32 (n - f.next) }
        sums :=
          if f.due then sumLines q.camera.width q.camera.height u.frameMem p f.slot f.next (n + 1 - f.next) q.sums else q.sums } ∧
    LinesPatched s u p f n (n + 1) ∧
    u.frameMem.readBytes (lineBase p f.slot q.camera.width n) (2 * q.camera.width) = payload := by
  subst hq
  obtain ⟨-, hports, hpatched⟩ := patchLines_spec p (n - f.next) s f hf
  rw [← hv] at hports hpatched
  have hvp : v.ports[p].camera = s.ports[p].camera := by rw [hports, getElem_set_same]
  obtain ⟨-, hup, hline, hout⟩ := storeLine_spec p { f with next := n, patched := f.patched + (n - f.next) } payload v
    (by rw [hvp]; exact hlen)
  rw [← hu] at hup hline hout
  rw [hvp] at hup hline hout
  rw [Nat.add_sub_cancel' hn] at hpatched
  refine ⟨?_, LinesPatched.store hpatched hn hout, hline⟩
  have hsums := sumLines_store (h := s.ports[p].camera.height) p f.slot s.ports[p].sums hn fun x hx => hout x (.inl hx)
  rw [hup, ← hsums, hports, getElem_set_same, Vector.set_set]
  cases f.due
  · simp only [Bool.false_eq_true, if_false]
  · simp only [if_true]

/-- A LINE that is not out of order (R14, R15, R44). -/
theorem takeLine_spec {s u : State} {p : PortId} {q : CapturePort} {f : FrameInProgress} {n : Nat} {payload : List Byte} {check : Half}
    (hq : s.ports[p] = q) (hf : q.frame = some f) (h1 : f.next ≤ n) (h2 : n < q.camera.height)
    (hu : u = takeLine p f n payload check s) (good : Prop) [Decidable good]
    (hgood : good ↔ payload.length = 2 * q.camera.width ∧ crc16 payload = check) {patches : Nat}
    (hpatches : patches = n - f.next + if good then 0 else 1) :
    u.ports = s.ports.set p
      { q with
        frame := some { f with next := n + 1, patched := f.patched + patches }
        health := { q.health with patched := q.health.patched + BitVec.ofNat 32 patches }
        sums :=
          if f.due then sumLines q.camera.width q.camera.height u.frameMem p f.slot f.next (n + 1 - f.next) q.sums else q.sums } ∧
    LinesPatched s u p f n (n + 1) ∧
    (∀ o, o < 2 * q.camera.width →
      u.frameMem.read (lineBase p f.slot q.camera.width n + o) = if good then payload.getD o 0 else patchByte s p f o) ∧
    (Calm s → Raised s u [] []) := by
  subst hq
  rw [takeLine_eq payload check hf h1 h2] at hu
  by_cases hg : good
  · rw [if_pos (hgood.1 hg)] at hu
    rw [if_pos hg, Nat.add_zero] at hpatches
    obtain ⟨hports, hpatched, hline⟩ := storeLine_patchLines_spec rfl hf h1 (hgood.1 hg).1 rfl hu
    rw [hpatches]
    refine ⟨hports, hpatched, fun o ho => ?_, fun hcalm => ?_⟩
    · rw [if_pos hg, Memory.read_of_readBytes hline ho]
    · rw [hu]
      exact (Raised.calm hcalm).step (by simp) (by simp) (by simp)
  · rw [if_neg fun h => hg (hgood.2 h)] at hu
    rw [if_neg hg] at hpatches
    obtain ⟨-, hports, hpatched⟩ := patchLines_spec p (n - f.next + 1) s f hf
    rw [← hu, ← hpatches] at hports hpatched
    have hnext : f.next + patches = n + 1 := by omega
    rw [hnext] at hports hpatched
    obtain ⟨hlines, hkept⟩ := hpatched
    refine ⟨?_, ⟨fun j o hj hjn => hlines j o hj (by omega), hkept⟩, fun o ho => ?_, fun hcalm => ?_⟩
    · rw [hports, show n + 1 - f.next = patches by omega]
    · rw [if_neg hg]
      exact hlines n o h1 (by omega) ho
    · rw [hu]
      exact (Raised.calm hcalm).step (by simp) (by simp) (by simp)

theorem finishEvent_takeLine (p : PortId) (f : FrameInProgress) (n : Nat) (payload : List Byte) (check : Half)
    (s : State) :
    let t := finishEvent (takeLine p f n payload check s)
    t = { s with ports := t.ports, frameMem := t.frameMem, reports := t.reports, bus := t.bus } :=
  let others (v x : State) : State := { x with ports := v.ports, frameMem := v.frameMem, reports := v.reports, bus := v.bus }
  finishEvent_others others (fun _ => rfl) (fun _ _ _ _ => rfl) fun v =>
    takeLine_unseen p f n payload check s (others v) fun _ _ _ _ => rfl

/-! ## FRAME CLOSE (R17 to R19) -/

theorem finishEvent_closeGood (p : PortId) (f : FrameInProgress) (n : Nat) (s : State) :
    let t := finishEvent (closeGood p f (patchLines p n s))
    t = { s with
      ports := t.ports, store := t.store, soil := t.soil, evalQueue := t.evalQueue, frameMem := t.frameMem
      reports := t.reports, bus := t.bus } :=
  let others (v x : State) : State := { x with
    ports := v.ports, store := v.store, soil := v.soil, evalQueue := v.evalQueue, frameMem := v.frameMem
    reports := v.reports, bus := v.bus }
  finishEvent_others others (fun _ => rfl) (fun _ _ _ _ => rfl) fun v =>
    (closeGood_unseen p f _ (others v) fun _ _ _ _ _ _ => rfl).trans (patchLines_unseen p n s (others v) fun _ _ _ => rfl)

theorem finishEvent_closeBad (p : PortId) (f : FrameInProgress) (n : Nat) (s : State) :
    let t := finishEvent (closeBad p f (patchLines p n s))
    t = { s with ports := t.ports, store := t.store, frameMem := t.frameMem, reports := t.reports, bus := t.bus } :=
  let others (v x : State) : State := { x with
    ports := v.ports, store := v.store, frameMem := v.frameMem, reports := v.reports, bus := v.bus }
  finishEvent_others others (fun _ => rfl) (fun _ _ _ _ => rfl) fun v =>
    (closeBad_unseen p f _ (others v) fun _ _ _ _ => rfl).trans (patchLines_unseen p n s (others v) fun _ _ _ => rfl)

theorem closeBad_fields (p : PortId) (f : FrameInProgress) (s : State) :
    let q := s.ports[p]
    (closeBad p f s).ports = s.ports.set p
      { q with frame := none, sums := noSums, health := { q.health with bad := q.health.bad + 1 } } ∧
    (closeBad p f s).store = s.store.set p (s.store[p].drop f.slot) ∧ (closeBad p f s).frameMem = s.frameMem :=
  ⟨rfl, rfl, rfl⟩

theorem Raised.closeBad {m s : State} {ns : List Notice} {rs : List Record} (h : Raised m s ns rs) (p : PortId) (f : FrameInProgress) :
    Raised m (closeBad p f s) ns (.camera p :: rs) := ((h.setPort p _).setStore p _).mark _

theorem Raised.patchLines {m s : State} {ns : List Notice} {rs : List Record} (h : Raised m s ns rs) (p : PortId) (n : Nat) :
    Raised m (patchLines p n s) ns rs := h.step (by simp) (by simp) (by simp)

/-! ## The silence timer (R9, R63) -/

theorem finishEvent_losePort (p : PortId) (s : State) :
    let t := finishEvent (losePort p s)
    t = { s with ports := t.ports, soil := t.soil, reports := t.reports, bus := t.bus } :=
  let others (v x : State) : State := { x with ports := v.ports, soil := v.soil, reports := v.reports, bus := v.bus }
  finishEvent_others others (fun _ => rfl) (fun _ _ _ _ => rfl) fun v => losePort_unseen p s (others v) fun _ _ _ _ => rfl

theorem losePort_fields (p : PortId) (s : State) :
    let q := s.ports[p]
    (losePort p s).ports = s.ports.set p
      { q with state := .lost, silence := none, health := { q.health with losses := q.health.losses + 1 } } ∧
    (losePort p s).soil = s.soil.set p (learningDropped s.soil[p]) := by
  unfold losePort
  simp only [announceCamera_keeps, abandonLearning_keeps, abandonLearning_soil]
  exact ⟨rfl, rfl⟩

theorem Raised.losePort {m s : State} {ns : List Notice} {rs : List Record} (h : Raised m s ns rs) (p : PortId) :
    Raised m (losePort p s) (ns ++ dropNotices s.soil[p] ++ [.camera]) (.camera p :: (dropRecords p s.soil[p] ++ rs)) :=
  (Raised.abandonLearning (h.setPort p _) p).announceCamera p

end Sys2Proof.Machine

namespace Sys2Proof.Proofs

open Sys2Proof Sys2Proof.Machine Sys2Proof.Safety

-- The proofs are elaborated in order: side by side, each would hold a thread of its own, and its memory.
set_option Elab.async false

/-- Settles O18: a packet that is not taken leaves the state as it was, and disorder has its counter and its record. -/
theorem packetsAreDiscarded : Obligations.PacketsAreDiscarded := by
  unfold Obligations.PacketsAreDiscarded
  intro s p count width height number check payload q
  refine ⟨rfl, fun hk => ⟨if_pos hk, if_pos hk, if_pos hk⟩,
    fun hf => ⟨execLine_noFrame hf number payload check, execFrameClose_noFrame hf count⟩, ?_⟩
  intro f hcalm hk hf hs hn
  have he := execLine_eq hk hf hs number payload check
  rw [takeLine_disorder payload check hn] at he
  let others (v x : State) : State := { x with ports := v.ports, reports := v.reports, bus := v.bus }
  exact ⟨_, he, finishEvent_others others (fun _ => rfl) (fun _ _ _ _ => rfl) fun _ => rfl, finishEvent_ports _,
    (((Raised.calm hcalm).setPort p _).mark _).finish hcalm.2⟩

/-- Settles O19: the abort, then the chosen slot and the frame-in-progress record. -/
theorem frameOpenFillsChosenSlot : Obligations.FrameOpenFillsChosenSlot := by
  unfold Obligations.FrameOpenFillsChosenSlot
  intro s p count width height i q m store hcalm hk hw hh hi
  let u := takeOpen p count width height s
  let t := finishEvent u
  obtain ⟨hports, hstore⟩ := abortFrame_spec p s
  have hchosen : (abortFrame p s).store[p] = store := by rw [hstore, getElem_set_same]; rfl
  have hu : u = _ := (takeOpen_matching hw hh).trans (openFrame_eq count (hchosen ▸ hi))
  have hclock : (abortFrame p s).clock = s.clock := by simp
  have hsoil : (abortFrame p s).soil = s.soil := by simp
  have hdue : isDue (abortFrame p s) p = decide (m.state = .learning ∨ m.oneShot = true ∨
      1 ≤ q.camera.interval ∧ q.camera.interval - 1 ≤ m.intervalCount) := by
    rw [isDue_eq, hsoil, hports, getElem_set_same]
  have hraised := (((Raised.calm hcalm).abortFrame p).setPort p { (abortFrame p s).ports[p] with
    frame := some { count, slot := i, next := 0, patched := 0, due := isDue (abortFrame p s) p }
    sums := noSums }).setStore p
      ((abortFrame p s).store[p].fill i count (abortFrame p s).clock (abortFrame p s).ports[p].camera.width
        (abortFrame p s).ports[p].camera.height)
  refine ⟨t, execFrameOpen_eq hk count width height, ?_, ?_, ?_, ?_⟩
  · exact finishEvent_takeOpen p count width height s
  · rw [show t.ports = u.ports from finishEvent_ports u, hu, State.setStore_ports, State.setPort_ports, hdue, hports, getElem_set_same,
      Vector.set_set]
    cases hf : s.ports[p].frame <;> simp [q, noSums]
  · rw [show t.store = u.store from finishEvent_store u, hu, State.setStore_store, State.setPort_store, hclock, hchosen, hports,
      getElem_set_same, hstore, Vector.set_set]
    rfl
  · refine Raised.finish ?_ hcalm.2
    rw [hu]
    exact hraised

/-- Settles O20: the abort, and the mismatch counted. -/
theorem mismatchedFrameOpenIsCounted : Obligations.MismatchedFrameOpenIsCounted := by
  unfold Obligations.MismatchedFrameOpenIsCounted
  intro s p count width height q hcalm hk hd
  let u := takeOpen p count width height s
  let t := finishEvent u
  obtain ⟨hports, hstore⟩ := abortFrame_spec p s
  have hu : u = _ := takeOpen_mismatched (not_and_or.2 hd)
  refine ⟨t, execFrameOpen_eq hk count width height, ?_, ?_, ?_, ?_⟩
  · exact finishEvent_takeOpen p count width height s
  · rw [show t.ports = u.ports from finishEvent_ports u, hu, mark_ports, State.setPort_ports, hports, getElem_set_same, Vector.set_set]
    rfl
  · rw [show t.store = u.store from finishEvent_store u, hu, mark_store, State.setPort_store, hstore]
    cases hf : s.ports[p].frame <;> simp [slotsAborted]
  · have hr := (((Raised.calm hcalm).abortFrame p).setPort p { (abortFrame p s).ports[p] with
      health := { (abortFrame p s).ports[p].health with mismatched := (abortFrame p s).ports[p].health.mismatched + 1 }
    }).mark (.camera p)
    refine Raised.finish ?_ hcalm.2
    rw [hu]
    refine hr.congr (fun _ => Iff.rfl) fun r => ?_
    split <;> simp

/-- Settles O21: the skipped lines by `patchLines_spec`, then the line itself, stored or patched. -/
theorem lineIsStoredOrPatched : Obligations.LineIsStoredOrPatched := by
  unfold Obligations.LineIsStoredOrPatched
  refine ⟨fun bs b => ⟨rfl, crc16_append bs b⟩, fun p i width n => rfl, ?_⟩
  intro s p f number payload check q w n good patches hcalm hk hf hs h1 h2
  obtain ⟨hports, hpatched, hline, hraised⟩ := takeLine_spec rfl hf h1 h2 (u := takeLine p f n payload check s) rfl good Iff.rfl
    (patches := patches) rfl
  refine ⟨_, execLine_eq hk hf hs number payload check, finishEvent_takeLine p f n payload check s, ?_⟩
  rw [LinesPatched, finishEvent_ports, finishEvent_frameMem, hports, getElem_set_same]
  exact ⟨rfl, rfl, hpatched, hline, (hraised hcalm).finish hcalm.2⟩

/-- Settles O23: the missing lines are patched, and the slot and the frame are given up. -/
theorem badFrameBecomesEmpty : Obligations.BadFrameBecomesEmpty := by
  unfold Obligations.BadFrameBecomesEmpty
  intro s p f count q h missing slot hcalm hk hf hs hbad
  obtain ⟨-, hv, -⟩ := patchLines_spec p missing s f hf
  have hlines := patchMissing_spec hf
  have he := execFrameClose_eq hk hf hs count
  rw [takeClose_eq count hf, if_neg fun hg => hbad.elim (absurd hg.1) (Nat.not_lt.2 hg.2)] at he
  obtain ⟨hports, hstore, hmem⟩ := closeBad_fields p { f with next := f.next + missing, patched := f.patched + missing }
    (patchLines p missing s)
  have hvstore : (patchLines p missing s).store = s.store := by simp
  refine ⟨_, he, finishEvent_closeBad p _ missing s, ?_, ?_, ?_,
    (((Raised.calm hcalm).patchLines p missing).closeBad p _).finish hcalm.2⟩
  · rw [finishEvent_ports, hports, hv, getElem_set_same, Vector.set_set]
    rfl
  · rw [finishEvent_store, hstore, hvstore]
    rfl
  · rw [LinesPatched, finishEvent_frameMem, hmem]
    exact hlines

/-- Settles O22: the missing lines are patched, the slot becomes READY, and the Soil Monitor is handed a clean frame that is due. -/
theorem goodFrameBecomesReady : Obligations.GoodFrameBecomesReady := by
  unfold Obligations.GoodFrameBecomesReady
  intro s p f count q m w h missing clean slot hcalm hk hf hs hcount hlimit
  obtain ⟨-, hv, -⟩ := patchLines_spec p missing s f hf
  have hlines := patchMissing_spec hf
  have he := execFrameClose_eq hk hf hs count
  rw [takeClose_eq count hf, if_pos ⟨hcount, hlimit⟩] at he
  have hq : (patchLines p missing s).ports[p].state = q.state ∧ (patchLines p missing s).ports[p].camera = q.camera ∧
      (clean → (patchLines p missing s).ports[p].sums = q.sums) := by
    rw [hv, getElem_set_same]
    refine ⟨rfl, rfl, fun hc => ?_⟩
    rw [show missing = 0 from (Nat.add_eq_zero_iff.1 hc).2]
    exact ite_self _
  obtain ⟨hstate, hcamera, hsums⟩ := hq
  have hvstore : (patchLines p missing s).store = s.store := by simp
  have hvsoil : (patchLines p missing s).soil = s.soil := by simp
  have hvqueue : (patchLines p missing s).evalQueue = s.evalQueue := by simp
  have hvclock : (patchLines p missing s).clock = s.clock := by simp
  let g : FrameInProgress := { f with next := f.next + missing, patched := f.patched + missing }
  obtain ⟨hports, hstore, hsoil, hqueue⟩ := closeGood_fields p g (patchLines p missing s)
  have hmem : (closeGood p g (patchLines p missing s)).frameMem = (patchLines p missing s).frameMem := by simp
  have hraised := ((Raised.calm hcalm).patchLines p missing).closeGood p g
  rw [hstate, hvqueue, List.nil_append, List.append_nil] at hraised
  have hmonitor := soilClose_spec p (decide clean) f.due slot.stamp (patchLines p missing s).ports[p].sums (patchLines p missing s)
  rw [hvsoil, hvqueue, hcamera] at hmonitor
  refine ⟨_, he, finishEvent_closeGood p g missing s, ?_, ?_, ?_, ?_, hraised.finish hcalm.2⟩
  · rw [finishEvent_ports, hports, hv, getElem_set_same, Vector.set_set, hvclock]
    rfl
  · rw [finishEvent_store, hstore, hvstore]
    rfl
  · rw [finishEvent_soil, finishEvent_evalQueue, hsoil, hqueue, hvstore]
    simp only [decide_eq_true_eq] at hmonitor
    by_cases hc : clean
    · rw [hsums hc] at hmonitor ⊢
      exact hmonitor
    · rw [if_pos hc] at hmonitor ⊢
      exact hmonitor
  · rw [LinesPatched, finishEvent_frameMem, hmem]
    exact hlines

/-- Settles O24: the expiry is a loss of the port, and its learning is dropped. -/
theorem silenceLosesLivePort : Obligations.SilenceLosesLivePort := by
  unfold Obligations.SilenceLosesLivePort
  intro s p q m expired
  refine ⟨fun hn => if_neg fun he => hn ((silenceExpired_iff s p).1 he), fun hcalm he => ?_⟩
  obtain ⟨hports, hsoil⟩ := losePort_fields p s
  refine ⟨_, if_pos ((silenceExpired_iff s p).2 he), finishEvent_losePort p s, (finishEvent_ports _).trans hports,
    (finishEvent_soil _).trans hsoil, ?_⟩
  have hraised := (Raised.calm hcalm).losePort p
  rw [List.nil_append, List.append_nil] at hraised
  exact hraised.finish hcalm.2

end Sys2Proof.Proofs
end

section
/-! The resets (R155, R171, R180). -/

namespace Sys2Proof.Machine

open Safety

-- The proofs are elaborated in order: side by side, each would hold a thread of its own, and its memory.
set_option Elab.async false

/-- A holder that is not in a lock set leaves it as it was. -/
theorem LockSet.remove_of_not_mem {l : LockSet} {h : Holder} (hn : l.mem h = false) : l.remove h = l := by
  cases h with
  | mover =>
    have hm : l.mover = false := hn
    simp only [LockSet.remove, ← hm]
  | display d =>
    have hd : l.displays[d] = false := hn
    have hs : l.displays.set d false = l.displays := by rw [← hd]; exact set_self l.displays d
    simp only [LockSet.remove, hs]

/-- The loss of a holder, slot by slot (R31 to R33). -/
theorem slotLeft_release (h : Holder) (t : Slot) : SlotLeft h t (t.release h) := by
  unfold SlotLeft Slot.release
  cases hm : t.locks.mem h with
  | true =>
    rw [if_pos rfl, Bool.true_and]
    rfl
  | false =>
    rw [LockSet.remove_of_not_mem hm]
    rfl

theorem storeLeft_dropExport (s : State) : StoreLeft .mover s (dropExport s) := by
  intro p
  have hp : (dropExport s).store[p] = (s.store[p]).release .mover := getElem_ofFn_fin _ _
  rw [hp]
  refine ⟨rfl, fun i => ?_⟩
  rw [StorePort.release_slot]
  exact slotLeft_release .mover _

/-- A door at power-on: its line is sampled once, and an active level starts the debounce timer (R125). -/
theorem powerOn_door (raw : Bool) :
    Door.powerOn raw =
      { raw := raw, timer := if raw then some (30000 : Stamp) else none, level := false, state := .shut, isolated := false
        dwell := 1500000, opened := none, lapses := 0, lastView := none } := by
  cases raw <;> rfl

theorem powerOn_doors (s : State) :
    (powerOn s).doors = Vector.ofFn fun k : DoorId =>
      { raw := s.doors[k].raw, timer := if s.doors[k].raw then some (30000 : Stamp) else none, level := false
        state := .shut, isolated := false, dwell := 1500000, opened := none, lapses := 0, lastView := none } :=
  congrArg Vector.ofFn (funext fun k : DoorId => powerOn_door s.doors[k].raw)

theorem powerOn_eq {s : State} {doors : Vector Door 8} (h : (powerOn s).doors = doors) :
    powerOn s = { powerOn s with doors := doors } := by
  rw [← h]

theorem powerOn_reset_doors : (powerOn State.reset).doors = State.reset.doors := by decide

theorem reset_raw (k : DoorId) : State.reset.doors[k].raw = false := by
  have h : ∀ k : DoorId, State.reset.doors[k].raw = false := by decide
  exact h k

end Sys2Proof.Machine

namespace Sys2Proof.Proofs

open Sys2Proof Sys2Proof.Machine Sys2Proof.Safety

-- The proofs are elaborated in order: side by side, each would hold a thread of its own, and its memory.
set_option Elab.async false

/-- Settles O44: each block at its reset value; a link reset lets the Export Mover's slot go. -/
theorem resetsTakeTheirValues : Obligations.ResetsTakeTheirValues := by
  unfold Obligations.ResetsTakeTheirValues
  intro s
  refine ⟨congrArg Host.Outcome.next (powerOn_eq (powerOn_doors s)), ?_, rfl, rfl, rfl, reset_raw, linkReset s, rfl, rfl,
    storeLeft_dropExport s, rfl⟩
  exact congrArg Host.Outcome.next (powerOn_eq powerOn_reset_doors)

end Sys2Proof.Proofs
end

section
/-! What a port stopped, parked, restarted or made to seek leaves (R5, R6, R21, R34, R43, R48, R63), and the end of a lane 0 block. -/

namespace Sys2Proof.Machine

open Safety

-- The proofs are elaborated in order: side by side, each would hold a thread of its own, and its memory.
set_option Elab.async false

/-! ## Stopping a port (R34, R43, R48) -/

theorem discardFrame_spec (p : PortId) (s : State) :
    (discardFrame p s).ports = s.ports.set p { s.ports[p] with frame := none, sums := noSums } ∧
    (discardFrame p s).store = s.store.set p (slotsAborted s.store[p] s.ports[p].frame) := by
  unfold discardFrame
  dsimp only
  split
  · rename_i hf
    rw [hf]
    exact ⟨rfl, (set_self s.store p).symm⟩
  · rename_i f hf
    rw [hf]
    exact ⟨rfl, rfl⟩

/-- The slots of a port that is stopped: the frame's slot is given up with its frame, the others are withdrawn. -/
theorem slotsWithdrawn_withdraw {q : StorePort} {frame : Option FrameInProgress} (h : PortSlots q frame) :
    SlotsWithdrawn q (slotsAborted q frame).withdraw := by
  obtain ⟨hfilling, -⟩ := h
  have hslot : ∀ i : SlotId, (slotsAborted q frame).slots[i] =
      if q.slots[i].state = .filling then { q.slots[i] with state := .empty, discard := false } else q.slots[i] := by
    intro i
    cases frame with
    | none => rw [if_neg fun hs => by simpa using (hfilling i).1 hs]; rfl
    | some f =>
      rw [slotsAborted, slotDropped, getElem_set_fin]
      by_cases hi : f.slot = i
      · rw [if_pos hi, if_pos ((hfilling i).2 ⟨f, rfl, hi⟩), hi]
      · rw [if_neg hi, if_neg fun hs => hi (by simpa using (hfilling i).1 hs)]
  refine ⟨rfl, fun i => ?_⟩
  rw [StorePort.withdraw_slot, hslot]
  cases hs : q.slots[i].state with
  | filling => rfl
  | empty => simp only [Slot.withdraw, hs, reduceCtorEq, if_false]
  | ready => simp only [Slot.withdraw, hs, reduceCtorEq, if_false, Slot.toEmpty]

/-- What a park, a RESTART of the port and entry to stabling have in common (R34, R43, R48). -/
theorem stopPort_spec (p : PortId) (s : State) :
    (stopPort p s).ports = s.ports.set p { s.ports[p] with frame := none, silence := none, sums := noSums } ∧
    (stopPort p s).store = s.store.set p (slotsAborted s.store[p] s.ports[p].frame).withdraw ∧
    (stopPort p s).soil = s.soil.set p { s.soil[p] with intervalCount := 0 } ∧
    (stopPort p s).evalQueue = s.evalQueue.filter fun e => decide (e.port ≠ p) := by
  obtain ⟨hports, hstore⟩ := discardFrame_spec p s
  have hsoil : (discardFrame p s).soil = s.soil := by simp
  have hqueue : (discardFrame p s).evalQueue = s.evalQueue := by simp
  unfold stopPort
  dsimp only
  simp only [State.setSoil_ports, State.setSoil_store, State.setSoil_soil, State.setStore_ports, State.setStore_store,
    State.setStore_soil, State.setPort_ports, State.setPort_store, State.setPort_soil, State.setStore_evalQueue,
    State.setPort_evalQueue, hports, hstore, hsoil, hqueue, getElem_set_same, Vector.set_set]
  exact ⟨trivial, trivial, trivial, trivial⟩

theorem Raised.stopPort {m s : State} {ns : List Notice} {rs : List Record} (h : Raised m s ns rs) (p : PortId) :
    Raised m (stopPort p s) ns rs := h.step (by simp) (by simp) (by simp)

/-! ## RESTART of a port (R21) -/

theorem restartPort_spec (p : PortId) (s : State) :
    (restartPort p s).ports = s.ports.set p
      { s.ports[p] with
        frame := none
        silence := none
        sums := noSums
        health := {}
        state := if s.ports[p].undefined = false ∧ s.mode = .run then .seeking else .parked } ∧
    (restartPort p s).store = (stopPort p s).store ∧ (restartPort p s).soil = (stopPort p s).soil ∧
    (restartPort p s).evalQueue = (stopPort p s).evalQueue := by
  obtain ⟨hports, -⟩ := stopPort_spec p s
  unfold restartPort
  simp only [announceCamera_keeps, State.setPort_ports, State.setPort_store, State.setPort_soil, State.setPort_evalQueue, hports,
    getElem_set_same, Vector.set_set, and_true]
  cases hu : s.ports[p].undefined
  · cases hm : s.mode <;> simp
  · simp

theorem Raised.restartPort {m s : State} {ns : List Notice} {rs : List Record} (h : Raised m s ns rs) (p : PortId) :
    Raised m (restartPort p s) (ns ++ [.camera]) (.camera p :: rs) := ((h.stopPort p).setPort p _).announceCamera p

theorem finishEvent_restartPort (p : PortId) (s : State) :
    let t := finishEvent (restartPort p s)
    t = { s with
      ports := t.ports, store := t.store, soil := t.soil, evalQueue := t.evalQueue, reports := t.reports, bus := t.bus } :=
  let others (v x : State) : State := { x with
    ports := v.ports, store := v.store, soil := v.soil, evalQueue := v.evalQueue, reports := v.reports, bus := v.bus }
  finishEvent_others others (fun _ => rfl) (fun _ _ _ _ => rfl) fun v => restartPort_unseen p s (others v) fun _ _ _ _ _ _ => rfl

theorem portOf_of_eq {target : Nat} {p : PortId} (h : target = p.val) : portOf target = some p := by
  subst h
  exact dif_pos p.isLt

theorem portOf_eq_none {target : Nat} (h : 12 ≤ target) : portOf target = none := dif_neg (Nat.not_lt.2 h)

/-- RESTART whose target is a port (R164). -/
theorem execRestart_port {s : State} {w head : Word} {p : PortId} (hc : Captured s w head 4) (hp : attentionTarget w = p.val) :
    exec .restart s = .next (finishEvent (restartPort p (wordTaken s))) := by
  obtain ⟨hw, hcode⟩ := hc
  show takeWord 4 restartByWord s = _
  unfold takeWord
  rw [hw]
  dsimp only
  rw [if_pos hcode, restartByWord, portOf_of_eq hp]
  rfl

end Sys2Proof.Machine

namespace Sys2Proof.Proofs

open Sys2Proof Sys2Proof.Machine Sys2Proof.Safety

-- The proofs are elaborated in order: side by side, each would hold a thread of its own, and its memory.
set_option Elab.async false

/-- Settles O41: the port is stopped, and its counters and its state start afresh. -/
theorem restartPortStartsAfresh : Obligations.RestartPortStartsAfresh := by
  unfold Obligations.RestartPortStartsAfresh
  intro s w head p hc hp hcalm hslots
  obtain ⟨-, hstore, hsoil, hqueue⟩ := stopPort_spec p (wordTaken s)
  obtain ⟨hports, hrstore, hrsoil, hrqueue⟩ := restartPort_spec p (wordTaken s)
  have hcalm' : Calm (wordTaken s) := hcalm
  refine ⟨_, execRestart_port hc hp, finishEvent_restartPort p (wordTaken s), (finishEvent_ports _).trans hports, ?_, ?_,
    (finishEvent_soil _).trans (hrsoil.trans hsoil), (finishEvent_evalQueue _).trans (hrqueue.trans hqueue),
    ((Raised.calm hcalm').restartPort p).finish hcalm.2⟩
  · rw [finishEvent_store, hrstore, hstore, getElem_set_same]
    rfl
  · rw [finishEvent_store, hrstore, hstore, getElem_set_same]
    exact slotsWithdrawn_withdraw hslots

end Sys2Proof.Proofs
end

section
/-! The end of a lane 0 block (R167, R168), and the blocks of a camera port: PARK CAMERA and UNPARK CAMERA (R5, R6). -/

namespace Sys2Proof.Machine

open Safety

-- The proofs are elaborated in order: side by side, each would hold a thread of its own, and its memory.
set_option Elab.async false

/-! ## The end of a lane 0 block -/

theorem allWritten_fate (ws : List (Nat × List Byte)) (s : State) : (allWritten s ws).bus.fate = s.bus.fate := by
  induction ws generalizing s with
  | nil => rfl
  | cons w ws ih => exact ih (hostWritten s w.1 w.2)

theorem calm_of_blockInHand {s : State} {l : LaneId} {k : Kind} {c : Chain} {b : InHand} (h : BlockInHand s l k c b) : Calm s := by
  obtain ⟨-, -, hcalm⟩ := h
  exact hcalm

section Block
variable {k : Kind} {act : InHand → State → State × Ending} {s u : State} {c : Chain} {b : InHand} {e : Ending}
  {ns : List Notice} {rs : List Record}

/-- A lane 0 block acts, and ends on a quiet link. -/
theorem lane0Block_ends (hb : BlockInHand s 0 k c b) (ha : act b s = (u, e)) (hr : Raised s u ns rs) (hclock : u.clock = s.clock)
    (hlanes : u.lanes = s.lanes) :
    lane0Block k act s = .next (finishEvent (endBlock 0 c b.notify b.haltOnFail b.next e u)) ∧
    BlockDone s (finishEvent (endBlock 0 c b.notify b.haltOnFail b.next e u)) c b e ns rs := by
  obtain ⟨hin, hk, hcalm⟩ := hb
  obtain ⟨hraised, hleft⟩ := endBlock_quiet hr hcalm.2 hclock 0 c b.notify b.haltOnFail b.next e
  rw [hlanes] at hraised hleft
  refine ⟨?_, (finishEvent_lanes _).trans hleft, hraised.finish ?_⟩
  · unfold lane0Block
    rw [hin]
    dsimp only
    rw [if_pos hk, ha]
  · exact (allWritten_fate _ s).trans hcalm.2

/-- A lane 0 block that fails a check, or finds nothing to do, only ends. -/
theorem onlyEnds_of_act {i : Instr} (hi : ∀ s, exec i s = lane0Block k act s) (hb : BlockInHand s 0 k c b) (ha : act b s = (s, e)) :
    OnlyEnds i s c b e := by
  obtain ⟨hexec, hdone⟩ := lane0Block_ends hb ha (Raised.calm (calm_of_blockInHand hb)) rfl rfl
  let others (v x : State) : State := { x with lanes := v.lanes, reports := v.reports, bus := v.bus }
  exact ⟨_, (hi s).trans hexec, finishEvent_others others (fun _ => rfl) (fun _ _ _ _ => rfl) fun v =>
    endBlock_unseen 0 c b.notify b.haltOnFail b.next e s (others v) fun _ _ _ _ => rfl, hdone⟩

end Block

/-! ## PARK CAMERA (R5) -/

theorem learningDropped_interval (m : Soil) (n : Nat) :
    learningDropped { m with intervalCount := n } = { learningDropped m with intervalCount := n } := by
  obtain ⟨_, _, _, _, _, _, _, _, learning, _, _, _, _⟩ := m
  cases learning <;> rfl

theorem parkPort_spec (p : PortId) (s : State) :
    (parkPort p s).ports = s.ports.set p { s.ports[p] with state := .parked, frame := none, silence := none, sums := noSums } ∧
    (parkPort p s).store = (stopPort p s).store ∧
    (parkPort p s).soil = s.soil.set p { learningDropped s.soil[p] with intervalCount := 0 } ∧
    (parkPort p s).evalQueue = (stopPort p s).evalQueue := by
  obtain ⟨hports, -, hsoil, -⟩ := stopPort_spec p s
  unfold parkPort
  simp only [announceCamera_keeps, abandonLearning_keeps, abandonLearning_soil, State.setPort_ports, State.setPort_store,
    State.setPort_soil, State.setPort_evalQueue, hports, hsoil, getElem_set_same, Vector.set_set, learningDropped_interval, and_self]

theorem Raised.parkPort {m s : State} {ns : List Notice} {rs : List Record} (h : Raised m s ns rs) (p : PortId) :
    Raised m (parkPort p s) (ns ++ dropNotices s.soil[p] ++ [.camera]) (.camera p :: (dropRecords p s.soil[p] ++ rs)) := by
  have hstop := Raised.abandonLearning ((h.stopPort p).setPort p { (Machine.stopPort p s).ports[p] with state := .parked }) p
  have hsoil : (Machine.stopPort p s).soil[p] = { s.soil[p] with intervalCount := 0 } := by
    obtain ⟨-, -, hs, -⟩ := stopPort_spec p s
    rw [hs, getElem_set_same]
  rw [State.setPort_soil, hsoil] at hstop
  exact hstop.announceCamera p

/-! ## UNPARK CAMERA (R6) -/

theorem seekPort_ports (p : PortId) (s : State) :
    (seekPort p s).ports = s.ports.set p { s.ports[p] with state := .seeking, frame := none, silence := none } := by
  unfold seekPort
  simp only [announceCamera_keeps, State.setPort_ports]

theorem Raised.seekPort {m s : State} {ns : List Notice} {rs : List Record} (h : Raised m s ns rs) (p : PortId) :
    Raised m (seekPort p s) (ns ++ [.camera]) (.camera p :: rs) := (h.setPort p _).announceCamera p

/-! ## The two blocks, check by check -/

section Acts
variable {s : State} {b : InHand} {p : PortId}

theorem actParkCamera_badTarget (ht : 12 ≤ b.target) : actParkCamera b s = (s, .failed .badTarget 0) := by
  rw [actParkCamera, portOf_eq_none ht]

theorem actParkCamera_eq (ht : b.target = p.val) :
    actParkCamera b s =
      if b.body = [] then if s.ports[p].state = .parked then (s, .done) else (parkPort p s, .done)
      else (s, .failed .badValue 255) := by
  rw [actParkCamera, portOf_of_eq ht]
  dsimp only
  rw [ite_not]
  simp only [List.length_eq_zero_iff]
  rfl

theorem actUnparkCamera_badTarget (ht : 12 ≤ b.target) : actUnparkCamera b s = (s, .failed .badTarget 0) := by
  rw [actUnparkCamera, portOf_eq_none ht]

theorem actUnparkCamera_eq (ht : b.target = p.val) :
    actUnparkCamera b s =
      if s.ports[p].undefined = true ∨ s.mode = .stabled then (s, .failed .notAllowedNow 0)
      else if b.body = [] then if s.ports[p].state = .parked then (seekPort p s, .done) else (s, .done)
      else (s, .failed .badValue 255) := by
  rw [actUnparkCamera, portOf_of_eq ht]
  dsimp only
  rw [ite_not]
  simp only [List.length_eq_zero_iff]
  rfl

variable {c : Chain} {e : Ending}

theorem parkCamera_onlyEnds (hb : BlockInHand s 0 .parkCamera c b) (ha : actParkCamera b s = (s, e)) :
    OnlyEnds .parkCamera s c b e := onlyEnds_of_act (fun _ => rfl) hb ha

theorem unparkCamera_onlyEnds (hb : BlockInHand s 0 .unparkCamera c b) (ha : actUnparkCamera b s = (s, e)) :
    OnlyEnds .unparkCamera s c b e := onlyEnds_of_act (fun _ => rfl) hb ha

/-- PARK CAMERA of a port that is not PARKED (R5). -/
theorem parkCamera_parks (hb : BlockInHand s 0 .parkCamera c b) (ht : b.target = p.val) (hbody : b.body = [])
    (hk : s.ports[p].state ≠ .parked) :
    lane0Block .parkCamera actParkCamera s =
      .next (finishEvent (endBlock 0 c b.notify b.haltOnFail b.next .done (parkPort p s))) ∧
    BlockDone s (finishEvent (endBlock 0 c b.notify b.haltOnFail b.next .done (parkPort p s))) c b .done
      (dropNotices s.soil[p] ++ [.camera]) (.camera p :: dropRecords p s.soil[p]) := by
  have ha : actParkCamera b s = (parkPort p s, .done) := by rw [actParkCamera_eq ht, if_pos hbody, if_neg hk]
  have hraised := (Raised.calm (calm_of_blockInHand hb)).parkPort p
  rw [List.nil_append, List.append_nil] at hraised
  exact lane0Block_ends hb ha hraised (by simp) (by simp)

/-- UNPARK CAMERA of a defined PARKED port in RUN (R6). -/
theorem unparkCamera_seeks (hb : BlockInHand s 0 .unparkCamera c b) (ht : b.target = p.val)
    (hr : ¬ (s.ports[p].undefined = true ∨ s.mode = .stabled)) (hbody : b.body = []) (hk : s.ports[p].state = .parked) :
    lane0Block .unparkCamera actUnparkCamera s =
      .next (finishEvent (endBlock 0 c b.notify b.haltOnFail b.next .done (seekPort p s))) ∧
    BlockDone s (finishEvent (endBlock 0 c b.notify b.haltOnFail b.next .done (seekPort p s))) c b .done [.camera] [.camera p] := by
  have ha : actUnparkCamera b s = (seekPort p s, .done) := by rw [actUnparkCamera_eq ht, if_neg hr, if_pos hbody, if_pos hk]
  exact lane0Block_ends hb ha ((Raised.calm (calm_of_blockInHand hb)).seekPort p) (by simp) (by simp)

end Acts

theorem finishEvent_parkPort (p : PortId) (c : Chain) (notify haltOnFail : Bool) (next : Word) (e : Ending) (s : State) :
    let t := finishEvent (endBlock 0 c notify haltOnFail next e (parkPort p s))
    t = { s with
      ports := t.ports, store := t.store, soil := t.soil, evalQueue := t.evalQueue, lanes := t.lanes
      reports := t.reports, bus := t.bus } :=
  let others (v x : State) : State := { x with
    ports := v.ports, store := v.store, soil := v.soil, evalQueue := v.evalQueue, lanes := v.lanes
    reports := v.reports, bus := v.bus }
  finishEvent_others others (fun _ => rfl) (fun _ _ _ _ => rfl) fun v =>
    (endBlock_unseen 0 c notify haltOnFail next e _ (others v) fun _ _ _ _ => rfl).trans
      (parkPort_unseen p s (others v) fun _ _ _ _ _ _ => rfl)

theorem finishEvent_seekPort (p : PortId) (c : Chain) (notify haltOnFail : Bool) (next : Word) (e : Ending) (s : State) :
    let t := finishEvent (endBlock 0 c notify haltOnFail next e (seekPort p s))
    t = { s with ports := t.ports, lanes := t.lanes, reports := t.reports, bus := t.bus } :=
  let others (v x : State) : State := { x with ports := v.ports, lanes := v.lanes, reports := v.reports, bus := v.bus }
  finishEvent_others others (fun _ => rfl) (fun _ _ _ _ => rfl) fun v =>
    (endBlock_unseen 0 c notify haltOnFail next e _ (others v) fun _ _ _ _ => rfl).trans
      (seekPort_unseen p s (others v) fun _ _ _ => rfl)

theorem endBlock_ports (l : LaneId) (c : Chain) (notify haltOnFail : Bool) (next : Word) (e : Ending) (s : State) :
    (endBlock l c notify haltOnFail next e s).ports = s.ports := by simp
theorem endBlock_store (l : LaneId) (c : Chain) (notify haltOnFail : Bool) (next : Word) (e : Ending) (s : State) :
    (endBlock l c notify haltOnFail next e s).store = s.store := by simp
theorem endBlock_soil (l : LaneId) (c : Chain) (notify haltOnFail : Bool) (next : Word) (e : Ending) (s : State) :
    (endBlock l c notify haltOnFail next e s).soil = s.soil := by simp
theorem endBlock_evalQueue (l : LaneId) (c : Chain) (notify haltOnFail : Bool) (next : Word) (e : Ending) (s : State) :
    (endBlock l c notify haltOnFail next e s).evalQueue = s.evalQueue := by simp

end Sys2Proof.Machine

namespace Sys2Proof.Proofs

open Sys2Proof Sys2Proof.Machine Sys2Proof.Safety

-- The proofs are elaborated in order: side by side, each would hold a thread of its own, and its memory.
set_option Elab.async false

/-- Settles O50: the checks in their order, then the port is stopped and parked, or made to seek. -/
theorem parkAndUnparkMoveThePort : Obligations.ParkAndUnparkMoveThePort := by
  unfold Obligations.ParkAndUnparkMoveThePort
  intro s c b
  constructor
  · intro hb
    refine ⟨fun ht => parkCamera_onlyEnds hb (actParkCamera_badTarget ht), fun p ht => ⟨fun hbody => ?_, fun hbody hk => ?_,
      fun hbody hk hslots => ?_⟩⟩
    · exact parkCamera_onlyEnds hb (by rw [actParkCamera_eq ht, if_neg hbody])
    · exact parkCamera_onlyEnds hb (by rw [actParkCamera_eq ht, if_pos hbody, if_pos hk])
    · obtain ⟨hexec, hdone⟩ := parkCamera_parks hb ht hbody hk
      obtain ⟨hports, hstore, hsoil, hqueue⟩ := parkPort_spec p s
      obtain ⟨-, hstop, -, hstopped⟩ := stopPort_spec p s
      refine ⟨_, hexec, finishEvent_parkPort p c b.notify b.haltOnFail b.next .done s, ?_, ?_, ?_, ?_, ?_, hdone⟩
      · rw [finishEvent_ports, endBlock_ports, hports]
        rfl
      · rw [finishEvent_store, endBlock_store, hstore, hstop, getElem_set_same]
      · rw [finishEvent_store, endBlock_store, hstore, hstop, getElem_set_same]
        exact slotsWithdrawn_withdraw hslots
      · rw [finishEvent_soil, endBlock_soil, hsoil]
      · rw [finishEvent_evalQueue, endBlock_evalQueue, hqueue, hstopped]
  · intro hb
    refine ⟨fun ht => unparkCamera_onlyEnds hb (actUnparkCamera_badTarget ht), fun p ht => ⟨fun hr => ?_, fun hr hbody => ?_,
      fun hr hbody hk => ?_, fun hr hbody hk => ?_⟩⟩
    · exact unparkCamera_onlyEnds hb (by rw [actUnparkCamera_eq ht, if_pos hr])
    · exact unparkCamera_onlyEnds hb (by rw [actUnparkCamera_eq ht, if_neg hr, if_neg hbody])
    · exact unparkCamera_onlyEnds hb (by rw [actUnparkCamera_eq ht, if_neg hr, if_pos hbody, if_neg hk])
    · obtain ⟨hexec, hdone⟩ := unparkCamera_seeks hb ht hr hbody hk
      refine ⟨_, hexec, finishEvent_seekPort p c b.notify b.haltOnFail b.next .done s, ?_, hdone⟩
      rw [finishEvent_ports, endBlock_ports, seekPort_ports]

end Sys2Proof.Proofs
end

section
/-! DEFINE CAMERA (R3, R4, R43, R66): the fields of its body, and what it leaves. -/

namespace Sys2Proof.Machine

open Safety

-- The proofs are elaborated in order: side by side, each would hold a thread of its own, and its memory.
set_option Elab.async false

/-! ## The fields of a body (section 2.5) -/

/-- A byte of a body, 0 past its end. -/
def bodyByte (body : List Byte) (i : Nat) : Nat := (body.getD i 0).toNat

theorem field_succ (body : List Byte) (i n : Nat) : field body i (n + 1) = bodyByte body i + 256 * field body (i + 1) n := by
  unfold field bodyByte
  by_cases h : i < body.length
  · rw [List.drop_eq_getElem_cons h, List.take_succ_cons, leNat, List.getD_eq_getElem _ _ h]
  · rw [List.drop_of_length_le (by omega), List.drop_of_length_le (by omega), List.getD_eq_default _ _ (by omega)]
    simp [leNat]

theorem field_zero (body : List Byte) (i : Nat) : field body i 0 = 0 := by
  rw [field, List.take_zero, leNat]

theorem field_one (body : List Byte) (i : Nat) : field body i 1 = bodyByte body i := by
  rw [field_succ, field_zero, Nat.mul_zero, Nat.add_zero]

theorem field_two (body : List Byte) (i : Nat) : field body i 2 = bodyByte body i + 256 * bodyByte body (i + 1) := by
  rw [field_succ, field_one]

/-! ## The numbers of a role, an end, a side and a coverage (R3) -/

theorem roleOf_eq_some {n : Nat} {role : Role} : roleOf n = some role ↔ roleNumber role = n := by
  constructor
  · intro h
    unfold roleOf at h
    split at h <;> cases h <;> rfl
  · rintro rfl
    cases role <;> rfl

theorem exists_roleOf {n : Nat} (h : n ≤ 3) : ∃ role, roleOf n = some role := by
  interval_cases n <;> exact ⟨_, rfl⟩

theorem roleNumber_le (role : Role) : roleNumber role ≤ 3 := by cases role <;> decide

theorem abOf_eq_some {n : Nat} {x : Option AB} : abOf n = some x ↔ abNumber x = n := by
  constructor
  · intro h
    unfold abOf at h
    split at h <;> cases h <;> rfl
  · rintro rfl
    cases x with
    | none => rfl
    | some end_ => cases end_ <;> rfl

theorem exists_abOf {n : Nat} (h : n ≤ 2) : ∃ x, abOf n = some x := by
  interval_cases n <;> exact ⟨_, rfl⟩

theorem abNumber_le (x : Option AB) : abNumber x ≤ 2 := by
  cases x with
  | none => decide
  | some end_ => cases end_ <;> decide

theorem abNumber_ne_zero (x : Option AB) : abNumber x ≠ 0 ↔ x.isSome = true := by
  cases x with
  | none => decide
  | some end_ => cases end_ <;> decide

/-- An END camera has an end, a FLANK camera an end and a side (R3). -/
theorem placed_iff (role : Role) (tip side : Option AB) :
    placed role tip side = true ↔
      (roleNumber role = 1 → abNumber tip ≠ 0) ∧ (roleNumber role = 2 → abNumber tip ≠ 0 ∧ abNumber side ≠ 0) := by
  simp only [abNumber_ne_zero]
  cases role <;> simp [placed, roleNumber]

theorem abNumber_keptTip (role : Role) (tip : Option AB) :
    abNumber (keptTip role tip) = if roleNumber role = 1 ∨ roleNumber role = 2 then abNumber tip else 0 := by
  cases role <;> rfl

theorem abNumber_keptSide (role : Role) (side : Option AB) :
    abNumber (keptSide role side) = if roleNumber role = 2 then abNumber side else 0 := by
  cases role <;> rfl

theorem coverageOf_of_le {c1 c2 : Nat} (h : c1 ≤ 8 ∧ c2 ≤ 8) :
    ∃ doors, coverageOf c1 c2 = some doors ∧
      doors.map (fun d => d.val + 1) = (if c1 = c2 then [c1] else [c1, c2]).filter fun n => decide (n ≠ 0) := by
  refine ⟨_, dif_pos h, ?_⟩
  have pred_succ : ∀ {n : Nat}, n ≠ 0 → n - 1 + 1 = n := fun hn => Nat.succ_pred_eq_of_ne_zero hn
  by_cases h1 : c1 = 0
  · by_cases h2 : c2 = 0
    · simp [h1, h2]
    · simp [h1, h2, Ne.symm h2, pred_succ h2]
  · by_cases h12 : c1 = c2
    · simp [← h12, h1, pred_succ h1]
    · by_cases h2 : c2 = 0
      · simp [h1, h2, pred_succ h1]
      · simp [h1, h2, h12, Ne.symm h12, pred_succ h1, pred_succ h2]

theorem coverageOf_eq_none {c1 c2 : Nat} (h : ¬ (c1 ≤ 8 ∧ c2 ≤ 8)) : coverageOf c1 c2 = none := dif_neg h

/-! ## The record of a body (R3) -/

section Record
variable (body : List Byte)

/-- The silence timeout a body gives, in milliseconds. -/
def bodySilence : Nat := if (bodyByte body 5).testBit 0 then bodyByte body 10 + 256 * bodyByte body 11 else 200

/-- The patch limit a body gives. -/
def bodyPatches : Nat := if (bodyByte body 5).testBit 1 then bodyByte body 12 else 8

/-- The ranges of R3. -/
def CameraInRange : Prop :=
  let width := bodyByte body 6 + 256 * bodyByte body 7
  let height := bodyByte body 8 + 256 * bodyByte body 9
  bodyByte body 0 ≤ 3 ∧ bodyByte body 1 ≤ 2 ∧ bodyByte body 2 ≤ 2 ∧ bodyByte body 3 ≤ 8 ∧ bodyByte body 4 ≤ 8 ∧
  320 ≤ width ∧ width ≤ 1280 ∧ width % 32 = 0 ∧ 240 ≤ height ∧ height ≤ 768 ∧ height % 24 = 0 ∧
  50 ≤ bodySilence body ∧ bodySilence body ≤ 1000 ∧ bodyPatches body ≤ 64 ∧
  (bodyByte body 0 = 1 → bodyByte body 1 ≠ 0) ∧ (bodyByte body 0 = 2 → bodyByte body 1 ≠ 0 ∧ bodyByte body 2 ≠ 0)

/-- The record a body in range gives. -/
def CameraReads (k : CameraRecord) : Prop :=
  roleNumber k.role = bodyByte body 0 ∧
  abNumber k.tip = (if bodyByte body 0 = 1 ∨ bodyByte body 0 = 2 then bodyByte body 1 else 0) ∧
  abNumber k.side = (if bodyByte body 0 = 2 then bodyByte body 2 else 0) ∧
  k.coverage.map (fun d => d.val + 1) =
    (if bodyByte body 3 = bodyByte body 4 then [bodyByte body 3] else [bodyByte body 3, bodyByte body 4]).filter
      (fun n => decide (n ≠ 0)) ∧
  k.width = bodyByte body 6 + 256 * bodyByte body 7 ∧ k.height = bodyByte body 8 + 256 * bodyByte body 9 ∧
  k.silence = 1000 * bodySilence body ∧ k.patchLimit = bodyPatches body ∧
  k.interval = (if (bodyByte body 5).testBit 2 then bodyByte body 13 else 4)

variable {body} {role : Role} {tip side : Option AB} {coverage : List DoorId}

/-- A body's record, its role, end, side and coverage read. -/
theorem cameraOf_eq (hrole : roleOf (bodyByte body 0) = some role) (htip : abOf (bodyByte body 1) = some tip)
    (hside : abOf (bodyByte body 2) = some side) (hcoverage : coverageOf (bodyByte body 3) (bodyByte body 4) = some coverage) :
    let width := bodyByte body 6 + 256 * bodyByte body 7
    let height := bodyByte body 8 + 256 * bodyByte body 9
    cameraOf body =
      if 320 ≤ width ∧ width ≤ 1280 ∧ width % 32 = 0 ∧ 240 ≤ height ∧ height ≤ 768 ∧ height % 24 = 0 ∧
          50 ≤ bodySilence body ∧ bodySilence body ≤ 1000 ∧ bodyPatches body ≤ 64 ∧ placed role tip side = true then
        some { role, tip := keptTip role tip, side := keptSide role side, coverage, width, height,
               silence := bodySilence body * 1000, patchLimit := bodyPatches body,
               interval := if (bodyByte body 5).testBit 2 then bodyByte body 13 else 4 }
      else none := by
  unfold cameraOf
  simp only [field_one, field_two, hrole, htip, hside, hcoverage]
  rfl

/-- A record comes of a role, an end, a side and a coverage that are all in range. -/
theorem exists_of_cameraOf {k : CameraRecord} (h : cameraOf body = some k) :
    ∃ role tip side coverage, roleOf (bodyByte body 0) = some role ∧ abOf (bodyByte body 1) = some tip ∧
      abOf (bodyByte body 2) = some side ∧ coverageOf (bodyByte body 3) (bodyByte body 4) = some coverage := by
  unfold cameraOf at h
  simp only [field_one] at h
  split at h
  · rename_i role tip side coverage h1 h2 h3 h4
    exact ⟨role, tip, side, coverage, h1, h2, h3, h4⟩
  · cases h

/-- A body out of range gives no record. -/
theorem cameraInRange_of_some {k : CameraRecord} (h : cameraOf body = some k) : CameraInRange body := by
  obtain ⟨role, tip, side, coverage, hrole, htip, hside, hcoverage⟩ := exists_of_cameraOf h
  have hdoors : bodyByte body 3 ≤ 8 ∧ bodyByte body 4 ≤ 8 := by
    by_contra hn
    rw [coverageOf_eq_none hn] at hcoverage
    cases hcoverage
  rw [cameraOf_eq hrole htip hside hcoverage] at h
  split at h
  · rename_i hc
    obtain ⟨hw1, hw2, hw3, hh1, hh2, hh3, hs1, hs2, hp, hplaced⟩ := hc
    rw [placed_iff, roleOf_eq_some.1 hrole, abOf_eq_some.1 htip, abOf_eq_some.1 hside] at hplaced
    exact ⟨roleOf_eq_some.1 hrole ▸ roleNumber_le role, abOf_eq_some.1 htip ▸ abNumber_le tip,
      abOf_eq_some.1 hside ▸ abNumber_le side,
      hdoors.1, hdoors.2, hw1, hw2, hw3, hh1, hh2, hh3, hs1, hs2, hp, hplaced⟩
  · cases h

/-- A body in range gives its record. -/
theorem exists_cameraOf (h : CameraInRange body) : ∃ k, cameraOf body = some k ∧ CameraReads body k := by
  obtain ⟨h0, h1, h2, h3, h4, hw1, hw2, hw3, hh1, hh2, hh3, hs1, hs2, hp, hend, hflank⟩ := h
  obtain ⟨role, hrole⟩ := exists_roleOf h0
  obtain ⟨tip, htip⟩ := exists_abOf h1
  obtain ⟨side, hside⟩ := exists_abOf h2
  obtain ⟨coverage, hcoverage, hdoors⟩ := coverageOf_of_le ⟨h3, h4⟩
  have hr := roleOf_eq_some.1 hrole
  have ht := abOf_eq_some.1 htip
  have hs := abOf_eq_some.1 hside
  have hplaced : placed role tip side = true := by
    rw [placed_iff, hr, ht, hs]
    exact ⟨hend, hflank⟩
  refine ⟨_, (cameraOf_eq hrole htip hside hcoverage).trans
    (if_pos ⟨hw1, hw2, hw3, hh1, hh2, hh3, hs1, hs2, hp, hplaced⟩), hr, ?_, ?_, hdoors, rfl, rfl, Nat.mul_comm _ _, rfl, rfl⟩
  · rw [abNumber_keptTip, hr, ht]
  · rw [abNumber_keptSide, hr, hs]

end Record

/-! ## The discard of a reference and the new record (R4, R43, R66) -/

/-- The soil state of a camera whose reference has been discarded (R66). -/
def referenceDiscarded (m : Soil) : Soil :=
  { m with
    reference := Vector.replicate 48 0
    informative := Vector.replicate 48 false
    counters := Vector.replicate 48 0
    blocked := Vector.replicate 48 false
    suspended := false
    learning := none
    score := 0
    state := .unlearned }

theorem discardReference_ports (p : PortId) (s : State) : (discardReference p s).ports = s.ports := by simp

theorem discardReference_soil (p : PortId) (s : State) :
    (discardReference p s).soil = s.soil.set p (referenceDiscarded s.soil[p]) := by
  unfold discardReference
  dsimp only
  rw [mark_soil, updateSoil_soil]
  rfl

theorem Raised.updateSoil {m s : State} {ns : List Notice} {rs : List Record} (h : Raised m s ns rs) (p : PortId) (always : Bool)
    (v : Soil) :
    Raised m (updateSoil p always v s) (ns ++ if always = true ∨ v.state ≠ s.soil[p].state then [.soil] else [])
      (.soil p :: rs) := by
  have hmark := (h.setSoil p v).mark (.soil p)
  unfold Machine.updateSoil
  dsimp only
  simp only [Bool.or_eq_true, decide_eq_true_eq]
  split
  · exact hmark.raise .soil
  · rwa [List.append_nil]

theorem Raised.discardReference {m s : State} {ns : List Notice} {rs : List Record} (h : Raised m s ns rs) (p : PortId) :
    Raised m (discardReference p s) (ns ++ if s.soil[p].state ≠ .unlearned then [.soil] else []) (.reference p :: .soil p :: rs) := by
  have hu := (h.updateSoil p false (referenceDiscarded s.soil[p])).mark (.reference p)
  simp only [Bool.false_eq_true, false_or, ne_comm (a := (referenceDiscarded s.soil[p]).state)] at hu
  exact hu

/-- The record has a new size, or the port was UNDEFINED (R66). -/
def Resized (q : CapturePort) (k : CameraRecord) : Prop :=
  q.undefined = true ∨ k.width ≠ q.camera.width ∨ k.height ≠ q.camera.height

/-- The record taken and the interval count cleared, the reference as it was (R4, R43). -/
def recordTaken (p : PortId) (k : CameraRecord) (s : State) : State :=
  (s.setPort p { s.ports[p] with camera := k, undefined := false }).setSoil p { s.soil[p] with intervalCount := 0 }

section Define
variable {p : PortId} {k : CameraRecord} {s : State}

theorem defineCamera_resized (h : Resized s.ports[p] k) :
    defineCamera p k s = announceCamera p (discardReference p (recordTaken p k s)) :=
  congrArg (announceCamera p) (if_pos h)

theorem defineCamera_kept (h : ¬ Resized s.ports[p] k) : defineCamera p k s = announceCamera p (recordTaken p k s) :=
  congrArg (announceCamera p) (if_neg h)

theorem defineCamera_ports : (defineCamera p k s).ports = s.ports.set p { s.ports[p] with undefined := false, camera := k } := by
  by_cases h : Resized s.ports[p] k
  · rw [defineCamera_resized h, announceCamera_ports, discardReference_ports]
    rfl
  · rw [defineCamera_kept h, announceCamera_ports]
    rfl

theorem recordTaken_soil : (recordTaken p k s).soil = s.soil.set p { s.soil[p] with intervalCount := 0 } := rfl

theorem defineCamera_soil_resized (h : Resized s.ports[p] k) :
    (defineCamera p k s).soil = s.soil.set p { referenceDiscarded s.soil[p] with intervalCount := 0 } := by
  rw [defineCamera_resized h, announceCamera_soil, discardReference_soil, recordTaken_soil, getElem_set_same, Vector.set_set]
  rfl

theorem defineCamera_soil_kept (h : ¬ Resized s.ports[p] k) :
    (defineCamera p k s).soil = s.soil.set p { s.soil[p] with intervalCount := 0 } := by
  rw [defineCamera_kept h, announceCamera_soil, recordTaken_soil]

variable {m : State} {ns : List Notice} {rs : List Record}

theorem Raised.recordTaken (h : Raised m s ns rs) : Raised m (recordTaken p k s) ns rs := (h.setPort p _).setSoil p _

theorem Raised.defineCamera_resized (h : Raised m s ns rs) (hk : Resized s.ports[p] k) :
    Raised m (defineCamera p k s) (ns ++ (if s.soil[p].state ≠ .unlearned then [.soil] else []) ++ [.camera])
      (.camera p :: .reference p :: .soil p :: rs) := by
  have hd := (Raised.recordTaken (p := p) (k := k) h).discardReference p
  rw [recordTaken_soil, getElem_set_same] at hd
  rw [Machine.defineCamera_resized hk]
  exact hd.announceCamera p

theorem Raised.defineCamera_kept (h : Raised m s ns rs) (hk : ¬ Resized s.ports[p] k) :
    Raised m (defineCamera p k s) (ns ++ [.camera]) (.camera p :: rs) := by
  rw [Machine.defineCamera_kept hk]
  exact (Raised.recordTaken h).announceCamera p

end Define

/-! ## The block -/

section Acts
variable {s : State} {b : InHand} {p : PortId} {c : Chain} {e : Ending}

theorem actDefineCamera_badTarget (ht : 12 ≤ b.target) : actDefineCamera b s = (s, .failed .badTarget 0) := by
  rw [actDefineCamera, portOf_eq_none ht]

theorem actDefineCamera_eq (ht : b.target = p.val) :
    actDefineCamera b s =
      if s.ports[p].state ≠ .parked then (s, .failed .notAllowedNow 0)
      else if b.body.length ≠ 16 then (s, .failed .badValue 255)
      else match cameraOf b.body with
        | none => (s, .failed .badValue 0)
        | some k => (defineCamera p k s, .done) := by
  rw [actDefineCamera, portOf_of_eq ht]
  rfl

theorem defineCamera_onlyEnds (hb : BlockInHand s 0 .defineCamera c b) (ha : actDefineCamera b s = (s, e)) :
    OnlyEnds .defineCamera s c b e := onlyEnds_of_act (fun _ => rfl) hb ha

theorem finishEvent_defineCamera (p : PortId) (k : CameraRecord) (c : Chain) (notify haltOnFail : Bool) (next : Word) (e : Ending)
    (s : State) :
    let t := finishEvent (endBlock 0 c notify haltOnFail next e (defineCamera p k s))
    t = { s with ports := t.ports, soil := t.soil, lanes := t.lanes, reports := t.reports, bus := t.bus } :=
  let others (v x : State) : State := { x with
    ports := v.ports, soil := v.soil, lanes := v.lanes, reports := v.reports, bus := v.bus }
  finishEvent_others others (fun _ => rfl) (fun _ _ _ _ => rfl) fun v =>
    (endBlock_unseen 0 c notify haltOnFail next e _ (others v) fun _ _ _ _ => rfl).trans
      (defineCamera_unseen p k s (others v) fun _ _ _ _ => rfl)

/-- DEFINE CAMERA with its checks passed (R4). -/
theorem defineCamera_takes {k : CameraRecord} {ns : List Notice} {rs : List Record} (hb : BlockInHand s 0 .defineCamera c b)
    (ht : b.target = p.val) (hk : s.ports[p].state = .parked) (hl : b.body.length = 16) (hc : cameraOf b.body = some k)
    (hr : Raised s (defineCamera p k s) ns rs) :
    lane0Block .defineCamera actDefineCamera s =
      .next (finishEvent (endBlock 0 c b.notify b.haltOnFail b.next .done (defineCamera p k s))) ∧
    BlockDone s (finishEvent (endBlock 0 c b.notify b.haltOnFail b.next .done (defineCamera p k s))) c b .done ns rs := by
  have ha : actDefineCamera b s = (defineCamera p k s, .done) := by
    rw [actDefineCamera_eq ht, if_neg (not_not.2 hk), if_neg (not_not.2 hl), hc]
  exact lane0Block_ends hb ha hr (by simp) (by simp)

end Acts

end Sys2Proof.Machine

namespace Sys2Proof.Proofs

open Sys2Proof Sys2Proof.Machine Sys2Proof.Safety

-- The proofs are elaborated in order: side by side, each would hold a thread of its own, and its memory.
set_option Elab.async false

/-- Settles O49: the checks in their order, then the record, and the discard where the size is new. -/
theorem defineCameraTakesRecord : Obligations.DefineCameraTakesRecord := by
  unfold Obligations.DefineCameraTakesRecord
  intro s c b r width height silence patches inRange hb
  have hin : inRange ↔ CameraInRange b.body := Iff.rfl
  refine ⟨fun ht => defineCamera_onlyEnds hb (actDefineCamera_badTarget ht), fun p ht =>
    ⟨fun hk => ?_, fun hk hl => ?_, fun hk hl hn => ?_, fun hk hl hr => ?_⟩⟩
  · exact defineCamera_onlyEnds hb (by rw [actDefineCamera_eq ht, if_pos hk])
  · exact defineCamera_onlyEnds hb (by rw [actDefineCamera_eq ht, if_neg (not_not.2 hk), if_pos hl])
  · have hnone : cameraOf b.body = none := by
      by_contra hne
      obtain ⟨k, hk⟩ := Option.ne_none_iff_exists'.1 hne
      exact hn (hin.2 (cameraInRange_of_some hk))
    exact defineCamera_onlyEnds hb (by rw [actDefineCamera_eq ht, if_neg (not_not.2 hk), if_neg (not_not.2 hl), hnone])
  · obtain ⟨k, hc, hrole, htip, hside, hcoverage, hw, hh, hsilence, hpatches, hinterval⟩ := exists_cameraOf (hin.1 hr)
    intro resized
    have hresized : resized ↔ Resized s.ports[p] k := by
      rw [Resized, hw, hh]
      exact Iff.rfl
    have hsoil : (defineCamera p k s).soil = s.soil.set p (if resized
        then { referenceDiscarded s.soil[p] with intervalCount := 0 } else { s.soil[p] with intervalCount := 0 }) := by
      split
      · rename_i hz
        exact defineCamera_soil_resized (hresized.1 hz)
      · rename_i hz
        exact defineCamera_soil_kept fun h => hz (hresized.2 h)
    have hraised : Raised s (defineCamera p k s)
        (if resized ∧ s.soil[p].state ≠ .unlearned then [.soil, .camera] else [.camera])
        (if resized then [.camera p, .soil p, .reference p] else [.camera p]) := by
      by_cases hz : resized
      · refine ((Raised.calm (calm_of_blockInHand hb)).defineCamera_resized (hresized.1 hz)).congr (fun n => ?_) fun x => ?_
        · by_cases hu : s.soil[p].state = .unlearned
          · rw [if_neg (not_not.2 hu), if_neg fun h => h.2 hu]; rfl
          · rw [if_pos hu, if_pos ⟨hz, hu⟩]; rfl
        · rw [if_pos hz]
          simp only [List.mem_cons, List.not_mem_nil, or_false]
          exact or_congr_right or_comm
      · rw [if_neg fun h => hz h.1, if_neg hz]
        exact (Raised.calm (calm_of_blockInHand hb)).defineCamera_kept fun h => hz (hresized.2 h)
    obtain ⟨hexec, hdone⟩ := defineCamera_takes hb ht hk hl hc hraised
    refine ⟨_, k, hexec, finishEvent_defineCamera p k c b.notify b.haltOnFail b.next .done s, hrole, htip, hside, hcoverage, hw, hh,
      hsilence, hpatches, hinterval, ?_, ?_, hdone⟩
    · rw [finishEvent_ports, endBlock_ports, defineCamera_ports]
    · rw [finishEvent_soil, endBlock_soil, hsoil]
      rfl

end Sys2Proof.Proofs
end

section
/-! Bytes laid out field by field: what the report records hold (R173, R187). -/

namespace Sys2Proof.Machine

open Safety

-- The proofs are elaborated in order: side by side, each would hold a thread of its own, and its memory.
set_option Elab.async false

/-! ## Fields of bytes -/

/-- Little-endian fields one after another, each a length and a number. -/
def layout : List (Nat × Nat) → List Byte
  | [] => []
  | f :: fs => leBytes f.1 f.2 ++ layout fs

/-- The fields stand in the bytes from an offset on. -/
def HoldsFrom (bs : List Byte) : Nat → List (Nat × Nat) → Prop
  | _, [] => True
  | off, f :: fs => Holds bs off f.1 f.2 ∧ HoldsFrom bs (off + f.1) fs

theorem holdsFrom_layout (a b : List Byte) (fs : List (Nat × Nat)) : HoldsFrom (a ++ layout fs ++ b) a.length fs := by
  induction fs generalizing a with
  | nil => trivial
  | cons f fs ih =>
    have hrest := ih (a ++ leBytes f.1 f.2)
    rw [List.length_append, length_leBytes] at hrest
    rw [layout, ← List.append_assoc]
    exact ⟨by rw [List.append_assoc]; exact holds_leBytes a _ f.2 rfl, hrest⟩

/-- The contents of a record stand behind its head edition. -/
theorem holdsFrom_record {contents : List Byte} {fs : List (Nat × Nat)} (edition : Nat) (h : contents = layout fs) :
    HoldsFrom (leBytes 2 edition ++ contents ++ leBytes 2 edition) 2 fs := by
  rw [h]
  exact holdsFrom_layout (leBytes 2 edition) (leBytes 2 edition) fs

theorem layout_append (fs gs : List (Nat × Nat)) : layout (fs ++ gs) = layout fs ++ layout gs := by
  induction fs with
  | nil => rfl
  | cons f fs ih => rw [List.cons_append, layout, layout, ih, List.append_assoc]

theorem length_layout (fs : List (Nat × Nat)) : (layout fs).length = (fs.map Prod.fst).sum := by
  induction fs with
  | nil => rfl
  | cons f fs ih => rw [layout, List.length_append, length_leBytes, ih, List.map_cons, List.sum_cons]

theorem leBytes_one (v : Nat) : leBytes 1 v = [byte v] := rfl

theorem leBytes_reserved (n : Nat) : leBytes n 0 = zeros n := by
  induction n with
  | zero => rfl
  | succ n ih => rw [leBytes, Nat.zero_div, ih]; rfl

theorem flagByte_eq (b : Bool) : flagByte b = byte b.toNat := by cases b <;> rfl

/-! ## Fields of bits -/

/-- Fields of bits one above another, each a width and a number. -/
def pack : List (Nat × Nat) → Nat
  | [] => 0
  | f :: fs => f.2 + 2 ^ f.1 * pack fs

/-- The fields stand in a number from a bit on. -/
def BitsFrom (n : Nat) : Nat → List (Nat × Nat) → Prop
  | _, [] => True
  | low, f :: fs => n / 2 ^ low % 2 ^ f.1 = f.2 ∧ BitsFrom n (low + f.1) fs

theorem bitsFrom_of_div {fs : List (Nat × Nat)} (hlt : ∀ f ∈ fs, f.2 < 2 ^ f.1) {n low : Nat} (h : n / 2 ^ low = pack fs) :
    BitsFrom n low fs := by
  induction fs generalizing low with
  | nil => trivial
  | cons f fs ih =>
    have hf := hlt f List.mem_cons_self
    refine ⟨?_, ih (fun g hg => hlt g (List.mem_cons_of_mem _ hg)) ?_⟩
    · rw [h, pack, Nat.add_mul_mod_self_left, Nat.mod_eq_of_lt hf]
    · rw [Nat.pow_add, ← Nat.div_div_eq_div_mul, h, pack, Nat.add_mul_div_left _ _ (Nat.two_pow_pos _), Nat.div_eq_of_lt hf,
        Nat.zero_add]

theorem pack_lt {fs : List (Nat × Nat)} (hlt : ∀ f ∈ fs, f.2 < 2 ^ f.1) : pack fs < 2 ^ (fs.map Prod.fst).sum := by
  induction fs with
  | nil => exact Nat.one_pos
  | cons f fs ih =>
    have hf := hlt f List.mem_cons_self
    have hrest := ih fun g hg => hlt g (List.mem_cons_of_mem _ hg)
    rw [pack, List.map_cons, List.sum_cons, Nat.pow_add]
    calc f.2 + 2 ^ f.1 * pack fs < 2 ^ f.1 + 2 ^ f.1 * pack fs := Nat.add_lt_add_right hf _
      _ = 2 ^ f.1 * (pack fs + 1) := by ring
      _ ≤ 2 ^ f.1 * 2 ^ (fs.map Prod.fst).sum := Nat.mul_le_mul_left _ hrest

/-! ## A map of cells (section 12.5) -/

/-- The number with bit i set where f has it. -/
theorem testBit_foldl_finRange {n : Nat} (f : Fin n → Bool) :
    let v := (List.finRange n).foldl (fun a i => a + (f i).toNat * 2 ^ i.val) 0
    v < 2 ^ n ∧ ∀ i : Fin n, v.testBit i.val = f i := by
  induction n with
  | zero => exact ⟨Nat.one_pos, fun i => i.elim0⟩
  | succ n ih =>
    obtain ⟨hlt, hbit⟩ := ih fun i => f i.castSucc
    intro v
    have hv : v = 2 ^ n * (f (Fin.last n)).toNat + (List.finRange n).foldl (fun a i => a + (f i.castSucc).toNat * 2 ^ i.val) 0 := by
      unfold v
      rw [List.finRange_succ_last, List.foldl_append, List.foldl_map, List.foldl_cons, List.foldl_nil, Nat.add_comm, Nat.mul_comm]
      rfl
    refine ⟨?_, fun i => ?_⟩
    · have hb := Bool.toNat_le (f (Fin.last n))
      have := Nat.mul_le_mul_left (2 ^ n) hb
      rw [hv, Nat.pow_succ]
      omega
    · rw [hv, Nat.testBit_two_pow_mul_add _ hlt]
      refine Fin.lastCases ?_ (fun j => ?_) i
      · rw [if_neg (by simp)]
        cases f (Fin.last n) <;> simp
      · rw [if_pos (by simp)]
        exact hbit j

theorem testBit_mapNat (m : Vector Bool 48) (i : Fin 48) : (mapNat m).testBit i.val = m[i] :=
  (testBit_foldl_finRange fun i : Fin 48 => m[i]).2 i

/-- The six bytes of a map show its cells. -/
theorem testBit_of_holds {bs : List Byte} {off : Nat} {m : Vector Bool 48} (h : Holds bs off 6 (mapNat m)) (i : Fin 48) :
    (number bs off 6).testBit i.val = m[i] := by
  rw [h, show (256 : Nat) ^ 6 = 2 ^ 48 by norm_num, Nat.testBit_mod_two_pow, testBit_mapNat, decide_eq_true i.isLt, Bool.true_and]

end Sys2Proof.Machine
end

section
/-! What each report record shows, its fields in the order of section 12.5. -/

namespace Sys2Proof.Machine

open Safety

-- The proofs are elaborated in order: side by side, each would hold a thread of its own, and its memory.
set_option Elab.async false

/-- The fields of the part record. -/
def partFields (s : State) : List (Nat × Nat) :=
  [(2, s.reports.notice.toNat), (1, s.mode.code), (1, abCode s.cab), (1, s.clear.left.toNat + 2 * s.clear.right.toNat),
    (1, s.wakeCause.code), (1, s.wakeCause.doorNumber), (3, 0), (4, s.clock.toNat), (46, 0)]

theorem partContents_eq (s : State) : partContents s = layout (partFields s) := by
  simp only [partContents, partFields, layout, leBytes_one, leBytes_reserved, List.append_assoc, List.cons_append, List.nil_append,
    List.append_nil]

theorem partShows_of_holds {s : State} {bs : List Byte} (h : HoldsFrom bs 2 (partFields s)) : PartShows s bs := by
  obtain ⟨hnotice, hmode, hcab, hclear, hcause, hdoor, hres, hclock, hend, -⟩ := h
  have hwake : s.wakeCause.doorNumber = match s.wakeCause with
      | .door d => d.val + 1
      | _ => 0 := by cases s.wakeCause <;> rfl
  rw [hwake] at hdoor
  refine ⟨hnotice, fun n => ?_, hmode, hcab, hclear, hcause, hdoor, hres, hclock, hend⟩
  have hn : noticePlace n < 16 := by cases n <;> decide
  rw [show number bs 2 2 = s.reports.notice.toNat % 2 ^ 16 from hnotice, Nat.testBit_mod_two_pow, decide_eq_true hn, Bool.true_and]
  cases n <;> rfl

/-- The lane of a fault, 255 for none. -/
def faultLane : Option LaneId → Nat
  | none => 255
  | some l => l.val

/-- The fields of the fault record. -/
def faultFields (s : State) : List (Nat × Nat) :=
  match s.reports.fault with
  | none => [(1, 0), (1, 255), (58, 0)]
  | some e =>
    [(1, e.cause.code), (1, faultLane e.lane), (4, e.offset), (4, e.stamp.toNat), (2, e.further),
      (48, 0)]

theorem faultContents_eq (s : State) : faultContents s = layout (faultFields s) := by
  unfold faultContents faultFields
  cases s.reports.fault with
  | none => rfl
  | some e =>
    simp only [layout, leBytes_one, leBytes_reserved, List.append_assoc, List.cons_append, List.nil_append, List.append_nil]
    cases e.lane <;> rfl

theorem faultShows_of_holds {s : State} {bs : List Byte} (h : HoldsFrom bs 2 (faultFields s)) : FaultShows s bs := by
  unfold FaultShows
  unfold faultFields at h
  cases hf : s.reports.fault with
  | none =>
    rw [hf] at h
    obtain ⟨hcause, hlane, hres, -⟩ := h
    exact ⟨hcause, hlane, hres⟩
  | some e =>
    rw [hf] at h
    obtain ⟨hcause, hlane, hoffset, hstamp, hfurther, hres, -⟩ := h
    exact ⟨hcause, hlane, hoffset, hstamp, hfurther, hres⟩

/-- The fields of a camera record. -/
def cameraFields (q : CapturePort) (p : PortId) : List (Nat × Nat) :=
  let c := q.camera
  [(1, p.val), (1, q.undefined.toNat), (1, q.state.code), (1, c.role.code), (1, abCode c.tip), (1, abCode c.side),
    (1, coverageCode c 0), (1, coverageCode c 1), (2, c.width), (2, c.height), (2, c.silence / 1000), (1, c.patchLimit),
    (1, c.interval), (2, 0), (4, q.health.good.toNat), (4, q.health.bad.toNat), (4, q.health.aborted.toNat),
    (4, q.health.mismatched.toNat), (4, q.health.patched.toNat), (4, q.health.disorder.toNat), (4, q.health.losses.toNat), (14, 0)]

theorem cameraContents_eq (s : State) (p : PortId) : cameraContents s p = layout (cameraFields s.ports[p] p) := by
  simp only [cameraContents, cameraFields, layout, leBytes_one, leBytes_reserved, flagByte_eq, List.append_assoc, List.cons_append,
    List.nil_append, List.append_nil]

theorem cameraShows_of_holds {s : State} {p : PortId} {bs : List Byte} (h : HoldsFrom bs 2 (cameraFields s.ports[p] p)) :
    CameraShows s p bs := by
  obtain ⟨hport, hundefined, hstate, hrole, htip, hside, hdoor1, hdoor2, hwidth, hheight, hsilence, hpatches, hinterval, hres, hgood,
    hbad, haborted, hmismatched, hpatched, hdisorder, hlosses, hend, -⟩ := h
  have hcovered : ∀ i, coverageCode s.ports[p].camera i = match s.ports[p].camera.coverage[i]? with
      | none => 0
      | some d => d.val + 1 := by
    intro i
    unfold coverageCode
    cases s.ports[p].camera.coverage[i]? <;> rfl
  rw [hcovered 0] at hdoor1
  rw [hcovered 1] at hdoor2
  exact ⟨hport, hundefined, hstate, hrole, htip, hside, hdoor1, hdoor2, hwidth, hheight, hsilence, hpatches, hinterval, hres, hgood,
    hbad, haborted, hmismatched, hpatched, hdisorder, hlosses, hend⟩

/-- The learning fields of a soil record. -/
def learningFields : Option Learning → List (Nat × Nat)
  | none => [(3, 0)]
  | some r => [(1, 1), (1, r.target), (1, r.taken)]

/-- The fields of a soil record. -/
def soilFields (m : Soil) : List (Nat × Nat) :=
  [(1, m.state.code), (1, match m.shownScore with | some n => n | none => 255), (1, m.suspended.toNat + 2 * m.abandoned.toNat)] ++
  learningFields m.learning ++ [(6, mapNat m.blocked), (6, mapNat m.informative), (4, m.skips.toNat), (38, 0)]

theorem soilContents_eq (s : State) (p : PortId) : soilContents s p = layout (soilFields s.soil[p]) := by
  unfold soilContents soilFields
  dsimp only
  rw [layout_append, layout_append]
  cases s.soil[p].shownScore <;> cases s.soil[p].learning <;>
    simp only [layout, learningFields, leBytes_one, leBytes_reserved, List.append_assoc, List.cons_append,
      List.nil_append, List.append_nil]
  all_goals rfl

theorem shownScore_eq (m : Soil) :
    (match m.shownScore with | some n => n | none => 255) =
      if m.state = .unlearned ∨ m.state = .learning then 255 else m.score := by
  unfold Soil.shownScore
  cases m.state <;> rfl

theorem soilShows_of_holds {s : State} {p : PortId} {bs : List Byte} (h : HoldsFrom bs 2 (soilFields s.soil[p])) :
    SoilShows s p bs := by
  unfold SoilShows
  unfold soilFields at h
  rw [shownScore_eq] at h
  dsimp only
  cases hl : s.soil[p].learning with
  | none =>
    rw [hl] at h
    obtain ⟨hstate, hscore, hflags, hlearning, hblocked, hinformative, hskips, hres, -⟩ := h
    exact ⟨hstate, hscore, hflags, hlearning, testBit_of_holds hblocked, testBit_of_holds hinformative, hskips, hres⟩
  | some g =>
    rw [hl] at h
    obtain ⟨hstate, hscore, hflags, hone, htarget, htaken, hblocked, hinformative, hskips, hres, -⟩ := h
    exact ⟨hstate, hscore, hflags, ⟨hone, htarget, htaken⟩, testBit_of_holds hblocked,
      testBit_of_holds hinformative, hskips, hres⟩

/-- The last view of a door record. -/
def viewFields : Option (DisplayId × Nat) → List (Nat × Nat)
  | none => [(2, 0)]
  | some v => [(1, v.1.val), (1, v.2)]

/-- A stamp in a door record, 0 while absent. -/
def stampNumber : Option Stamp → Nat
  | none => 0
  | some t => t.toNat

/-- The fields of a door record. -/
def doorFields (r : Door) (d : DoorId) : List (Nat × Nat) :=
  [(1, d.val + 1), (1, if d.val < 4 then 1 else 2), (1, r.level.toNat), (1, r.state.code), (1, r.isolated.toNat),
    (1, r.opened.isSome.toNat + 2 * r.state.viewingSince.isSome.toNat + 4 * r.lastView.isSome.toNat),
    (4, stampNumber r.opened), (4, stampNumber r.state.viewingSince), (2, r.lapses)] ++
  viewFields r.lastView ++ [(2, r.dwell / 1000), (8, 0)]

theorem stampBytes_eq (t : Option Stamp) : stampBytes t = leBytes 4 (stampNumber t) := by
  cases t with
  | none => exact (leBytes_reserved 4).symm
  | some t => rfl

theorem abCode_doorSide (d : DoorId) : abCode (some (doorSide d)) = if d.val < 4 then 1 else 2 := by
  unfold doorSide
  split <;> rfl

theorem doorContents_eq (s : State) (d : DoorId) : doorContents s d = layout (doorFields s.doors[d] d) := by
  unfold doorContents doorFields
  dsimp only
  rw [layout_append, layout_append, abCode_doorSide]
  cases s.doors[d].lastView <;>
    simp only [layout, viewFields, leBytes_one, leBytes_reserved, flagByte_eq, stampBytes_eq, List.append_assoc, List.cons_append,
      List.nil_append, List.append_nil]

theorem doorShows_of_holds {s : State} {d : DoorId} {bs : List Byte} (h : HoldsFrom bs 2 (doorFields s.doors[d] d)) :
    DoorShows s d bs := by
  have hviewed : s.doors[d].state.viewingSince = match s.doors[d].state with
      | .viewing since => some since
      | .assured since => some since
      | _ => none := by cases s.doors[d].state <;> rfl
  unfold DoorShows
  unfold doorFields at h
  rw [hviewed] at h
  dsimp only
  cases hv : s.doors[d].lastView with
  | none =>
    rw [hv] at h
    obtain ⟨hdoor, hside, hlevel, hstate, hisolated, hflags, hopened, hviewing, hlapses, hview, hdwell, hres, -⟩ := h
    exact ⟨hdoor, hside, hlevel, hstate, hisolated, hflags, hopened, hviewing, hlapses, hview, hdwell, hres⟩
  | some v =>
    rw [hv] at h
    obtain ⟨hdoor, hside, hlevel, hstate, hisolated, hflags, hopened, hviewing, hlapses, hdisplay, htile, hdwell, hres, -⟩ := h
    exact ⟨hdoor, hside, hlevel, hstate, hisolated, hflags, hopened, hviewing, hlapses, ⟨hdisplay, htile⟩, hdwell, hres⟩

/-! ## Runs of entries -/

/-- An entry of a run stands behind the entries before it. -/
theorem flatMap_split {α : Type} (l : List α) (f : α → List Byte) (n : Nat) (hf : ∀ a, (f a).length = n) {i : Nat}
    (hi : i < l.length) :
    ∃ before after, before.length = n * i ∧ l.flatMap f = before ++ f l[i] ++ after := by
  refine ⟨(l.take i).flatMap f, (l.drop (i + 1)).flatMap f, ?_, ?_⟩
  · rw [length_flatMap_const _ f n hf, List.length_take_of_le hi.le]
  · conv_lhs => rw [← List.take_append_drop i l, List.drop_eq_getElem_cons hi]
    rw [List.flatMap_append, List.flatMap_cons, List.append_assoc]

/-- A record of fields, a run of entries and fields again: each stands at its place. -/
theorem holdsFrom_run {α : Type} (edition : Nat) (fs gs : List (Nat × Nat)) (l : List α) (f : α → List Byte) {n k : Nat}
    (hk : (fs.map Prod.fst).sum + 2 = k) (hf : ∀ x, (f x).length = n) :
    let bs := leBytes 2 edition ++ (layout fs ++ l.flatMap f ++ layout gs) ++ leBytes 2 edition
    HoldsFrom bs 2 fs ∧
    (∀ (i : Nat) (hi : i < l.length) (es : List (Nat × Nat)), f l[i] = layout es → HoldsFrom bs (k + n * i) es) ∧
    HoldsFrom bs (k + n * l.length) gs := by
  have hlen : (leBytes 2 edition ++ layout fs).length = k := by
    rw [List.length_append, length_leBytes, length_layout, ← hk, Nat.add_comm]
  have hrun := length_flatMap_const l f n hf
  refine ⟨?_, fun i hi es hes => ?_, ?_⟩
  · have h := holdsFrom_layout (leBytes 2 edition) (l.flatMap f ++ layout gs ++ leBytes 2 edition) fs
    rw [length_leBytes] at h
    simpa only [List.append_assoc] using h
  · obtain ⟨before, after, hbefore, hsplit⟩ := flatMap_split l f n hf hi
    have h := holdsFrom_layout (leBytes 2 edition ++ layout fs ++ before) (after ++ layout gs ++ leBytes 2 edition) es
    rw [List.length_append, hlen, hbefore] at h
    rw [hsplit, hes]
    simpa only [List.append_assoc] using h
  · have h := holdsFrom_layout (leBytes 2 edition ++ layout fs ++ l.flatMap f) (leBytes 2 edition) gs
    rw [List.length_append, hlen, hrun] at h
    simpa only [List.append_assoc] using h

/-- The fields of a tile entry. -/
def tileFields : Option FrameTile → List (Nat × Nat)
  | none => [(1, 0), (1, 255), (4, 0)]
  | some t =>
    let marks := (decide (t.fill = .striped)).toNat + 2 * (decide (t.fill = .black)).toNat + 4 * t.stale.toNat
      + 8 * (decide (t.badge = .blinded)).toNat + 16 * (decide (t.badge = .smeared)).toNat
    match t.shown with
    | none => [(1, 1 + 2 * t.drawn.toNat), (1, 255), (1, marks), (1, 0), (2, 0)]
    | some v => [(1, 1 + 2 * t.drawn.toNat + 4 * v.alternate.toNat + 8), (1, v.port.val), (1, marks + 32 * v.alternate.toNat), (1, 0),
        (2, min (v.age / 1000) 65535)]

theorem tileEntry_eq (o : Option FrameTile) : tileEntry o = layout (tileFields o) := by
  unfold tileEntry tileFields
  cases o with
  | none => rfl
  | some t =>
    dsimp only
    cases t.shown with
    | none =>
      simp only [layout, leBytes_one, leBytes_reserved, List.cons_append, List.nil_append, List.append_nil]
      rfl
    | some v =>
      simp only [layout, leBytes_one, List.cons_append, List.nil_append, List.append_nil]
      rfl

theorem tileShows_of_holds {bs : List Byte} {off : Nat} {o : Option FrameTile} (h : HoldsFrom bs off (tileFields o)) :
    TileShows bs off o := by
  cases o with
  | none =>
    obtain ⟨hpresent, hport, hres, -⟩ := h
    exact ⟨hpresent, hport, hres⟩
  | some t =>
    unfold TileShows
    unfold tileFields at h
    dsimp only at h ⊢
    cases hs : t.shown with
    | none =>
      rw [hs] at h
      obtain ⟨hflags, hport, hmarks, hres, hage, -⟩ := h
      exact ⟨hflags, hmarks, hres, hport, hage⟩
    | some v =>
      rw [hs] at h
      obtain ⟨hflags, hport, hmarks, hres, hage, -⟩ := h
      exact ⟨hflags, hmarks, hres, hport, hage⟩

/-- The fields of a display record before its tile entries. -/
def displayFields (r : Display) : List (Nat × Nat) :=
  [(1, if r.configured then (if r.live then 2 else 1) else 0), (1, r.effective.val), (1, r.startOverride.code), (3, 0),
    (4, r.frameCount.toNat)]

theorem displayContents_eq (s : State) (d : DisplayId) :
    displayContents s d =
      layout (displayFields s.displays[d]) ++ ((List.range 8).flatMap fun i => tileEntry s.displays[d].tiles[i]?) ++
        layout [(2, 0)] := by
  simp only [displayContents, displayFields, layout, leBytes_one, leBytes_reserved, List.append_assoc, List.cons_append,
    List.nil_append, List.append_nil]

theorem displayShows_record (s : State) (d : DisplayId) (edition : Nat) :
    DisplayShows s d (leBytes 2 edition ++ displayContents s d ++ leBytes 2 edition) := by
  obtain ⟨hhead, htiles, htail⟩ := holdsFrom_run edition (displayFields s.displays[d]) [(2, 0)] (List.range 8)
    (fun i => tileEntry s.displays[d].tiles[i]?) (k := 12) rfl fun _ => length_tileEntry _
  rw [displayContents_eq]
  obtain ⟨hlive, hlayout, hoverride, hzero, hcount, -⟩ := hhead
  obtain ⟨hres, -⟩ := htail
  have hshown : (if s.displays[d].configured then (if s.displays[d].live then 2 else 1) else 0) =
      if s.displays[d].configured = false then 0 else if s.displays[d].live then 2 else 1 := by
    cases s.displays[d].configured <;> rfl
  rw [hshown] at hlive
  refine ⟨hlive, hlayout, hoverride, hzero, hcount, fun i hi =>
    tileShows_of_holds (htiles i (by rwa [List.length_range]) _ ?_), hres⟩
  rw [List.getElem_range, tileEntry_eq]

theorem referenceContents_eq (s : State) (p : PortId) :
    referenceContents s p =
      layout [(1, p.val), (1, 0)] ++ (s.soil[p].reference.toList.flatMap fun r => leBytes 2 r) ++ layout [(26, 0)] := by
  simp only [referenceContents, layout, leBytes_one, leBytes_reserved, List.append_assoc, List.cons_append, List.nil_append,
    List.append_nil]
  rfl

theorem referenceShows_record (s : State) (p : PortId) (edition : Nat) :
    ReferenceShows s p (leBytes 2 edition ++ referenceContents s p ++ leBytes 2 edition) := by
  have hlen : s.soil[p].reference.toList.length = 48 := Vector.length_toList
  obtain ⟨⟨hport, hzero, -⟩, hcells, hres, -⟩ := holdsFrom_run edition [(1, p.val), (1, 0)] [(26, 0)] s.soil[p].reference.toList
    (fun r => leBytes 2 r) (k := 4) rfl fun _ => length_leBytes 2 _
  rw [hlen] at hres
  rw [referenceContents_eq]
  refine ⟨hport, hzero, fun i => (hcells i.val (by rw [hlen]; exact i.isLt) [(2, s.soil[p].reference[i])] ?_).1, hres⟩
  simp [layout]

/-! ## The lane record: one field of 224 bits -/

/-- The fields of a lane record. -/
def laneFields (r : Lane) : List (Nat × Nat) :=
  let (position, head, block) := r.state.shown
  [(2, r.state.code), (3, r.queue.length), (9, position), (32, r.done.toNat), (32, r.failed.toNat), (32, r.skipped.toNat),
    (19, head), (19, block), (19, shownHead r.queue 0), (19, shownHead r.queue 1), (19, shownHead r.queue 2), (19, shownHead r.queue 3)]

/-- Twelve fields of bits as one number. -/
theorem pack_lane (v : Fin 12 → Nat) :
    pack [(2, v 0), (3, v 1), (9, v 2), (32, v 3), (32, v 4), (32, v 5), (19, v 6), (19, v 7), (19, v 8), (19, v 9), (19, v 10),
        (19, v 11)] =
      v 0 + 2 ^ 2 * v 1 + 2 ^ 5 * v 2 + 2 ^ 14 * v 3 + 2 ^ 46 * v 4 + 2 ^ 78 * v 5 + 2 ^ 110 * v 6 + 2 ^ 129 * v 7 + 2 ^ 148 * v 8 +
        2 ^ 167 * v 9 + 2 ^ 186 * v 10 + 2 ^ 205 * v 11 := by
  simp only [pack]
  ring

theorem laneContents_eq (r : Lane) : r.contents = leBytes 28 (pack (laneFields r)) :=
  congrArg (leBytes 28) (pack_lane ![r.state.code, r.queue.length, r.state.shown.1, r.done.toNat, r.failed.toNat, r.skipped.toNat,
    r.state.shown.2.1, r.state.shown.2.2, shownHead r.queue 0, shownHead r.queue 1, shownHead r.queue 2, shownHead r.queue 3]).symm

theorem shownOffset_lt (w : Word) : shownOffset w < 2 ^ 19 := by
  unfold shownOffset
  split
  · rename_i h
    omega
  · decide

theorem shownHead_lt (q : List Word) (i : Nat) : shownHead q i < 2 ^ 19 := by
  unfold shownHead
  split
  · exact shownOffset_lt _
  · decide

theorem LaneState.code_lt (v : LaneState) : v.code < 2 ^ 2 := by cases v <;> simp [LaneState.code]

theorem LaneState.shown_position (v : LaneState) :
    v.shown.1 = match v with
      | .running c => c.position
      | _ => 0 := by cases v <;> rfl

theorem LaneState.shown_head (v : LaneState) :
    v.shown.2.1 = match v with
      | .running c => offsetShown c.head
      | _ => 0 := by cases v <;> rfl

theorem LaneState.shown_head_lt (v : LaneState) : v.shown.2.1 < 2 ^ 19 := by
  cases v with
  | running c => exact shownOffset_lt c.head
  | idle => decide
  | faulted => decide

theorem LaneState.shown_block_lt (v : LaneState) : v.shown.2.2 < 2 ^ 19 := by
  cases v with
  | running c =>
    cases hc : c.phase with
    | taken b =>
      simp only [LaneState.shown, hc]
      exact shownOffset_lt c.block
    | reach => simp [LaneState.shown, hc]
    | skip => simp [LaneState.shown, hc]
  | idle => decide
  | faulted => decide

/-- The block in hand, as the lane record shows it. -/
theorem shown_inHand (s : State) (l : LaneId) :
    s.lanes[l].state.shown.2.2 = match inHand s l with
      | some (c, _) => offsetShown c.block
      | none => 0 := by
  unfold inHand
  cases s.lanes[l].state with
  | running c =>
    unfold LaneState.shown
    dsimp only
    cases c.phase <;> rfl
  | idle => rfl
  | faulted => rfl

theorem shownHead_eq (q : List Word) (i : Nat) :
    shownHead q i = match q[i]? with
      | some w => offsetShown w
      | none => 0 := by
  unfold shownHead
  cases q[i]? <;> rfl

/-- Each field of a lane record fits its width, the queue and the chain position within their bounds. -/
theorem laneFields_lt {r : Lane} (hq : r.queue.length ≤ 4) (hp : r.state.shown.1 ≤ 257) :
    ∀ f ∈ laneFields r, f.2 < 2 ^ f.1 := by
  have hqueue : r.queue.length < 2 ^ 3 := by omega
  have hposition : r.state.shown.1 < 2 ^ 9 := by omega
  simp only [laneFields, List.forall_mem_cons, List.not_mem_nil, false_imp_iff, implies_true, and_true]
  exact ⟨LaneState.code_lt _, hqueue, hposition, BitVec.isLt _, BitVec.isLt _, BitVec.isLt _, LaneState.shown_head_lt _,
    LaneState.shown_block_lt _, shownHead_lt _ _, shownHead_lt _ _, shownHead_lt _ _, shownHead_lt _ _⟩

theorem laneFields_width (r : Lane) : ((laneFields r).map Prod.fst).sum = 224 := by
  simp only [laneFields, List.map_cons, List.map_nil, List.sum_cons, List.sum_nil, Nat.reduceAdd]

theorem laneShows_of_holds {s : State} {l : LaneId} {bs : List Byte} (h : Holds bs 2 28 (pack (laneFields s.lanes[l]))) :
    LaneShows s l bs := by
  intro hq hp
  have hlt := laneFields_lt hq ((LaneState.shown_position _).trans_le hp)
  have hnumber : number bs 2 28 / 2 ^ 0 = pack (laneFields s.lanes[l]) := by
    rw [h, Nat.pow_zero, Nat.div_one, show (256 : Nat) ^ 28 = 2 ^ 224 by norm_num]
    refine Nat.mod_eq_of_lt ((pack_lt hlt).trans_eq ?_)
    rw [laneFields_width]
  have hbits := bitsFrom_of_div hlt hnumber
  simp only [laneFields, BitsFrom, Nat.zero_add, Nat.reduceAdd] at hbits
  obtain ⟨hstate, hqueue, hpos, hdone, hfailed, hskipped, hhead, hblock, h0, h1, h2, h3, -⟩ := hbits
  refine ⟨hstate, hqueue, hpos.trans (LaneState.shown_position _), hdone, hfailed, hskipped, hhead.trans (LaneState.shown_head _),
    hblock.trans (shown_inHand s l), fun i hi => ?_⟩
  refine Eq.trans ?_ (shownHead_eq s.lanes[l].queue i)
  interval_cases i <;> simp only [Nat.reduceMul, Nat.reduceAdd]
  · exact h0
  · exact h1
  · exact h2
  · exact h3

/-! ## The records of a state -/

/-- The bytes of a record between its editions show its fields. -/
theorem recordShows_contents (s : State) (r : Record) (e : Nat) :
    let bs := leBytes 2 e ++ recordContents s r ++ leBytes 2 e
    match r with
    | .part => PartShows s bs
    | .fault => FaultShows s bs
    | .camera p => CameraShows s p bs
    | .soil p => SoilShows s p bs
    | .door d => DoorShows s d bs
    | .display d => DisplayShows s d bs
    | .lane l => LaneShows s l bs
    | .reference p => ReferenceShows s p bs := by
  cases r with
  | part => exact partShows_of_holds (holdsFrom_record e (partContents_eq s))
  | fault => exact faultShows_of_holds (holdsFrom_record e (faultContents_eq s))
  | camera p => exact cameraShows_of_holds (holdsFrom_record e (cameraContents_eq s p))
  | soil p => exact soilShows_of_holds (holdsFrom_record e (soilContents_eq s p))
  | door d => exact doorShows_of_holds (holdsFrom_record e (doorContents_eq s d))
  | display d => exact displayShows_record s d e
  | lane l =>
    refine laneShows_of_holds ?_
    show Holds (leBytes 2 e ++ (s.lanes[l]).contents ++ leBytes 2 e) 2 28 _
    rw [laneContents_eq]
    exact holds_leBytes (leBytes 2 e) (leBytes 2 e) _ (length_leBytes 2 e)
  | reference p => exact referenceShows_record s p e

theorem recordShows_image (s : State) (r : Record) :
    RecordShows s r (leBytes 2 s.reports.editions[r.index].toNat ++ recordContents s r ++
      leBytes 2 s.reports.editions[r.index].toNat) := by
  have hl := length_recordContents s r
  have hsize : r.size = recordLength r := by cases r <;> rfl
  have hmod : s.reports.editions[r.index].toNat % 256 ^ 2 = s.reports.editions[r.index].toNat :=
    Nat.mod_eq_of_lt s.reports.editions[r.index].isLt
  unfold RecordShows
  generalize s.reports.editions[r.index].toNat = e at hmod ⊢
  have hhead := holds_leBytes [] (recordContents s r ++ leBytes 2 e) (off := 0) (n := 2) e rfl
  have htail := holds_leBytes (leBytes 2 e ++ recordContents s r) [] (off := recordLength r - 2) (n := 2) e
    (by rw [List.length_append, length_leBytes]; omega)
  rw [Holds, List.nil_append, ← List.append_assoc, hmod] at hhead
  rw [Holds, List.append_nil, hmod] at htail
  exact ⟨hhead, htail, recordShows_contents s r e⟩

/-- A record that stands shows the state, every field at its place (R173, R187). -/
theorem recordShows_of_stands {s : State} {r : Record} (h : RecordStands s r) :
    RecordShows s r (s.bus.mem.readBytes (areaBase s + recordPlace r) (recordLength r)) := by
  have hplace : r.offset = recordPlace r := by cases r <;> rfl
  have hsize : r.size = recordLength r := by cases r <;> rfl
  rw [← hplace, ← hsize, h]
  exact recordShows_image s r

end Sys2Proof.Machine
end

section
/-! AREA_SIZE: the area becomes valid with a full report write (R158, R179). -/

namespace Sys2Proof.Machine

open Safety

-- The proofs are elaborated in order: side by side, each would hold a thread of its own, and its memory.
set_option Elab.async false

/-- A state whose area has become valid, before the full report write (R158). -/
def areaSet (size : BitVec 9) (s : State) : State := { s with window := { s.window with areaSize := size, areaValid := true } }

/-- The base of the full report write: no suspension, no reset announcement (R179). -/
def announced (s : State) : State := { s with reports := { s.reports with suspended := false, announce := false } }

theorem mem_allRecords (r : Record) : r ∈ Record.part :: recordsBeforePart := by
  rw [List.mem_cons, mem_recordsBeforePart]
  exact em _

theorem Raised.markAll {m u : State} {ns : List Notice} {rs : List Record} (h : Raised m u ns rs) :
    Raised m (markAll u) ns (.part :: recordsBeforePart) := by
  obtain ⟨hwindow, hbus, hreports, -⟩ := h
  refine ⟨hwindow, hbus, ?_, fun r => iff_of_true (mem_allRecords r) (.inl (mem_allRecords r))⟩
  show { u.reports with due := .part :: recordsBeforePart } = _
  rw [hreports]
  rfl

theorem fullReport_eq (s : State) :
    fullReport false s = markAll (if s.reports.announce then raise .reset (announced s)
      else s.setReports { s.reports with suspended := false }) := by
  unfold fullReport
  dsimp only
  rw [Bool.or_false]
  rfl

/-- The full report write of an area that becomes valid (R179). -/
theorem Raised.fullReport {s : State} (h : Calm s) :
    Raised (announced s) (fullReport false s) (if s.reports.announce then [.reset] else []) (.part :: recordsBeforePart) := by
  have hstart : Raised (announced s) (announced s) [] [] := Raised.start h.1
  rw [fullReport_eq]
  cases ha : s.reports.announce with
  | true => exact (hstart.raise .reset).markAll
  | false =>
    have hsame : announced s = s.setReports { s.reports with suspended := false } := by
      rw [announced, ← ha]
      rfl
    rw [if_neg Bool.false_ne_true, if_neg Bool.false_ne_true, ← hsame]
    exact hstart.markAll

/-- While reports flow, what an event names is written (R172). -/
theorem mem_writtenRecords {s : State} {ns : List Notice} {rs : List Record} {r : Record} (hf : reportsFlow s = true) (hr : r ∈ rs) :
    r ∈ writtenRecords s ns rs := by
  rw [writtenRecords, if_pos hf]
  split
  · exact hr
  · exact List.mem_cons_of_mem _ hr

theorem laneBusy_of_rest {s : State} {l : LaneId} (h : s.lanes[l].state = .idle ∧ s.lanes[l].queue = []) : laneBusy s l = false := by
  obtain ⟨hstate, hqueue⟩ := h
  unfold laneBusy
  rw [hstate, hqueue]
  rfl

theorem exec_areaSizeWrite {s : State} {v : Word} (hrest : ∀ l : LaneId, s.lanes[l].state = .idle ∧ s.lanes[l].queue = [])
    (hsize : 1 ≤ (v.truncate 9 : BitVec 9).toNat ∧ (v.truncate 9 : BitVec 9).toNat ≤ 256) :
    exec (.areaSizeWrite v) s = .next (finishEvent (fullReport false (areaSet (v.truncate 9) s))) := by
  have huse : areaInUse s = false := by
    rw [areaInUse, laneBusy_of_rest (hrest 0), laneBusy_of_rest (hrest 1)]
    rfl
  show Host.Outcome.next (writeAreaSize v s) = _
  unfold writeAreaSize
  rw [huse]
  exact congrArg Host.Outcome.next (if_pos hsize)

theorem finishEvent_fullReport (always : Bool) (s : State) :
    let t := finishEvent (fullReport always s)
    t = { s with reports := t.reports, bus := t.bus } :=
  let others (v x : State) : State := { x with reports := v.reports, bus := v.bus }
  finishEvent_others others (fun _ => rfl) (fun _ _ _ _ => rfl) fun v => fullReport_unseen always s (others v) fun _ _ => rfl

/-! ## The constants of the report region and of the notice word (sections 10.1, 12.1) -/

theorem notice_place (n : Notice) : n.bit = noticePlace n ∧ n.mask.toNat = 2 ^ noticePlace n := by
  cases n <;> decide

theorem record_place (r : Record) : r.offset = recordPlace r ∧ r.size = recordLength r := by
  cases r <;> exact ⟨rfl, rfl⟩

theorem reportsFlow_iff (s : State) : reportsFlow s = true ↔ s.window.areaValid = true ∧ s.reports.suspended = false := by
  rw [reportsFlow, Bool.and_eq_true, Bool.not_eq_true']

theorem reject_eq (s : State) : reject s = !reportsFlow s := by
  rw [reject, reportsFlow, Bool.not_and, Bool.not_not]

end Sys2Proof.Machine

namespace Sys2Proof.Proofs

open Sys2Proof Sys2Proof.Machine Sys2Proof.Safety

-- The proofs are elaborated in order: side by side, each would hold a thread of its own, and its memory.
set_option Elab.async false

/-- A write of AREA_SIZE validates the area (R158, R179). -/
theorem areaSize_validates {s : State} {v : Word} (hrest : ∀ l : LaneId, s.lanes[l].state = .idle ∧ s.lanes[l].queue = [])
    (h1 : 1 ≤ (v.truncate 9 : BitVec 9).toNat) (h2 : (v.truncate 9 : BitVec 9).toNat ≤ 256) (hcalm : Calm s) :
    ∃ t, exec (.areaSizeWrite v) s = .next t ∧ t = { areaSet (v.truncate 9) s with reports := t.reports, bus := t.bus } ∧
      Reported (announced (areaSet (v.truncate 9) s)) t (if s.reports.announce then [.reset] else []) (.part :: recordsBeforePart) ∧
      (∀ r : Record, RecordStands t r) ∧ reject t = false := by
  have hcalm' : Calm (areaSet (v.truncate 9) s) := hcalm
  have hrep := (Raised.fullReport hcalm').finish hcalm.2
  have hother := finishEvent_fullReport false (areaSet (v.truncate 9) s)
  refine ⟨_, exec_areaSizeWrite hrest ⟨h1, h2⟩, hother, hrep, fun r => ?_, ?_⟩
  · obtain ⟨-, -, -, -, -, -, -, -, -, -, hstands, -⟩ := hrep
    exact hstands r (mem_writtenRecords rfl (mem_allRecords r))
  · obtain ⟨-, -, hsuspended, -⟩ := hrep
    have hwindow : (finishEvent (fullReport false (areaSet (v.truncate 9) s))).window = (areaSet (v.truncate 9) s).window := by simp
    rw [reject, hwindow, hsuspended]
    rfl

/-- Settles O34: the full report write, and the fields of each record by its kind. -/
theorem areaSizeValidatesArea : Obligations.AreaSizeValidatesArea := by
  unfold Obligations.AreaSizeValidatesArea
  refine ⟨fun s v hrest h1 h2 hcalm => areaSize_validates hrest h1 h2 hcalm, fun s r h => recordShows_of_stands h,
    fun q r => ⟨(record_place r).1, (record_place r).2, Record.index_inj, mem_allRecords r⟩,
    fun s => ⟨rfl, rfl, reportsFlow_iff s, reject_eq s⟩, fun w n => ⟨(notice_place n).1, (notice_place n).2, ?_⟩,
    fun n v => ⟨length_leBytes n v, number_leBytes n v⟩⟩
  rw [hasNotice, (notice_place n).1]

end Sys2Proof.Proofs
end

section
/-! The ranges of frame sizes and soil values as one invariant of the part (section 1.2 of chapter 1, R23, R43, R46, R53, R55), and
how each operation of the model keeps it. -/

namespace Sys2Proof.Machine

open Safety

-- The proofs are elaborated in order: side by side, each would hold a thread of its own, and its memory.
set_option Elab.async false

/-! ## One port, one display, one camera -/

/-- The camera record's frame size is one R3 allows. -/
def CapturePort.Fits (q : CapturePort) : Prop := FrameSize q.camera.width q.camera.height

/-- Every slot of the port has a frame size R3 allows. -/
def StorePort.Fits (q : StorePort) : Prop := ∀ i : SlotId, FrameSize q.slots[i].width q.slots[i].height

/-- A frame that is being exported has a size R3 allows. -/
def Export.Fits (m : Export) : Prop := ∀ p ops i w h c t n, m = .moving p ops i w h c t n → FrameSize w h

/-- Every frame the tiles show has a size R3 allows. -/
def TilesInBounds (ts : List FrameTile) : Prop := ∀ t ∈ ts, ∀ v, t.shown = some v → FrameSize v.width v.height

/-- The score, the interval count and the counters of a camera in their ranges (R43, R53, R55). -/
def Soil.InRange (m : Soil) : Prop := m.score ≤ 100 ∧ m.intervalCount ≤ 254 ∧ ∀ i : Fin 48, m.counters[i] ≤ 63

/-- What holds of every element of a vector and of the one that replaces one of them holds of every element after. -/
theorem forall_getElem_set {α : Type} {n : Nat} {P : α → Prop} {v : Vector α n} (h : ∀ i : Fin n, P v[i]) (i : Fin n) {x : α}
    (hx : P x) (j : Fin n) : P (v.set i.val x i.isLt)[j] := by
  rw [getElem_set_fin]
  split
  · exact hx
  · exact h j

/-! ## The slots of a port -/

section Slots
variable {q : StorePort}

/-- An operation that leaves the size of every slot. -/
theorem StorePort.Fits.sameSizes {r : StorePort} (h : q.Fits)
    (hr : ∀ i : SlotId, r.slots[i].width = q.slots[i].width ∧ r.slots[i].height = q.slots[i].height) : r.Fits := by
  intro i
  rw [(hr i).1, (hr i).2]
  exact h i

theorem Slot.release_size (t : Slot) (g : Holder) : (t.release g).width = t.width ∧ (t.release g).height = t.height := by
  unfold Slot.release
  split
  · dsimp only
    split <;> exact ⟨rfl, rfl⟩
  · exact ⟨rfl, rfl⟩

theorem Slot.withdraw_size (t : Slot) : t.withdraw.width = t.width ∧ t.withdraw.height = t.height := by
  unfold Slot.withdraw
  split
  · exact ⟨rfl, rfl⟩
  · exact ⟨rfl, rfl⟩
  · split <;> exact ⟨rfl, rfl⟩

theorem StorePort.Fits.release (h : q.Fits) (g : Holder) : (q.release g).Fits :=
  h.sameSizes fun i => by rw [StorePort.release_slot]; exact Slot.release_size _ g

theorem StorePort.Fits.withdraw (h : q.Fits) : q.withdraw.Fits :=
  h.sameSizes fun i => by rw [StorePort.withdraw_slot]; exact Slot.withdraw_size _

/-- One slot takes a record of a size R3 allows. -/
theorem StorePort.Fits.set (h : q.Fits) (i : SlotId) {t : Slot} (ht : FrameSize t.width t.height) (order : List SlotId) :
    StorePort.Fits { slots := q.slots.set i t, order } :=
  forall_getElem_set (P := fun t : Slot => FrameSize t.width t.height) h i ht

theorem StorePort.Fits.drop (h : q.Fits) (i : SlotId) : (q.drop i).Fits := h.set i (by exact h i) _

theorem StorePort.Fits.complete (h : q.Fits) (i : SlotId) : (q.complete i).Fits := h.set i (by exact h i) _

theorem StorePort.Fits.lock (h : q.Fits) (i : SlotId) (g : Holder) : (q.lock i g).Fits := h.set i (by exact h i) _

theorem StorePort.Fits.fill (h : q.Fits) (i : SlotId) (count : Half) (stamp : Stamp) {w k : Nat} (hs : FrameSize w k) :
    (q.fill i count stamp w k).Fits := h.set i hs _

end Slots

/-! ## The values of a camera -/

section Soil
variable {m : Soil}

theorem Soil.blockedCount_le (m : Soil) : m.blockedCount ≤ m.informativeCount :=
  List.countP_mono_left fun _ _ hi => (Bool.and_eq_true_iff.mp hi).1

/-- A score is a share in percent of the informative cells (R55). -/
theorem Soil.InRange.rate (h : m.InRange) : (rate m).InRange := by
  obtain ⟨-, hi, hc⟩ := h
  refine ⟨?_, hi, hc⟩
  show 100 * m.blockedCount / m.informativeCount ≤ 100
  exact Nat.div_le_of_le_mul (by have := m.blockedCount_le; omega)

theorem nextCounter_le (h : m.InRange) (e : EvalEntry) (i : Fin 48) : nextCounter m e i ≤ 63 := by
  obtain ⟨-, -, hc⟩ := h
  unfold nextCounter
  split
  · split
    · exact Nat.min_le_right _ _
    · exact (Nat.sub_le _ _).trans (hc i)
  · exact hc i

theorem Soil.InRange.applyFrame (h : m.InRange) (e : EvalEntry) : (applyFrame m e).InRange := by
  have hcounter := nextCounter_le h e
  unfold Machine.applyFrame
  split
  · obtain ⟨hs, hi, -⟩ := h
    refine ⟨hs, hi, fun i => ?_⟩
    rw [getElem_ofFn_fin]
    exact hcounter i
  · exact h

/-- A camera whose score and counters start afresh (R62, R65, R66). -/
theorem Soil.InRange.fresh {m' : Soil} (h : m.InRange) (hs : m'.score = 0) (hi : m'.intervalCount = m.intervalCount)
    (hc : m'.counters = Vector.replicate 48 0) : m'.InRange := by
  refine ⟨by omega, by rw [hi]; exact h.2.1, fun i => ?_⟩
  rw [hc, getElem_replicate_fin]
  exact Nat.zero_le _

theorem Soil.InRange.adopt (h : m.InRange) (reference : Vector Nat 48) : (m.adopt reference).InRange := h.fresh rfl rfl rfl

/-- The interval count takes another value in its range. -/
theorem Soil.InRange.interval (h : m.InRange) {n : Nat} (hn : n ≤ 254) : Soil.InRange { m with intervalCount := n } :=
  ⟨h.1, hn, h.2.2⟩

end Soil

/-! ## The invariant of the part -/

/-- Frame sizes and soil values are in their ranges, block by block. -/
structure Ranged (s : State) : Prop where
  cameras : ∀ p : PortId, s.ports[p].Fits
  slots : ∀ p : PortId, s.store[p].Fits
  exported : s.mover.Fits
  shown : ∀ d : DisplayId, TilesInBounds s.displays[d].tiles
  soil : ∀ p : PortId, s.soil[p].InRange
  queue : s.evalQueue.length ≤ 4

theorem ranged_iff (s : State) : Ranged s ↔ FramesInBounds s ∧ SoilInRange s := by
  constructor
  · rintro ⟨hc, hs, he, hd, ho, hq⟩
    exact ⟨⟨hc, hs, he, hd⟩, hq, ho⟩
  · rintro ⟨⟨hc, hs, he, hd⟩, hq, ho⟩
    exact ⟨hc, hs, he, hd, ho, hq⟩

section Frame
variable {s t : State}

/-- The invariant reads six blocks of the part, and is kept where each of them keeps its own part of it. -/
theorem Ranged.of (h : Ranged s)
    (cameras : (∀ p : PortId, s.ports[p].Fits) → ∀ p : PortId, t.ports[p].Fits := by simp)
    (slots : (∀ p : PortId, s.store[p].Fits) → ∀ p : PortId, t.store[p].Fits := by simp)
    (exported : s.mover.Fits → t.mover.Fits := by simp)
    (shown : (∀ d : DisplayId, TilesInBounds s.displays[d].tiles) → ∀ d : DisplayId, TilesInBounds t.displays[d].tiles := by simp)
    (soil : (∀ p : PortId, s.soil[p].InRange) → ∀ p : PortId, t.soil[p].InRange := by simp)
    (queue : s.evalQueue.length ≤ 4 → t.evalQueue.length ≤ 4 := by simp) : Ranged t :=
  ⟨cameras h.cameras, slots h.slots, exported h.exported, shown h.shown, soil h.soil, queue h.queue⟩

theorem Ranged.setPort (h : Ranged s) (p : PortId) {q : CapturePort} (hq : q.Fits) : Ranged (s.setPort p q) :=
  h.of (cameras := fun hc => forall_getElem_set hc p hq)

/-- A port changes, its camera record stands. -/
theorem Ranged.samePort (h : Ranged s) (p : PortId) {q : CapturePort} (hq : q.camera = s.ports[p].camera := by rfl) :
    Ranged (s.setPort p q) := by
  refine h.setPort p ?_
  unfold CapturePort.Fits
  rw [hq]
  exact h.cameras p

theorem Ranged.setStore (h : Ranged s) (p : PortId) {q : StorePort} (hq : q.Fits) : Ranged (s.setStore p q) :=
  h.of (slots := fun hs => forall_getElem_set hs p hq)

theorem Ranged.setSoil (h : Ranged s) (p : PortId) {m : Soil} (hm : m.InRange) : Ranged (s.setSoil p m) :=
  h.of (soil := fun ho => forall_getElem_set ho p hm)

/-- A camera's soil record changes, its score, interval count and counters stand. -/
theorem Ranged.sameSoil (h : Ranged s) (p : PortId) {m : Soil} (hs : m.score = s.soil[p].score := by rfl)
    (hi : m.intervalCount = s.soil[p].intervalCount := by rfl) (hc : m.counters = s.soil[p].counters := by rfl) :
    Ranged (s.setSoil p m) := by
  refine h.setSoil p ?_
  unfold Soil.InRange
  rw [hs, hi, hc]
  exact h.soil p

theorem Ranged.setPipe (h : Ranged s) (d : DisplayId) {r : Display} (hr : TilesInBounds r.tiles) : Ranged (s.setDisplay d r) :=
  h.of (shown := fun hd => forall_getElem_set (P := fun r : Display => TilesInBounds r.tiles) hd d hr)

/-- The tiles of every display stand. -/
theorem Ranged.sameTiles (h : Ranged s) (hd : ∀ d : DisplayId, t.displays[d].tiles = s.displays[d].tiles)
    (hp : t.ports = s.ports := by simp) (hs : t.store = s.store := by simp) (hm : t.mover = s.mover := by simp)
    (ho : t.soil = s.soil := by simp) (hq : t.evalQueue = s.evalQueue := by simp) : Ranged t := by
  refine h.of (by simp [hp]) (by simp [hs]) (by simp [hm]) (fun hx d => ?_) (by simp [ho]) (by simp [hq])
  rw [hd]; exact hx d

/-- The Export record takes another value. -/
theorem Ranged.setMover (h : Ranged s) {m : Export} (hm : m.Fits) : Ranged { s with mover := m } := h.of (exported := fun _ => hm)

/-- The evaluation queue takes another value. -/
theorem Ranged.setQueue (h : Ranged s) {q : List EvalEntry} (hq : q.length ≤ 4) : Ranged { s with evalQueue := q } :=
  h.of (queue := fun _ => hq)

end Frame

variable {s : State}

theorem Ranged.finish (h : Ranged s) : Ranged (finishEvent s) := h.of

theorem Ranged.mark (h : Ranged s) (r : Record) : Ranged (mark r s) := h.of

theorem Ranged.raise (h : Ranged s) (n : Notice) : Ranged (raise n s) := h.of

theorem Ranged.announce (h : Ranged s) (p : PortId) : Ranged (announceCamera p s) := h.of

theorem Ranged.updateSoil (h : Ranged s) (p : PortId) (always : Bool) {m : Soil} (hm : m.InRange) :
    Ranged (updateSoil p always m s) := by
  have h1 := (h.setSoil p hm).mark (.soil p)
  unfold Machine.updateSoil
  dsimp only
  split
  · exact h1.raise _
  · exact h1

/-! ## The Soil Monitor (chapter 3) -/

theorem Ranged.abandonLearning (h : Ranged s) (p : PortId) : Ranged (abandonLearning p s) := by
  unfold Machine.abandonLearning
  dsimp only
  split
  · exact h
  · exact h.updateSoil p true (by exact h.soil p)

theorem Ranged.learnSample (h : Ranged s) (e : EvalEntry) (r : Learning) : Ranged (learnSample e r s) := by
  unfold Machine.learnSample
  dsimp only
  split
  · exact (h.updateSoil e.port true ((h.soil e.port).adopt _)).mark _
  · exact h.updateSoil e.port false (by exact h.soil e.port)

theorem Ranged.evaluate (h : Ranged s) (e : EvalEntry) : Ranged (evaluate e s) := by
  have hm := ((h.soil e.port).applyFrame e).rate
  unfold Machine.evaluate
  dsimp only
  split
  · exact h.setSoil e.port hm
  · exact h.updateSoil e.port false hm

theorem Ranged.serveEntry (h : Ranged s) (e : EvalEntry) : Ranged (serveEntry e s) := by
  unfold Machine.serveEntry
  dsimp only
  split
  · exact h.evaluate e
  · split
    · exact h.learnSample e _
    · exact h

theorem Ranged.discardReference (h : Ranged s) (p : PortId) : Ranged (discardReference p s) := by
  unfold Machine.discardReference
  exact (h.updateSoil p false (by exact (h.soil p).fresh rfl rfl rfl)).mark _

/-- A clean frame that closes counts towards the interval, or joins an evaluation queue that is not full (R43, R46). -/
theorem Ranged.soilClose (h : Ranged s) (p : PortId) (clean due : Bool) (stamp : Stamp) (sums : Vector CellSums 48) :
    Ranged (soilClose p clean due stamp sums s) := by
  unfold Machine.soilClose
  dsimp only
  split
  · exact h
  · split
    · exact h.setSoil p ((h.soil p).interval (Nat.min_le_right _ _))
    · split
      · rename_i hq
        have h1 : Ranged (s.setSoil p { s.soil[p] with intervalCount := 0, oneShot := false }) :=
          h.setSoil p (by exact (h.soil p).interval (Nat.zero_le _))
        exact h1.setQueue (by rw [List.length_append]; exact hq)
      · exact (h.sameSoil p).mark _

/-! ## Ports (chapter 1) -/

theorem Ranged.discardFrame (h : Ranged s) (p : PortId) : Ranged (discardFrame p s) := by
  unfold Machine.discardFrame
  dsimp only
  split
  · exact h.samePort p
  · exact (h.samePort p).setStore p ((h.slots p).drop _)

theorem Ranged.abortFrame (h : Ranged s) (p : PortId) : Ranged (abortFrame p s) := by
  have h1 := h.discardFrame p
  unfold Machine.abortFrame
  split
  · exact h
  · exact (h1.samePort p).mark _

theorem Ranged.openFrame (h : Ranged s) (p : PortId) (count : Half) : Ranged (openFrame p count s) := by
  unfold Machine.openFrame
  dsimp only
  split
  · exact h
  · exact (h.samePort p).setStore p ((h.slots p).fill _ _ _ (h.cameras p))

theorem Ranged.takeOpen (h : Ranged s) (p : PortId) (count width height : Half) : Ranged (takeOpen p count width height s) := by
  have h1 := h.abortFrame p
  unfold Machine.takeOpen
  dsimp only
  split
  · exact h1.openFrame p count
  · exact (h1.samePort p).mark _

theorem Ranged.storeLine (h : Ranged s) (p : PortId) (f : FrameInProgress) (bytes : List Byte) : Ranged (storeLine p f bytes s) := by
  refine h.of (cameras := fun hc => ?_)
  exact forall_getElem_set hc p (by exact hc p)

theorem Ranged.patchLine (h : Ranged s) (p : PortId) : Ranged (patchLine p s) := by
  unfold Machine.patchLine
  split
  · exact h
  · rename_i f _
    have h1 := h.storeLine p { f with patched := f.patched + 1 } (patchBytes p f s)
    exact h1.samePort p

theorem Ranged.patchLines (p : PortId) (n : Nat) {s : State} (h : Ranged s) : Ranged (patchLines p n s) := by
  induction n generalizing s with
  | zero => exact h
  | succ n ih => exact ih (h.patchLine p)

theorem Ranged.takeLine (h : Ranged s) (p : PortId) (f : FrameInProgress) (n : Nat) (payload : List Byte) (check : Half) :
    Ranged (takeLine p f n payload check s) := by
  have h1 := h.patchLines p (n - f.next)
  unfold Machine.takeLine
  dsimp only
  split
  · exact (h.samePort p).mark _
  · split
    · exact h1
    · split
      · exact h1.storeLine p _ _
      · exact h1.patchLine p

theorem Ranged.closeBad (h : Ranged s) (p : PortId) (f : FrameInProgress) : Ranged (closeBad p f s) :=
  ((h.samePort p).setStore p ((h.slots p).drop _)).mark _

theorem Ranged.closeGood (h : Ranged s) (p : PortId) (f : FrameInProgress) : Ranged (closeGood p f s) := by
  have h1 := h.soilClose p (decide (f.patched = 0)) f.due s.store[p].slots[f.slot].stamp s.ports[p].sums
  unfold Machine.closeGood
  dsimp only
  split
  · exact (h1.setPort p (by exact h.cameras p)).setStore p ((h.slots p).complete _)
  · exact ((h1.setPort p (by exact h.cameras p)).setStore p ((h.slots p).complete _)).announce p

theorem Ranged.takeClose (h : Ranged s) (p : PortId) (f : FrameInProgress) (count : Half) : Ranged (takeClose p f count s) := by
  have h1 := h.patchLines p (s.ports[p].camera.height - f.next)
  unfold Machine.takeClose
  dsimp only
  split
  · exact h1
  · split
    · exact h1.closeGood p _
    · exact h1.closeBad p _

theorem Ranged.losePort (h : Ranged s) (p : PortId) : Ranged (losePort p s) :=
  ((h.samePort p).abandonLearning p).announce p

theorem Ranged.stopPort (h : Ranged s) (p : PortId) : Ranged (stopPort p s) := by
  have h1 := h.discardFrame p
  have h2 : Ranged ((Machine.discardFrame p s).setPort p { (Machine.discardFrame p s).ports[p] with silence := none }) :=
    h1.samePort p
  have h3 := h2.setStore p (h1.slots p).withdraw
  have h4 := h3.setSoil p ((h3.soil p).interval (Nat.zero_le 254))
  exact h4.setQueue ((List.length_filter_le _ _).trans h4.queue)

theorem Ranged.parkPort (h : Ranged s) (p : PortId) : Ranged (parkPort p s) := by
  have h1 := h.stopPort p
  exact ((h1.samePort p).abandonLearning p).announce p

theorem Ranged.restartPort (h : Ranged s) (p : PortId) : Ranged (restartPort p s) := by
  have h1 := h.stopPort p
  exact (h1.samePort p).announce p

theorem Ranged.seekPort (h : Ranged s) (p : PortId) : Ranged (seekPort p s) := (h.samePort p).announce p

theorem Ranged.defineCamera (h : Ranged s) (p : PortId) {c : CameraRecord} (hc : FrameSize c.width c.height) :
    Ranged (defineCamera p c s) := by
  have h1 := h.setPort p (q := { s.ports[p] with camera := c, undefined := false }) hc
  have h2 := h1.setSoil p ((h1.soil p).interval (Nat.zero_le _))
  unfold Machine.defineCamera
  dsimp only
  split
  · exact (h2.discardReference p).announce p
  · exact h2.announce p

/-! ## Sides and doors (chapters 6 and 7), mode (chapter 11) -/

theorem recomputedDisplay_tiles (s : State) (now : Sides) (d : DisplayId) :
    (recomputedDisplay s now d).tiles = s.displays[d].tiles := by
  unfold recomputedDisplay
  dsimp only
  split <;> rfl

theorem recomputeCalling_tiles (s : State) (d : DisplayId) : (recomputeCalling s).displays[d].tiles = s.displays[d].tiles := by
  unfold recomputeCalling
  dsimp only
  split
  · rfl
  · dsimp only
    rw [getElem_ofFn_fin]
    split <;> rfl

theorem Ranged.doorsChanged (h : Ranged s) (before : Vector Door 8) : Ranged (doorsChanged before s) :=
  h.sameTiles fun d => by
    have hd : (Machine.doorsChanged before s).displays = (recomputeCalling s).displays := by simp [Machine.doorsChanged]
    rw [hd]; exact recomputeCalling_tiles s d

theorem Ranged.wakePort (h : Ranged s) (p : PortId) : Ranged (wakePort s p) := by
  unfold Machine.wakePort
  split
  · exact h.seekPort p
  · exact h

theorem Ranged.wakePorts (ps : List PortId) {s : State} (h : Ranged s) : Ranged (ps.foldl Machine.wakePort s) := by
  induction ps generalizing s with
  | nil => exact h
  | cons p ps ih => exact ih (h.wakePort p)

theorem Ranged.leaveStabling (h : Ranged s) (cause : WakeCause) : Ranged (leaveStabling cause s) := by
  have hw := Ranged.wakePorts (List.finRange 12) h
  unfold Machine.leaveStabling
  generalize (List.finRange 12).foldl Machine.wakePort s = u at hw
  exact hw.of id id id id id id

theorem Ranged.wakePart (h : Ranged s) (cause : WakeCause) : Ranged (wakePart cause s) := by
  unfold Machine.wakePart
  split
  · exact h
  · exact (h.leaveStabling cause).of

theorem Ranged.changeDoor (h : Ranged s) (k : DoorId) (level : Bool) : Ranged (changeDoor k level s) :=
  Ranged.doorsChanged (h.of (t := s.setDoor k _)) _

theorem Ranged.doorLevel (h : Ranged s) (k : DoorId) (level : Bool) : Ranged (doorLevel k level s) := by
  unfold Machine.doorLevel
  split
  · exact h.changeDoor k level
  · exact ((h.leaveStabling (.door k)).changeDoor k level).of

theorem Ranged.parkRunning (h : Ranged s) (p : PortId) : Ranged (parkRunning s p) := by
  unfold Machine.parkRunning
  split
  · exact h
  · exact h.parkPort p

theorem Ranged.parkPorts (ps : List PortId) {s : State} (h : Ranged s) : Ranged (ps.foldl Machine.parkRunning s) := by
  induction ps generalizing s with
  | nil => exact h
  | cons p ps ih => exact ih (h.parkRunning p)

/-! ## The Export Mover and the lanes (chapters 8 and 9) -/

theorem Export.fits_of_still {m : Export} (h : ∀ p ops i w k c t n, m ≠ .moving p ops i w k c t n) : m.Fits :=
  fun _ _ _ _ _ _ _ _ e => absurd e (h _ _ _ _ _ _ _ _)

theorem Ranged.releaseHolder (h : Ranged s) (g : Holder) : Ranged (releaseHolder g s) :=
  h.of (slots := fun hs p => by
    have hp : (Machine.releaseHolder g s).store[p] = (s.store[p]).release g := getElem_ofFn_fin _ _
    rw [hp]
    exact (hs p).release g)

theorem Ranged.dropExport (h : Ranged s) : Ranged (dropExport s) :=
  (h.releaseHolder .mover).setMover (Export.fits_of_still (by simp))

theorem Ranged.endExport (h : Ranged s) (e : Ending) : Ranged (endExport e s) := by
  unfold Machine.endExport
  split
  · exact h.dropExport
  · exact h.dropExport.of

theorem Ranged.exportWriteError (h : Ranged s) : Ranged (exportWriteError s) := by
  unfold Machine.exportWriteError
  split
  · exact h.dropExport
  · rename_i c b _
    have hf := h.dropExport.of (t := recordFault .hostWrite (some 1) c.block.toNat (Machine.dropExport s))
    dsimp only
    split
    · split
      · exact hf.of
      · exact hf.of
    · split
      · exact hf.of
      · exact hf.of

theorem Ranged.haltLane (h : Ranged s) (l : LaneId) (k : Halt) : Ranged (haltLane l k s) := by
  unfold Machine.haltLane
  dsimp only
  split
  · exact h.of
  · split
    · exact h.of
    · split
      · exact Ranged.endExport (h.of) _
      · exact h.of

theorem Ranged.restartAll (h : Ranged s) : Ranged (restartAll s) := by
  have hh := (h.haltLane 0 { announce := false, zero := true }).haltLane 1 { announce := false, zero := true }
  unfold Machine.restartAll
  dsimp only
  split
  · exact hh.of
  · exact hh.of

theorem Ranged.completeExport (h : Ranged s) (count : Nat) (stamp : Stamp) (width height : Nat) :
    Ranged (completeExport count stamp width height s) := by
  unfold Machine.completeExport
  split
  · exact (h.of (t := s.setBus _)).endExport _
  · exact (h.of (t := s.setBus _)).exportWriteError

theorem Ranged.exportAtStart (h : Ranged s) (d : DisplayId) : Ranged (exportAtStart d s) := by
  unfold Machine.exportAtStart
  split
  · split
    · dsimp only
      split
      · split
        · exact h.endExport _
        · exact h.setMover (Export.fits_of_still (by simp))
      · exact h.endExport _
    · exact h
  · exact h
  · exact h
  · exact h

theorem Ranged.exportAtEnd (h : Ranged s) (d : DisplayId) : Ranged (exportAtEnd d s) := by
  unfold Machine.exportAtEnd
  split
  · split
    · exact h.completeExport _ _ _ _
    · exact h
  · exact h
  · exact h
  · exact h

theorem Ranged.stopForeignExport (h : Ranged s) : Ranged (stopForeignExport s) := by
  unfold Machine.stopForeignExport
  split
  · split
    · exact h
    · exact h.endExport _
  · split
    · exact h
    · exact h.endExport _
  · exact h
  · exact h

theorem Ranged.stopCopying (h : Ranged s) : Ranged (stopCopying s) := by
  unfold Machine.stopCopying
  split
  · exact h.endExport _
  · exact h
  · exact h
  · exact h

/-- The Export Mover takes a slot of a port, and with it its frame's size (R146). -/
theorem Ranged.lockExport (h : Ranged s) (p : PortId) (ops : ExportOperands) (i : SlotId) : Ranged (lockExport p ops i s) :=
  (h.setStore p ((h.slots p).lock i .mover)).setMover fun _ _ _ _ _ _ _ _ e => by
    cases e
    exact h.slots p i

theorem Ranged.takeExportFrame (h : Ranged s) (p : PortId) (ops : ExportOperands) : Ranged (takeExportFrame p ops s) := by
  unfold Machine.takeExportFrame
  dsimp only
  split
  · exact h.endExport _
  · split
    · exact h.endExport _
    · split
      · exact (h.lockExport p ops _).endExport _
      · exact h.lockExport p ops _

theorem Ranged.takeExportScreen (h : Ranged s) (d : DisplayId) (ops : ExportOperands) : Ranged (takeExportScreen d ops s) := by
  unfold Machine.takeExportScreen
  split
  · split
    · exact h.endExport _
    · exact h.setMover (Export.fits_of_still (by simp))
  · exact h.endExport _

/-! ## The frame start of a display (R92, R95) -/

/-- A tile shows a frame of a slot of its port, of that slot's size (R94, R95). -/
theorem Ranged.drawnTile (h : Ranged s) {t : LaidTile} {v : Shown} (hv : (drawnTile s t).shown = some v) :
    FrameSize v.width v.height := by
  unfold Machine.drawnTile at hv
  split at hv
  · cases hv
  · split at hv
    · cases hv
    · cases hv
      exact h.slots _ _

theorem Ranged.composeTiles (h : Ranged s) (width height : Nat) (ts : List LaidTile) :
    TilesInBounds (composeTiles s width height ts) := by
  induction ts with
  | nil => exact fun _ ht => nomatch ht
  | cons t later ih =>
    intro f hf v hv
    rcases List.mem_cons.mp hf with rfl | hf
    · split at hv
      · exact h.drawnTile hv
      · cases hv
    · exact ih f hf v hv

theorem Ranged.startTiles (h : Ranged s) (d : DisplayId) : TilesInBounds (startTiles s d) := by
  unfold Machine.startTiles
  dsimp only
  split
  · exact h.composeTiles _ _ _
  · exact fun _ ht => nomatch ht

theorem Ranged.lockTile (h : Ranged s) (d : DisplayId) (t : FrameTile) : Ranged (lockTile d s t) := by
  unfold Machine.lockTile
  split
  · exact h
  · exact h.setStore _ ((h.slots _).lock _ _)

theorem Ranged.lockTiles (d : DisplayId) (ts : List FrameTile) {s : State} (h : Ranged s) : Ranged (ts.foldl (Machine.lockTile d) s) := by
  induction ts generalizing s with
  | nil => exact h
  | cons t ts ih => exact ih (h.lockTile d t)

theorem Ranged.pipeStarted (h : Ranged s) (d : DisplayId) : Ranged (pipeStarted d s) := by
  have h1 := (h.lockTiles d (Machine.startTiles s d)).setPipe d
    (r := startedDisplay s d (Machine.startTiles s d) (verdictVector s s.displays[d].settings (Machine.startTiles s d)))
    (h.startTiles d)
  unfold Machine.pipeStarted
  dsimp only
  generalize (Machine.startTiles s d).foldl (Machine.lockTile d) s = u at h1 ⊢
  exact h1.of id id id id id id

theorem Ranged.doorSteps (h : Ranged s) (d : DisplayId) : Ranged (doorSteps d s) := by
  unfold Machine.doorSteps
  split
  · exact Ranged.doorsChanged (h.of) _
  · exact h

theorem Ranged.takeFrameStart (h : Ranged s) (d : DisplayId) : Ranged (takeFrameStart d s) := by
  have hs := ((h.pipeStarted d).exportAtStart d).doorSteps d
  rw [takeFrameStart_eq]
  split
  · exact hs.mark _
  · exact hs

/-- The display of a frame end leaves every lock set; its tiles stand (R31, R107). -/
theorem Ranged.endFrame (h : Ranged s) (d : DisplayId) :
    Ranged ((Machine.releaseHolder (.display d) s).setDisplay d s.displays[d].endFrame) :=
  (h.releaseHolder (.display d)).setPipe d (h.shown d)

/-! ## Blocks of lane 0 -/

/-- A display changes, its tiles stand. -/
theorem Ranged.samePipe (h : Ranged s) (d : DisplayId) {r : Display} (hr : r.tiles = s.displays[d].tiles := by rfl) :
    Ranged (s.setDisplay d r) := h.setPipe d (by rw [hr]; exact h.shown d)

theorem Ranged.setDisplay (h : Ranged s) (d : DisplayId) (settings : DisplaySettings) : Ranged (setDisplay d settings s) := by
  have h1 : Ranged (s.setDisplay d { s.displays[d] with settings, configured := true }) := h.samePipe d
  have h2 : ∀ was now, Ranged (overrideAfter was now d (s.setDisplay d { s.displays[d] with settings, configured := true })) := by
    intro was now
    unfold overrideAfter
    split
    · exact h1
    · exact h1.samePipe d (recomputedDisplay_tiles _ _ d)
  unfold Machine.setDisplay
  dsimp only
  split
  · exact h2 _ _
  · exact (h2 _ _).takeFrameStart d

theorem Ranged.handover (h : Ranged s) (cab : Option AB) : Ranged (handover cab s) := by
  have h1 : Ranged (handoverDoors { s with cab }) := h.of
  have h2 : Ranged (recomputeOverrides (handoverDoors { s with cab })) :=
    h1.sameTiles fun d => by
      unfold recomputeOverrides
      dsimp only
      rw [getElem_ofFn_fin]
      exact recomputedDisplay_tiles _ _ d
  have h3 : Ranged (reportDoors s.doors (recomputeLines (recomputeOverrides (handoverDoors { s with cab })))) := h2.of
  unfold Machine.handover
  exact h3.stopForeignExport.of

theorem Ranged.setDoorPolicy (h : Ranged s) (body : List Byte) : Ranged (setDoorPolicy body s) :=
  Ranged.doorsChanged (h.of) _

theorem Ranged.enterStabling (h : Ranged s) : Ranged (enterStabling s) := by
  have stable : ∀ {u : State}, Ranged u →
      Ranged (Machine.mark .part (Machine.stopCopying (recomputeLines { u with mode := .stabled }))) :=
    fun {u} hu =>
      have hm : Ranged { u with mode := .stabled } := hu.of
      (Ranged.stopCopying hm.of).mark _
  unfold Machine.enterStabling
  exact stable (Ranged.parkPorts _ (h.of))

theorem Ranged.setReference (h : Ranged s) (p : PortId) (reference : Vector Nat 48) : Ranged (setReference p reference s) :=
  (h.updateSoil p true (Soil.InRange.adopt (by exact h.soil p) reference)).mark _

theorem Ranged.setLimits (h : Ranged s) (p : PortId) (limits : SoilLimits) : Ranged (setLimits p limits s) := by
  unfold Machine.setLimits
  extract_lets m m1
  split
  · exact h.sameSoil p
  · exact h.updateSoil p false (by exact h.soil p)

end Sys2Proof.Machine
end

section
/-! Every command keeps the ranges of frame sizes and soil values. -/

namespace Sys2Proof.Machine

open Safety

-- The proofs are elaborated in order: side by side, each would hold a thread of its own, and its memory.
set_option Elab.async false

/-- Every state that an outcome can go on to has its values in range. -/
def KeepsRange (o : Host.Outcome State Fault Refusal) : Prop := ∀ t, o = .next t → Ranged t

variable {s : State}

theorem Ranged.keeps (h : Ranged s) : KeepsRange (.next s) := by
  rintro _ ⟨⟩; exact h

theorem keepsRange_fault (f : Fault) : KeepsRange (.fault f) := by
  intro t h
  cases h

/-! ## Packets, timers and frames -/

theorem Ranged.frameOpen (h : Ranged s) (p : PortId) (count width height : Half) :
    KeepsRange (execFrameOpen p count width height s) := by
  unfold execFrameOpen
  split
  · exact h.keeps
  · exact (h.takeOpen p count width height).finish.keeps

theorem Ranged.line (h : Ranged s) (p : PortId) (n : Half) (payload : List Byte) (check : Half) :
    KeepsRange (execLine p n payload check s) := by
  unfold execLine
  split
  · exact h.keeps
  · split
    · exact h.keeps
    · split
      · exact (h.takeLine p _ _ _ _).finish.keeps
      · exact keepsRange_fault _

theorem Ranged.frameClose (h : Ranged s) (p : PortId) (count : Half) : KeepsRange (execFrameClose p count s) := by
  unfold execFrameClose
  split
  · exact h.keeps
  · split
    · exact h.keeps
    · split
      · exact (h.takeClose p _ _).finish.keeps
      · exact keepsRange_fault _

theorem Ranged.silenceTimerExpiry (h : Ranged s) (p : PortId) : KeepsRange (execSilenceTimerExpiry p s) := by
  unfold execSilenceTimerExpiry
  split
  · exact (h.losePort p).finish.keeps
  · exact h.keeps

theorem Ranged.evaluationService (h : Ranged s) : KeepsRange (execEvaluationService s) := by
  unfold execEvaluationService
  split
  · exact h.keeps
  · rename_i e rest hq
    have hrest : rest.length ≤ 4 := by
      have := h.queue
      rw [hq, List.length_cons] at this
      exact Nat.le_of_succ_le this
    exact ((h.setQueue hrest).serveEntry e).finish.keeps

theorem Ranged.frameStart (h : Ranged s) (d : DisplayId) : KeepsRange (execFrameStart d s) := by
  unfold execFrameStart
  split
  · exact (h.takeFrameStart d).finish.keeps
  · exact h.keeps

theorem Ranged.frameEnd (h : Ranged s) (d : DisplayId) : KeepsRange (execFrameEnd d s) := by
  unfold execFrameEnd
  split
  · exact ((h.endFrame d).exportAtEnd d).finish.keeps
  · exact h.keeps

theorem Ranged.holdExpiry (h : Ranged s) (d : DisplayId) (side : CabSide) : KeepsRange (execHoldExpiry d side s) := by
  unfold execHoldExpiry
  cases side with
  | left => exact (h.samePipe d).keeps
  | right => exact (h.samePipe d).keeps

theorem Ranged.doorLineEdge (h : Ranged s) (k : DoorId) (level : Bool) : KeepsRange (execDoorLineEdge k level s) := by
  have hd : ∀ r, Ranged (s.setDoor k r) := fun r => h.of
  unfold execDoorLineEdge
  dsimp only
  split
  · exact h.keeps
  · split
    · exact (hd _).keeps
    · split
      · exact ((hd _).doorLevel k level).finish.keeps
      · exact (hd _).keeps

theorem Ranged.debounceExpiry (h : Ranged s) (k : DoorId) : KeepsRange (execDebounceExpiry k s) := by
  have hd : ∀ r, Ranged (s.setDoor k r) := fun r => h.of
  unfold execDebounceExpiry
  dsimp only
  split
  · exact h.keeps
  · split
    · split
      · exact (hd _).keeps
      · exact ((hd _).doorLevel k _).finish.keeps
    · exact h.keeps

/-! ## The register window and the attention words -/

/-- A write of a register reaches the window and the reports only. -/
theorem Ranged.writeRegister (h : Ranged s) (value : Word) (r : HostRegister) : Ranged (writeRegister value s r) := by
  cases r with
  | ident => exact h
  | areaLo =>
    show Ranged (writeAreaLo value s)
    unfold writeAreaLo
    split <;> exact h.of
  | areaHi =>
    show Ranged (writeAreaHi value s)
    unfold writeAreaHi
    split <;> exact h.of
  | areaSize =>
    show Ranged (writeAreaSize value s)
    unfold writeAreaSize
    split
    · exact h.of
    · dsimp only
      split <;> exact h.of
  | command => exact h.of (t := s.setWindow _)
  | attention =>
    show Ranged (writeAttention value s)
    unfold writeAttention
    split <;> exact h.of
  | status => exact h
  | resetCause => exact h.of (t := s.setWindow _)

/-- A captured word is taken. -/
theorem Ranged.takeWord (h : Ranged s) (code : Nat) (effect : Word → Word → State → State)
    (he : ∀ w head u, Ranged u → Ranged (effect w head u)) : KeepsRange (takeWord code effect s) := by
  unfold Machine.takeWord
  split
  · exact h.keeps
  · split
    · exact (he _ _ _ h.of).finish.keeps
    · exact h.keeps

theorem Ranged.runChain (h : Ranged s) (w head : Word) : Ranged (runChain w head s) := by
  unfold Machine.runChain
  split
  · exact h.of
  · split
    · exact h.of
    · split
      · exact h.of
      · exact (h.wakePart .runChain).of

theorem Ranged.haltByWord (h : Ranged s) (w head : Word) : Ranged (haltByWord w head s) := by
  unfold Machine.haltByWord
  split
  · exact h.of
  · exact h.haltLane _ _

theorem Ranged.restartByWord (h : Ranged s) (w head : Word) : Ranged (restartByWord w head s) := by
  unfold Machine.restartByWord
  split
  · exact h.restartPort _
  · split
    · exact h.haltLane _ _
    · split
      · exact h.haltLane _ _
      · split
        · exact h.restartAll
        · exact h.of

theorem Ranged.acknowledge (h : Ranged s) (w head : Word) : Ranged (acknowledge w head s) := h.of

theorem Ranged.wakeByWord (h : Ranged s) (w head : Word) : Ranged (wakeByWord w head s) := h.wakePart .wake

theorem Ranged.badCode (h : Ranged s) : KeepsRange (execBadCode s) := by
  unfold execBadCode
  split
  · exact h.keeps
  · split
    · exact h.keeps
    · exact Ranged.keeps h.of

/-! ## The lanes and their blocks -/

/-- A lane walks to a block: lanes, reports and the link only. -/
theorem Ranged.reachBlock (h : Ranged s) (l : LaneId) (c : Chain) (rest : Chain → Header → State → State)
    (hr : ∀ c g u, Ranged u → Ranged (rest c g u)) : Ranged (reachBlock l c rest s) := by
  unfold Machine.reachBlock
  split
  · split
    · exact h.of
    · exact hr _ _ _ h.of
  · exact h.of

theorem Ranged.headerRead (h : Ranged s) (l : LaneId) : KeepsRange (execHeaderRead l s) := by
  unfold execHeaderRead
  split
  · exact h.keeps
  · exact (h.reachBlock l _ _ fun _ _ _ hu => hu.of).finish.keeps

theorem Ranged.skipWalk (h : Ranged s) (l : LaneId) : KeepsRange (execSkipWalk l s) := by
  unfold execSkipWalk
  split
  · exact h.keeps
  · exact (h.reachBlock l _ _ fun _ _ _ hu => hu.of).finish.keeps

/-- A lane 0 block does its action and ends. -/
theorem Ranged.lane0Block (h : Ranged s) (kind : Kind) (act : InHand → State → State × Ending)
    (ha : ∀ b, Ranged (act b s).1) : KeepsRange (lane0Block kind act s) := by
  unfold Machine.lane0Block
  split
  · exact h.keeps
  · rename_i c b _
    split
    · have hb := ha b
      generalize act b s = r at hb
      obtain ⟨u, e⟩ := r
      exact Ranged.keeps hb.of
    · exact h.keeps

/-- The record of DEFINE CAMERA has a frame size within the ranges of R3. -/
theorem frameSize_of_cameraOf {body : List Byte} {k : CameraRecord} (h : cameraOf body = some k) : FrameSize k.width k.height := by
  have hin := cameraInRange_of_some h
  obtain ⟨k', hk, -, -, -, -, hw, hh, -⟩ := exists_cameraOf hin
  obtain rfl := Option.some.inj (h.symm.trans hk)
  obtain ⟨-, -, -, -, -, -, hwidth, -, -, hheight, -⟩ := hin
  exact ⟨hw ▸ hwidth, hh ▸ hheight⟩

theorem Ranged.actDefineCamera (h : Ranged s) (b : InHand) : Ranged (actDefineCamera b s).1 := by
  unfold Machine.actDefineCamera
  split
  · exact h
  · split
    · exact h
    · split
      · exact h
      · split
        · exact h
        · rename_i k hk
          dsimp only
          exact h.defineCamera _ (frameSize_of_cameraOf hk)

theorem Ranged.actParkCamera (h : Ranged s) (b : InHand) : Ranged (actParkCamera b s).1 := by
  unfold Machine.actParkCamera
  split
  · exact h
  · split
    · exact h
    · split
      · exact h
      · dsimp only
        exact h.parkPort _

theorem Ranged.actUnparkCamera (h : Ranged s) (b : InHand) : Ranged (actUnparkCamera b s).1 := by
  unfold Machine.actUnparkCamera
  split
  · exact h
  · split
    · exact h
    · split
      · exact h
      · split
        · exact h.seekPort _
        · exact h

theorem Ranged.actLoadLayout (h : Ranged s) (b : InHand) : Ranged (actLoadLayout b s).1 := by
  unfold Machine.actLoadLayout
  split
  · exact h
  · split
    · split
      · exact h
      · exact h.of
    · exact h

theorem Ranged.actClearLayout (h : Ranged s) (b : InHand) : Ranged (actClearLayout b s).1 := by
  unfold Machine.actClearLayout
  split
  · exact h
  · split
    · exact h
    · exact h.of

theorem Ranged.actSelectLayout (h : Ranged s) (b : InHand) : Ranged (actSelectLayout b s).1 := by
  unfold Machine.actSelectLayout
  split
  · exact h
  · split
    · exact h
    · split
      · exact h
      · exact h.samePipe _

theorem Ranged.actSetDisplay (h : Ranged s) (b : InHand) : Ranged (actSetDisplay b s).1 := by
  unfold Machine.actSetDisplay
  split
  · exact h
  · split
    · exact h
    · split
      · exact h
      · split
        · exact h
        · dsimp only
          exact h.setDisplay _ _

theorem Ranged.actSetCab (h : Ranged s) (b : InHand) : Ranged (actSetCab b s).1 := by
  unfold Machine.actSetCab
  split
  · exact h
  · split
    · exact h
    · split
      · exact h
      · dsimp only
        exact h.handover _

theorem Ranged.actSetDoorPolicy (h : Ranged s) (b : InHand) : Ranged (actSetDoorPolicy b s).1 := by
  unfold Machine.actSetDoorPolicy
  split
  · exact h
  · split
    · dsimp only
      exact h.setDoorPolicy _
    · exact h

theorem Ranged.actEnterStabling (h : Ranged s) (b : InHand) : Ranged (actEnterStabling b s).1 := by
  unfold Machine.actEnterStabling
  split
  · exact h
  · split
    · exact h
    · split
      · dsimp only
        exact h.enterStabling
      · exact h

theorem Ranged.actLearnReference (h : Ranged s) (b : InHand) : Ranged (actLearnReference b s).1 := by
  unfold Machine.actLearnReference
  split
  · exact h
  · rename_i p _
    dsimp only
    split
    · exact h
    · split
      · exact h
      · split
        · exact h.updateSoil p false (by exact h.soil p)
        · exact h

theorem Ranged.actSetReference (h : Ranged s) (b : InHand) : Ranged (actSetReference b s).1 := by
  unfold Machine.actSetReference
  split
  · exact h
  · split
    · exact h
    · split
      · exact h
      · exact h.setReference _ _

theorem Ranged.actMeasureOnce (h : Ranged s) (b : InHand) : Ranged (actMeasureOnce b s).1 := by
  unfold Machine.actMeasureOnce
  split
  · exact h
  · split
    · exact h
    · split
      · exact h
      · exact h.sameSoil _

theorem Ranged.actSetSoilLimits (h : Ranged s) (b : InHand) : Ranged (actSetSoilLimits b s).1 := by
  unfold Machine.actSetSoilLimits
  split
  · exact h
  · split
    · exact h
    · split
      · exact h.setLimits _ _
      · exact h

/-! ## Exports -/

theorem Ranged.exportFrame (h : Ranged s) : KeepsRange (execExportFrame s) := by
  unfold execExportFrame
  split
  · exact h.keeps
  · split
    · exact (h.endExport _).finish.keeps
    · split
      · exact (h.endExport _).finish.keeps
      · exact (h.takeExportFrame _ _).finish.keeps

theorem Ranged.exportScreen (h : Ranged s) : KeepsRange (execExportScreen s) := by
  unfold execExportScreen
  split
  · exact h.keeps
  · split
    · exact (h.endExport _).finish.keeps
    · split
      · exact (h.endExport _).finish.keeps
      · exact (h.takeExportScreen _ _).finish.keeps

/-- The Export Mover goes on with the frame it is moving. -/
theorem Ranged.moveOn (h : Ranged s) {p : PortId} {ops : ExportOperands} {i : SlotId} {w k : Nat} {c : Half} {t : Stamp} {n m : Nat}
    (hm : s.mover = .moving p ops i w k c t n) (b : Bus) : Ranged { s.setBus b with mover := .moving p ops i w k c t m } := by
  have hb : Ranged (s.setBus b) := h.of
  refine hb.setMover fun _ _ _ _ _ _ _ _ e => ?_
  cases e
  exact h.exported _ _ _ _ _ _ _ _ hm

theorem Ranged.exportFrameRow (h : Ranged s) : KeepsRange (execExportFrameRow s) := by
  unfold execExportFrameRow
  split
  · rename_i hm
    split
    · split
      · split
        · exact (Ranged.exportWriteError (h.of)).finish.keeps
        · dsimp only
          split
          · exact ((h.moveOn hm _).completeExport _ _ _ _).finish.keeps
          · exact (h.moveOn hm _).keeps
      · exact h.keeps
    · exact keepsRange_fault _
  · exact h.keeps
  · exact h.keeps
  · exact h.keeps

theorem Ranged.exportScreenRow (h : Ranged s) : KeepsRange (execExportScreenRow s) := by
  unfold execExportScreenRow
  split
  · split
    · split
      · split
        · exact (Ranged.exportWriteError (h.of)).finish.keeps
        · exact (Ranged.setMover (s := s.setBus _) h.of (Export.fits_of_still (by simp))).keeps
      · exact h.keeps
    · exact keepsRange_fault _
  · exact h.keeps
  · exact h.keeps
  · exact h.keeps

/-! ## Every command -/

/-- At power-on every size, score and count is 0, and the lists are empty (R22, R37, R68, R110). -/
theorem ranged_powerOn (s : State) : Ranged (powerOn s) := by
  have ports : ∀ p : PortId, (powerOn s).ports[p] = {} := fun p => getElem_replicate_fin _ p
  have store : ∀ p : PortId, (powerOn s).store[p] = {} := fun p => getElem_replicate_fin _ p
  have pipes : ∀ d : DisplayId, (powerOn s).displays[d] = {} := fun d => getElem_replicate_fin _ d
  have soil : ∀ p : PortId, (powerOn s).soil[p] = {} := fun p => getElem_replicate_fin _ p
  have slot : ∀ i : SlotId, ({} : StorePort).slots[i] = {} := fun i => getElem_replicate_fin _ i
  have counter : ∀ i : Fin 48, ({} : Soil).counters[i] = 0 := fun i => getElem_replicate_fin _ i
  have size : FrameSize 0 0 := ⟨Nat.zero_le _, Nat.zero_le _⟩
  refine ⟨fun p => ?_, fun p i => ?_, Export.fits_of_still (by simp [powerOn, State.reset]), fun d => ?_, fun p => ?_, Nat.zero_le _⟩
  · rw [ports]; exact size
  · rw [store, slot]; exact size
  · rw [pipes]; exact fun _ ht => nomatch ht
  · rw [soil]
    exact ⟨Nat.zero_le _, Nat.zero_le _, fun i => by rw [counter]; exact Nat.zero_le _⟩

theorem Ranged.linkReset (h : Ranged s) : Ranged (linkReset s) := by
  unfold Machine.linkReset
  exact h.dropExport.of

/-- Every command keeps the ranges. -/
theorem Ranged.exec (h : Ranged s) (i : Instr) : KeepsRange (exec i s) := by
  cases i with
  | powerOn => exact (ranged_powerOn s).keeps
  | linkReset => exact h.linkReset.keeps
  | frameOpen p count width height => exact h.frameOpen p count width height
  | line p n payload check => exact h.line p n payload check
  | frameClose p count => exact h.frameClose p count
  | unknownPacket p => exact h.keeps
  | silenceTimerExpiry p => exact h.silenceTimerExpiry p
  | evaluationService => exact h.evaluationService
  | frameStart d => exact h.frameStart d
  | frameEnd d => exact h.frameEnd d
  | holdExpiry d side => exact h.holdExpiry d side
  | doorLineEdge k level => exact h.doorLineEdge k level
  | debounceExpiry k => exact h.debounceExpiry k
  | areaLoWrite v => exact (h.writeRegister v .areaLo).keeps
  | areaHiWrite v => exact (h.writeRegister v .areaHi).keeps
  | areaSizeWrite v => exact (h.writeRegister v .areaSize).keeps
  | statusRead => exact Ranged.keeps (h.of)
  | resetCauseWrite v => exact (h.writeRegister v .resetCause).keeps
  | registerWrite r v => exact (h.writeRegister v r).keeps
  | attentionWrite v => exact (h.writeRegister v .attention).keeps
  | runChain => exact h.takeWord 1 _ fun _ _ _ hu => hu.runChain _ _
  | haltLane => exact h.takeWord 2 _ fun _ _ _ hu => hu.haltByWord _ _
  | acknowledge => exact h.takeWord 3 _ fun _ _ _ hu => hu.acknowledge _ _
  | restart => exact h.takeWord 4 _ fun _ _ _ hu => hu.restartByWord _ _
  | wake => exact h.takeWord 5 _ fun _ _ _ hu => hu.wakeByWord _ _
  | badCode => exact h.badCode
  | headerRead l => exact h.headerRead l
  | skipWalk l => exact h.skipWalk l
  | defineCamera => exact h.lane0Block .defineCamera Machine.actDefineCamera h.actDefineCamera
  | parkCamera => exact h.lane0Block .parkCamera Machine.actParkCamera h.actParkCamera
  | unparkCamera => exact h.lane0Block .unparkCamera Machine.actUnparkCamera h.actUnparkCamera
  | loadLayout => exact h.lane0Block .loadLayout Machine.actLoadLayout h.actLoadLayout
  | clearLayout => exact h.lane0Block .clearLayout Machine.actClearLayout h.actClearLayout
  | selectLayout => exact h.lane0Block .selectLayout Machine.actSelectLayout h.actSelectLayout
  | setDisplay => exact h.lane0Block .setDisplay Machine.actSetDisplay h.actSetDisplay
  | setCab => exact h.lane0Block .setCab Machine.actSetCab h.actSetCab
  | learnReference => exact h.lane0Block .learnReference Machine.actLearnReference h.actLearnReference
  | setReference => exact h.lane0Block .setReference Machine.actSetReference h.actSetReference
  | measureOnce => exact h.lane0Block .measureOnce Machine.actMeasureOnce h.actMeasureOnce
  | setSoilLimits => exact h.lane0Block .setSoilLimits Machine.actSetSoilLimits h.actSetSoilLimits
  | setDoorPolicy => exact h.lane0Block .setDoorPolicy Machine.actSetDoorPolicy h.actSetDoorPolicy
  | enterStabling => exact h.lane0Block .enterStabling Machine.actEnterStabling h.actEnterStabling
  | exportFrame => exact h.exportFrame
  | exportScreen => exact h.exportScreen
  | exportFrameRow => exact h.exportFrameRow
  | exportScreenRow => exact h.exportScreenRow

/-- Every step keeps the ranges. -/
theorem Ranged.step {t : State} (h : Ranged s) (hs : step s = .next t) : Ranged t := by
  unfold Machine.step at hs
  split at hs
  · cases hs
    exact h.of id id id id id id
  · exact Ranged.exec (h.of) _ t hs

end Sys2Proof.Machine
end

section
namespace Sys2Proof.Proofs
open Sys2Proof Sys2Proof.Machine Sys2Proof.Safety

/-- Settles O7: the ranges are one invariant, `Ranged`, which every command keeps. -/
theorem framesAndSoilStayInRange : Obligations.FramesAndSoilStayInRange := by
  intro s t h hs
  exact (ranged_iff t).1 (Ranged.step ((ranged_iff s).2 h) hs)

end Sys2Proof.Proofs
end

section
/-! The choice of a slot for a frame: the order of preference, and that it succeeds, since the five holders hold at most five slots of
a port (R24, R26, R27, R30). -/

namespace Sys2Proof.Machine

open Safety

-- The proofs are elaborated in order: side by side, each would hold a thread of its own, and its memory.
set_option Elab.async false

/-- A slot in a state, with no holder (R26). -/
def StorePort.Free (q : StorePort) (st : SlotState) (j : SlotId) : Prop := q.slots[j].state = st ∧ q.slots[j].locks.isEmpty = true

section Choice
variable {q : StorePort} {i : SlotId}

/-- The lowest EMPTY unlocked slot (R26). -/
theorem find_empty_eq_some :
    ((List.finRange 6).find? fun j => decide (q.slots[j].state = .empty) && q.slots[j].locks.isEmpty) = some i ↔
      q.Free .empty i ∧ ∀ j < i, ¬ q.Free .empty j := by
  have test : ∀ j : SlotId, (decide (q.slots[j].state = .empty) && q.slots[j].locks.isEmpty) = true ↔ q.Free .empty j :=
    fun j => by simp [StorePort.Free]
  rw [List.find?_eq_some_iff_getElem, test]
  simp only [Bool.not_eq_true', ← Bool.not_eq_true, test, List.getElem_finRange]
  refine and_congr_right fun _ => ⟨?_, fun h => ⟨i.val, by simp, rfl, fun j hj => h _ hj⟩⟩
  rintro ⟨n, _, rfl, h⟩ j hj
  exact h j.val hj

theorem find_empty_eq_none :
    ((List.finRange 6).find? fun j => decide (q.slots[j].state = .empty) && q.slots[j].locks.isEmpty) = none ↔
      ∀ j, ¬ q.Free .empty j := by
  simp [StorePort.Free]

/-- The oldest READY unlocked slot of the ready order (R26). -/
theorem find_ready_eq_some :
    (q.order.find? fun j => decide (q.slots[j].state = .ready) && q.slots[j].locks.isEmpty) = some i ↔
      ∃ older newer, q.order = older ++ i :: newer ∧ q.Free .ready i ∧ ∀ j ∈ older, ¬ q.Free .ready j := by
  have test : ∀ j : SlotId, (decide (q.slots[j].state = .ready) && q.slots[j].locks.isEmpty) = true ↔ q.Free .ready j :=
    fun j => by simp [StorePort.Free]
  rw [List.find?_eq_some_iff_append, test]
  simp only [Bool.not_eq_true', ← Bool.not_eq_true, test]
  constructor
  · rintro ⟨hi, older, newer, ho, hn⟩
    exact ⟨older, newer, ho, hi, hn⟩
  · rintro ⟨older, newer, ho, hi, hn⟩
    exact ⟨hi, older, newer, ho, hn⟩

/-- The order of preference of R26. -/
theorem StorePort.choose_eq_some :
    q.choose = some i ↔
      (q.Free .empty i ∧ ∀ j < i, ¬ q.Free .empty j) ∨
      ((∀ j, ¬ q.Free .empty j) ∧
        ∃ older newer, q.order = older ++ i :: newer ∧ q.Free .ready i ∧ ∀ j ∈ older, ¬ q.Free .ready j) := by
  unfold StorePort.choose
  split
  · rename_i k hk
    have hfree := (find_empty_eq_some.1 hk).1
    rw [← hk, find_empty_eq_some]
    exact ⟨.inl, fun h => h.resolve_right fun hn => hn.1 k hfree⟩
  · rename_i hn
    have hnone := find_empty_eq_none.1 hn
    rw [find_ready_eq_some]
    exact ⟨fun h => .inr ⟨hnone, h⟩, fun h => (h.resolve_left fun he => hnone i he.1).2⟩

/-- An EMPTY unlocked slot, or a READY unlocked one of the ready order, can be chosen. -/
theorem StorePort.exists_choose (h : q.Free .empty i ∨ q.Free .ready i ∧ i ∈ q.order) : ∃ j, q.choose = some j := by
  rw [← Option.isSome_iff_exists, Option.isSome_iff_ne_none]
  unfold StorePort.choose
  split
  · exact Option.some_ne_none _
  · rename_i hn
    obtain ⟨hr, ho⟩ := h.resolve_left (find_empty_eq_none.1 hn i)
    intro hnone
    have := List.find?_eq_none.1 hnone i ho
    exact this (by simpa [StorePort.Free] using hr)

end Choice

/-! ## The holders of a port's slots (R27) -/

/-- The holders by number: the displays, then the Export Mover. -/
def Holder.number : Holder → Fin 5
  | .display d => d.castSucc
  | .mover => Fin.last 4

theorem Holder.number_injective : Function.Injective Holder.number := by
  intro g h e
  cases g with
  | display d =>
    cases h with
    | display k => exact congrArg _ (Fin.castSucc_injective 4 e)
    | mover => exact absurd e (Fin.castSucc_lt_last d).ne
  | mover =>
    cases h with
    | display k => exact absurd e.symm (Fin.castSucc_lt_last k).ne
    | mover => rfl

section Holders
variable {s : State} {p : PortId}

/-- A holder holds at most one slot of a port (R27, R32). -/
theorem slot_of_holder (h : HoldersBounded s) {g : Holder} {i j : SlotId} (hi : s.store[p].slots[i].locks.mem g = true)
    (hj : s.store[p].slots[j].locks.mem g = true) : i = j := by
  obtain ⟨-, -, hdisplay, hmover⟩ := h
  cases g with
  | display d => exact hdisplay d p i j hi hj
  | mover =>
    obtain ⟨_, _, _, _, _, _, ei⟩ := hmover p i hi
    obtain ⟨_, _, _, _, _, _, ej⟩ := hmover p j hj
    rw [ei] at ej
    cases ej
    rfl

/-- Of six slots, five holders leave one unlocked. -/
theorem exists_unlocked (h : HoldersBounded s) (p : PortId) : ∃ i : SlotId, s.store[p].slots[i].locks.isEmpty = true := by
  by_contra hn
  have held : ∀ i : SlotId, ∃ g, s.store[p].slots[i].locks.mem g = true := fun i =>
    (LockSet.isEmpty_eq_false _).1 (Bool.eq_false_iff.2 fun hi => hn ⟨i, hi⟩)
  choose g hg using held
  obtain ⟨i, j, hij, e⟩ := Fintype.exists_ne_map_eq_of_card_lt (fun i => (g i).number) (by simp)
  have hgj : g i = g j := Holder.number_injective e
  exact hij (slot_of_holder h (hg i) (hgj ▸ hg j))

/-- A port that receives no frame can take one (R27). -/
theorem exists_choose_of_coherent (h : HoldersBounded s) (hs : SlotsCoherent s) (hf : s.ports[p].frame = none) :
    ∃ i, s.store[p].choose = some i := by
  obtain ⟨i, hi⟩ := exists_unlocked h p
  obtain ⟨⟨hfilling, -, hdiscard, -, horder⟩, -⟩ := hs p
  refine StorePort.exists_choose (i := i) ?_
  cases hst : s.store[p].slots[i].state with
  | empty => exact .inl ⟨hst, hi⟩
  | filling =>
    obtain ⟨f, hsome, -⟩ := (hfilling i).1 hst
    rw [hf] at hsome
    cases hsome
  | ready =>
    have hd : s.store[p].slots[i].discard = false := by
      rw [Bool.eq_false_iff]
      intro hd
      rw [hdiscard i hd] at hi
      cases hi
    exact .inr ⟨⟨hst, hi⟩, (horder i).2 ⟨hst, hd⟩⟩

end Holders

end Sys2Proof.Machine

namespace Sys2Proof.Proofs

open Sys2Proof Sys2Proof.Machine Sys2Proof.Safety

/-- Settles O11: the order of preference is `StorePort.choose_eq_some`; the choice succeeds by the count of the holders. -/
theorem slotChoiceSucceedsByPreference : Obligations.SlotChoiceSucceedsByPreference := by
  unfold Obligations.SlotChoiceSucceedsByPreference
  refine ⟨fun q i => StorePort.choose_eq_some, fun s p h hs hf => exists_choose_of_coherent h hs hf, fun l g k => ?_⟩
  refine ⟨rfl, fun _ => rfl, ?_, ?_, ?_⟩
  · rw [LockSet.mem_add, Bool.or_comm]
  · rw [LockSet.mem_remove, Bool.and_comm, decide_not]
  · rw [← Bool.not_eq_false, LockSet.isEmpty_eq_false]
    simp

end Sys2Proof.Proofs
end

section
/-! The pixels of a frame: the topmost tile at a place, and its value (R83, R96 to R99, R102 to R106). -/

namespace Sys2Proof.Machine

open Safety

-- The proofs are elaborated in order: side by side, each would hold a thread of its own, and its memory.
set_option Elab.async false

/-! ## The topmost tile (R83, R102) -/

section Painting
variable {α β : Type} {paints : α → Bool} {value : α → β} {ground : β}

/-- Where no element of a list paints, the ground shows. -/
theorem foldl_paint_of_none {ts : List α} (h : ∀ t ∈ ts, ¬ paints t = true) :
    ts.foldl (fun below t => if paints t then value t else below) ground = ground := by
  induction ts with
  | nil => rfl
  | cons t ts ih =>
    rw [List.foldl_cons, if_neg (h t (List.mem_cons_self ..))]
    exact ih fun u hu => h u (List.mem_cons_of_mem _ hu)

/-- The last element that paints shows. -/
theorem foldl_paint_last {below above : List α} {t : α} (ht : paints t = true) (h : ∀ u ∈ above, ¬ paints u = true) :
    (below ++ t :: above).foldl (fun under u => if paints u then value u else under) ground = value t := by
  rw [List.foldl_append, List.foldl_cons, if_pos ht, foldl_paint_of_none h]

end Painting

/-! ## The picture (R103 to R106) -/

section Picture
variable (s : State) (v : Shown)

theorem scalePosition_cast (start size dest i : Nat) : (scalePosition start size dest i : Int) = placeOf start size dest i := by
  have hprod : (((2 * i + 1) * (size * 65536 / dest) : Nat) : Int) = (2 * (i : Int) + 1) * ((size : Int) * 65536 / (dest : Int)) := by
    push_cast
    rfl
  unfold scalePosition placeOf
  rw [← hprod]
  omega

theorem blend_cast {a b f : Nat} (hf : f ≤ 256) : (blend a b f : Int) = meanOf a b f := by
  unfold blend meanOf
  push_cast [Nat.cast_sub hf]
  rfl

theorem clampByte_eq (n : Int) : clampByte n = channel n := by
  have h : max 0 (min n 255) = ((min n.toNat 255 : Nat) : Int) := by omega
  rw [clampByte, channel, h, BitVec.ofInt_natCast]

theorem toRgb_eq (y cb cr : Nat) :
    toRgb y cb cr =
      { r := channel (y + (359 * ((cr : Int) - 128) + 128) / 256)
        g := channel (y - (88 * ((cb : Int) - 128) + 183 * ((cr : Int) - 128) + 128) / 256)
        b := channel (y + (454 * ((cb : Int) - 128) + 128) / 256) } := by
  simp only [toRgb, clampByte_eq, Int.fdiv_eq_ediv_of_nonneg _ (by decide : (0 : Int) ≤ 256)]

theorem frameByte_cast (row off : Nat) : (frameByte s v row off : Int) = sampleAt s v row off := rfl

/-- The luma of a line at a column, both held within the frame, of the samples of the line (R103, R105). -/
theorem rowLuma_cast (row u : Nat) :
    (rowLuma s v row u : Int) =
      meanOf (sampleAt s v (min row (v.height - 1)) (2 * min (u / 65536) (v.width - 1) + 1))
        (sampleAt s v (min row (v.height - 1)) (2 * min (u / 65536 + 1) (v.width - 1) + 1)) ((u % 65536 / 256 : Nat) : Int) :=
  blend_cast (by omega)

theorem picturePixel_eq (t : Tile) (i j : Nat) : picturePixel s t v i j = pictureAt s t v i j := by
  unfold picturePixel pictureAt shownRect
  dsimp only
  generalize (if v.alternate then t.alternateRect else t.primaryRect) = r
  rw [← scalePosition_cast, ← scalePosition_cast]
  generalize scalePosition r.x r.w t.dest.w (if t.mirror then t.dest.w - 1 - i else i) = u
  generalize scalePosition r.y r.h t.dest.h j = w
  have place (n : Nat) : ((n : Int) / 65536).toNat = n / 65536 := by omega
  have next (n : Nat) : ((n : Int) / 65536 + 1).toNat = n / 65536 + 1 := by omega
  have part (n : Nat) : (n : Int) % 65536 / 256 = ((n % 65536 / 256 : Nat) : Int) := by omega
  rw [toRgb_eq, blend_cast (by omega), rowLuma_cast, rowLuma_cast, frameByte_cast, frameByte_cast]
  simp only [place, next, part]

end Picture

/-! ## The value of a tile (R96 to R99) -/

section Value
variable {t : FrameTile} {x y : Nat}

/-- A place of a tile's destination rect lies in the border, or not (R97). -/
theorem inBorder_iff (hx : t.tile.dest.x ≤ x) (hy : t.tile.dest.y ≤ y) :
    inBorder t (x - t.tile.dest.x) (y - t.tile.dest.y) = true ↔
      x < t.tile.dest.x + t.edge ∨ y < t.tile.dest.y + t.edge ∨ t.tile.dest.x + t.tile.dest.w ≤ x + t.edge ∨
        t.tile.dest.y + t.tile.dest.h ≤ y + t.edge := by
  rw [inBorder, decide_eq_true_iff]
  omega

/-- A place within the border lies in the badge square, or not (R98). -/
theorem inBadge_iff (hx : t.tile.dest.x + t.edge ≤ x) (hy : t.tile.dest.y + t.edge ≤ y) :
    inBadge t (x - t.tile.dest.x) (y - t.tile.dest.y) = true ↔
      x < t.tile.dest.x + t.edge + 24 ∧ y < t.tile.dest.y + t.edge + 24 := by
  rw [inBadge, decide_eq_true_iff]
  omega

/-- A place within the border lies in the SUBSTITUTE marker, or not (R99). -/
theorem inMarker_iff (hx : t.tile.dest.x + t.edge ≤ x) (hy : t.tile.dest.y + t.edge ≤ y)
    (hw : x + t.edge < t.tile.dest.x + t.tile.dest.w) :
    inMarker t (x - t.tile.dest.x) (y - t.tile.dest.y) = true ↔
      (t.tile.dest.x + t.tile.dest.w - 1 - t.edge - x) + (y - (t.tile.dest.y + t.edge)) < 16 := by
  rw [inMarker, decide_eq_true_iff]
  omega

/-- What a badge leaves of the value under it (R98). -/
def overBadge (t : FrameTile) (blinkOn : Bool) (i j : Nat) (under : Rgb) : Rgb :=
  match badgeColour t.badge blinkOn with
  | some c => if inBadge t i j then c else under
  | none => under

/-- The value of a tile but for its border and badge: the marker over the picture, or the fill (R96, R99). -/
def underBadge (s : State) (t : FrameTile) (i j : Nat) : Rgb :=
  match t.shown with
  | none => fillPixel t.fill i j
  | some v => if v.alternate && inMarker t i j then ⟨255, 255, 255⟩ else picturePixel s t.tile v i j

/-- The parts of a tile in the order of R99. -/
theorem tilePixel_parts (s : State) (blinkOn : Bool) (t : FrameTile) (i j : Nat) :
    tilePixel s blinkOn t i j =
      if inBorder t i j then (if t.stale then ⟨255, 0, 0⟩ else t.tile.colour)
      else overBadge t blinkOn i j (underBadge s t i j) := by
  unfold tilePixel overBadge underBadge FrameTile.substitute
  cases t.shown <;> rfl

theorem overBadge_eq (blinkOn : Bool) (under : Rgb) (hx : t.tile.dest.x + t.edge ≤ x) (hy : t.tile.dest.y + t.edge ≤ y) :
    overBadge t blinkOn (x - t.tile.dest.x) (y - t.tile.dest.y) under =
      if t.badge = .smeared ∧ x < t.tile.dest.x + t.edge + 24 ∧ y < t.tile.dest.y + t.edge + 24 then ⟨255, 200, 0⟩
      else if t.badge = .blinded ∧ blinkOn = true ∧ x < t.tile.dest.x + t.edge + 24 ∧ y < t.tile.dest.y + t.edge + 24 then
        ⟨255, 64, 0⟩
      else under := by
  unfold overBadge
  cases t.badge with
  | none => simp [badgeColour]
  | smeared => simp [badgeColour, inBadge_iff hx hy]
  | blinded => cases blinkOn <;> simp [badgeColour, inBadge_iff hx hy]

/-- The value of a drawn tile at a place of its destination rect, its parts told apart by the column and line of the display
(R96 to R99). -/
theorem tilePixel_eq (s : State) (blinkOn : Bool) (hx : t.tile.dest.x ≤ x) (hy : t.tile.dest.y ≤ y) :
    tilePixel s blinkOn t (x - t.tile.dest.x) (y - t.tile.dest.y) = tileValue s blinkOn t x y := by
  have hedge : (if t.stale then max t.tile.border 2 else t.tile.border) = t.edge := rfl
  rw [tilePixel_parts]
  unfold tileValue
  simp only [hedge, inBorder_iff hx hy]
  split
  · rfl
  · rename_i hin
    simp only [not_or, Nat.not_lt, Nat.not_le] at hin
    obtain ⟨hl, ht, hr, -⟩ := hin
    rw [overBadge_eq blinkOn _ hl ht]
    congr 2
    unfold underBadge
    cases t.shown with
    | none => cases t.fill <;> rfl
    | some v => simp only [Bool.and_eq_true, inMarker_iff hl ht hr, picturePixel_eq]

end Value

end Sys2Proof.Machine

namespace Sys2Proof.Proofs

open Sys2Proof Sys2Proof.Machine Sys2Proof.Safety

/-- Settles O15: the tiles are painted from the first to the last, and the value of each is that of its topmost part. -/
theorem pixelIsTopmostTile : Obligations.PixelIsTopmostTile := by
  unfold Obligations.PixelIsTopmostTile
  intro s p x y holds
  have paints : ∀ t : FrameTile, (t.drawn && (t.tile.dest.clip p.frameWidth p.frameHeight).has x y) = true ↔ holds t :=
    fun t => Bool.and_eq_true_iff
  refine ⟨fun h => foldl_paint_of_none fun t ht hp => h t ht ((paints t).1 hp), fun below t above hp ht habove => ?_⟩
  have hin : (t.tile.dest.clip p.frameWidth p.frameHeight).has x y = true := ht.2
  rw [Rect.has, decide_eq_true_iff] at hin
  obtain ⟨hx, -, hy, -⟩ := hin
  calc pixelAt s p x y
      = tilePixel s p.blinkOn t (x - t.tile.dest.x) (y - t.tile.dest.y) := by
        unfold pixelAt
        rw [hp]
        exact foldl_paint_last ((paints t).2 ht) fun u hu hpu => habove u hu ((paints u).1 hpu)
    _ = tileValue s p.blinkOn t x y := tilePixel_eq s p.blinkOn hx hy

end Sys2Proof.Proofs
end

section
/-! What a link failure leaves of a sequence of writes, and the end of a frame at which a display leaves its locks (R31, R107, R153,
R170). -/

namespace Sys2Proof.Machine

open Safety

-- The proofs are elaborated in order: side by side, each would hold a thread of its own, and its memory.
set_option Elab.async false

/-! ## A sequence of writes cut short (R153, R170) -/

/-- What host memory takes of some writes where the link completes `k` of them and fails the next after `landed` bytes. -/
def cutWrites (ws : List (Nat × List Byte)) (k landed : Nat) : List (Nat × List Byte) :=
  ws.take k ++ ((ws.drop k).take 1).map fun w => (w.1, w.2.take landed)

theorem allWritten_eq (s : State) (ws : List (Nat × List Byte)) :
    allWritten s ws = { s with bus := { s.bus with mem := s.bus.mem.writeAll ws } } := by
  induction ws generalizing s with
  | nil => rfl
  | cons w ws ih => exact ih (hostWritten s w.1 w.2)

theorem cutShort_eq (s : State) (ws : List (Nat × List Byte)) (k landed : Nat) :
    cutShort s ws k landed = { s with bus := { s.bus with mem := s.bus.mem.writeAll (cutWrites ws k landed), fate := [] } } := by
  unfold cutShort
  dsimp only
  rw [allWritten_eq]
  rfl

section Link
variable {b : Bus} {ws : List (Nat × List Byte)} {k landed : Nat} {rest : List LinkOutcome}

theorem Bus.write_quiet (hf : b.fate = []) (a : Nat) (bs : List Byte) :
    b.write a bs = ({ b with mem := b.mem.write a bs }, true) := by
  obtain ⟨-, -, -, hquiet⟩ := Bus.write_spec b a bs
  exact hquiet hf

theorem Bus.writeAll_quiet (hf : b.fate = []) (ws : List (Nat × List Byte)) :
    b.writeAll ws = ({ b with mem := b.mem.writeAll ws }, true) := by
  obtain ⟨-, -, -, hquiet⟩ := Bus.writeAll_spec b ws
  exact hquiet hf

theorem Bus.write_completes {a : Nat} {bs : List Byte} (hf : b.fate = .completed :: rest) :
    b.write a bs = ({ b with mem := b.mem.write a bs, fate := rest }, true) := by
  unfold Bus.write
  rw [hf]

theorem Bus.write_fails {a : Nat} {bs : List Byte} (hf : b.fate = .failed landed :: rest) :
    b.write a bs = ({ b with mem := b.mem.write a (bs.take landed), fate := rest }, false) := by
  unfold Bus.write
  rw [hf]

theorem Bus.writeAll_fails (hk : k < ws.length) (hf : b.fate = failsAt k landed ++ rest) :
    b.writeAll ws = ({ b with mem := b.mem.writeAll (cutWrites ws k landed), fate := rest }, false) := by
  induction ws generalizing b k with
  | nil => cases hk
  | cons w ws ih =>
    unfold Bus.writeAll
    cases k with
    | zero =>
      rw [Bus.write_fails hf]
      rfl
    | succ k =>
      rw [Bus.write_completes hf]
      exact ih (b := { b with mem := b.mem.write w.1 w.2, fate := failsAt k landed ++ rest }) (Nat.lt_of_succ_lt_succ hk) rfl

/-- Of a sealed sequence, the last write lands nothing where it fails. -/
theorem Bus.writeSealed_fails (hk : k < ws.length) (hf : b.fate = failsAt k landed ++ rest) :
    b.writeSealed ws =
      ({ b with
          mem := b.mem.writeAll (if k + 1 = ws.length then ws.take k else cutWrites ws k landed)
          fate := rest }, false) := by
  induction ws generalizing b k with
  | nil => cases hk
  | cons w ws ih =>
    cases ws with
    | nil =>
      obtain rfl : k = 0 := Nat.lt_one_iff.1 hk
      have hf : b.fate = .failed landed :: rest := hf
      unfold Bus.writeSealed Bus.writeWhole
      rw [hf]
      rfl
    | cons v ws =>
      unfold Bus.writeSealed
      cases k with
      | zero =>
        rw [Bus.write_fails hf, if_neg (by simp)]
        rfl
      | succ k =>
        rw [Bus.write_completes hf]
        refine (ih (b := { b with mem := b.mem.write w.1 w.2, fate := failsAt k landed ++ rest }) (Nat.lt_of_succ_lt_succ hk)
          rfl).trans ?_
        simp only [List.length_cons, Nat.add_right_cancel_iff]
        split <;> rfl

/-- A write of no bytes reads as none. -/
theorem Memory.read_cutWrites_zero (m : Memory) (k x : Nat) :
    (m.writeAll (cutWrites ws k 0)).read x = (m.writeAll (ws.take k)).read x := by
  induction ws generalizing m k with
  | nil => cases k <;> rfl
  | cons w ws ih =>
    cases k with
    | zero => exact Memory.read_write_outside (m := m) (a := w.1) (bs := []) (by simp only [List.length_nil]; omega)
    | succ k => exact ih (m.write w.1 w.2) k

end Link

/-! ## The reports of an event, by what they start from -/

/-- Reports read of their base the window, the Report Writer and what the link reads as. -/
theorem reported_base {m m' t : State} {ns : List Notice} {rs : List Record} (h : Reported m t ns rs) (hw : m'.window = m.window)
    (hr : m'.reports = m.reports) (hf : m'.bus.fate = m.bus.fate) (hi : m'.bus.interrupts = m.bus.interrupts)
    (hm : ∀ x, m'.bus.mem.read x = m.bus.mem.read x) : Reported m' t ns rs := by
  have hnoticed : noticed m' ns = noticed m ns := by unfold noticed; rw [hw, hr]
  have hflow : reportsFlow m' = reportsFlow m := by unfold reportsFlow; rw [hw, hr]
  have hbase : areaBase m' = areaBase m := by unfold areaBase; rw [hw]
  have hwritten : writtenRecords m' ns rs = writtenRecords m ns rs := by unfold writtenRecords; rw [hflow, hnoticed, hr]
  unfold Reported at h ⊢
  simp only [hnoticed, hflow, hbase, hwritten, hr, hf, hi, hm]
  exact h

theorem Raised.base {m m' u : State} {ns : List Notice} {rs : List Record} (h : Raised m u ns rs) (hw : m'.window = m.window)
    (hb : m'.bus = m.bus) (hr : m'.reports = m.reports) : Raised m' u ns rs := by
  have hnoticed : noticed m' ns = noticed m ns := by unfold noticed; rw [hw, hr]
  unfold Raised at h ⊢
  rw [hw, hb, hr, hnoticed]
  exact h

/-! ## The frame end of a display (R31, R107) -/

theorem storeLeft_releaseHolder (h : Holder) (s : State) : StoreLeft h s (releaseHolder h s) := by
  intro p
  have hp : (releaseHolder h s).store[p] = (s.store[p]).release h := getElem_ofFn_fin _ _
  rw [hp]
  refine ⟨rfl, fun i => ?_⟩
  rw [StorePort.release_slot]
  exact slotLeft_release h _

theorem storeLeft_congr {h : Holder} {s t u : State} (hl : StoreLeft h s t) (hu : u.store = t.store) : StoreLeft h s u := by
  unfold StoreLeft
  rw [hu]
  exact hl

/-- A display's frame ends: it leaves every lock set, and no further frame end comes before its next frame start. -/
def frameEnded (d : DisplayId) (s : State) : State := (releaseHolder (.display d) s).setDisplay d s.displays[d].endFrame

theorem endDue_eq {s : State} {d : DisplayId} {g : Timing} (hc : s.displays[d].configured = true)
    (hg : s.displays[d].timing = some g) (hended : g.ended = false)
    (hm : ∀ ops w h c n r, s.mover = .copying d ops w h c n r → s.mover.allRows = true) :
    endDue s d = reached s.clock (stampAfter g.start g.period) := by
  unfold endDue
  rw [hg, hc]
  simp only [hended, Bool.not_false, Bool.and_true, Bool.true_and]
  split
  · rename_i e ops w h c n r he
    by_cases hd : e = d
    · subst hd
      rw [hm _ _ _ _ _ _ he]
      simp
    · simp [hd]
  · exact Bool.and_true _
  · exact Bool.and_true _
  · exact Bool.and_true _

theorem exec_frameEnd {s : State} {d : DisplayId} (h : endDue s d = true) :
    exec (.frameEnd d) s = .next (finishEvent (exportAtEnd d (frameEnded d s))) := if_pos h

theorem exec_frameEnd_early {s : State} {d : DisplayId} (h : endDue s d = false) : exec (.frameEnd d) s = .next s := by
  show execFrameEnd d s = _
  unfold execFrameEnd
  rw [h]
  rfl

theorem exportAtEnd_of_not_copying {s : State} {d : DisplayId} (h : ∀ ops w k c n r, s.mover ≠ .copying d ops w k c n r) :
    exportAtEnd d s = s := by
  unfold exportAtEnd
  split
  · rename_i e ops w k c n r he
    rw [if_neg]
    rintro rfl
    exact h _ _ _ _ _ _ he
  · rfl
  · rfl
  · rfl

theorem frameEnded_displays {s : State} {d : DisplayId} {g : Timing} (hg : s.displays[d].timing = some g) :
    (frameEnded d s).displays = s.displays.set d { s.displays[d] with timing := some { g with ended := true } } := by
  unfold frameEnded Display.endFrame
  rw [hg]
  rfl

end Sys2Proof.Machine

namespace Sys2Proof.Proofs

open Sys2Proof Sys2Proof.Machine Sys2Proof.Safety

-- The proofs are elaborated in order: side by side, each would hold a thread of its own, and its memory.
set_option Elab.async false

/-- Settles O28: a frame end with no screen Export of its display is the loss of one holder. -/
theorem frameEndReleasesLocks : Obligations.FrameEndReleasesLocks := by
  unfold Obligations.FrameEndReleasesLocks
  intro s d g p hc hg hended hm
  have hdue := endDue_eq hc hg hended fun ops w h c n r e => absurd e (hm ops w h c n r)
  refine ⟨fun hr => exec_frameEnd_early (hdue.trans hr), fun hr hcalm => ?_⟩
  have hnone : exportAtEnd d (frameEnded d s) = frameEnded d s := exportAtEnd_of_not_copying hm
  have hexec : exec (.frameEnd d) s = .next (finishEvent (frameEnded d s)) := by
    rw [exec_frameEnd (hdue.trans hr), hnone]
  have hdisplays : (finishEvent (frameEnded d s)).displays = (frameEnded d s).displays := by simp
  have hraised : Raised s (frameEnded d s) [] [] := (Raised.calm hcalm).step rfl rfl rfl
  let others (v x : State) : State := { x with store := v.store, displays := v.displays, reports := v.reports, bus := v.bus }
  refine ⟨_, hexec, finishEvent_others others (fun _ => rfl) (fun _ _ _ _ => rfl) fun _ => rfl,
    hdisplays.trans (frameEnded_displays hg), ?_, hraised.finish hcalm.2⟩
  exact storeLeft_congr (storeLeft_releaseHolder (.display d) s) (finishEvent_store _)

end Sys2Proof.Proofs
end

section
/-! The rows of an Export and its end: complete, or with a write that the link fails (R32, R145, R147, R151, R153, R163, R170). -/

namespace Sys2Proof.Machine

open Safety

-- The proofs are elaborated in order: side by side, each would hold a thread of its own, and its memory.
set_option Elab.async false

/-! ## What the end of an Export reads -/

/-- Two states with the same clock, window, lanes and Report Writer: what the end of an Export reads besides the link. -/
def SameDesk (s u : State) : Prop := u.clock = s.clock ∧ u.window = s.window ∧ u.lanes = s.lanes ∧ u.reports = s.reports

section Desk
variable {s u : State} {c : Chain} {b : InHand}

theorem SameDesk.areaBase (h : SameDesk s u) : areaBase u = areaBase s := by
  obtain ⟨-, hw, -, -⟩ := h
  unfold Machine.areaBase
  rw [hw]

theorem SameDesk.inHand (h : SameDesk s u) (l : LaneId) : inHand u l = inHand s l := by
  obtain ⟨-, -, hl, -⟩ := h
  unfold Machine.inHand
  rw [hl]

/-- Only the rest of the link differs. -/
theorem SameDesk.raised (h : SameDesk s u) (hn : NothingDue s) : Raised { s with bus := u.bus } u [] [] := by
  obtain ⟨-, hw, -, hr⟩ := h
  have hs : Raised { s with bus := u.bus } { s with bus := u.bus } [] [] := Raised.start hn
  exact hs.step hw rfl hr

theorem SameDesk.dropExport (h : SameDesk s u) : SameDesk s (dropExport u) := h

end Desk

/-- The lane of a block in hand is RUNNING. -/
theorem running_of_inHand {s : State} {l : LaneId} {c : Chain} {b : InHand} (h : inHand s l = some (c, b)) :
    s.lanes[l].state = .running c := by
  unfold inHand at h
  split at h
  · rename_i k hk
    rw [hk]
    split at h <;> cases h
    rfl
  · cases h
  · cases h

/-! ## A block of lane 1 that ends (R145, R167) -/

theorem endExport_eq {u : State} {c : Chain} {b : InHand} (h : inHand u 1 = some (c, b)) (e : Ending) :
    endExport e u = endBlock 1 c b.notify b.haltOnFail b.next e (dropExport u) := by
  unfold endExport
  rw [h]

theorem endExport_mover (e : Ending) (u : State) : (endExport e u).mover = .idle := by
  unfold endExport
  split
  · rfl
  · simp [dropExport]

theorem endExport_store (e : Ending) (u : State) : (endExport e u).store = (releaseHolder .mover u).store := by
  unfold endExport
  split
  · rfl
  · simp [dropExport]

theorem endExport_ends {s u : State} {c : Chain} {b : InHand} (hd : SameDesk s u) (hbus : u.bus = s.bus) (hcalm : Calm s)
    (hin : inHand s 1 = some (c, b)) (e : Ending) :
    BlockEnds 1 s (finishEvent (endExport e u)) c b.notify b.haltOnFail b.next e [] [] := by
  obtain ⟨hclock, -, hlanes, -⟩ := hd.dropExport
  have hr : Raised s (dropExport u) [] [] :=
    (hd.raised hcalm.1).step (v := dropExport u) rfl rfl rfl |>.base rfl hbus.symm rfl
  obtain ⟨hraised, hleft⟩ := endBlock_quiet hr hcalm.2 hclock 1 c b.notify b.haltOnFail b.next e
  rw [hlanes] at hraised hleft
  rw [endExport_eq ((hd.inHand 1).trans hin)]
  exact ⟨(finishEvent_lanes _).trans hleft, hraised.finish ((allWritten_fate _ s).trans hcalm.2)⟩

/-! ## Lane 1 FAULTED (R163, R170) -/

/-- The state of a lane shows in its record. -/
theorem contents_code {v w : Lane} (h : v.contents = w.contents) : v.state.code = w.state.code := by
  have key : ∀ r : Lane, pack (laneFields r) % 256 ^ 28 % 2 ^ 2 = r.state.code := by
    intro r
    rw [Nat.mod_mod_of_dvd _ (by norm_num)]
    exact (Nat.add_mul_mod_self_left _ _ _).trans (Nat.mod_eq_of_lt r.state.code_lt)
  rw [laneContents_eq, laneContents_eq] at h
  rw [← key v, ← key w, leBytes_inj h]

/-- A RUNNING lane 1 becomes FAULTED, and a halt that waited stops it (R163, R170). -/
def faultLane1 (s : State) : State :=
  let t := updateLane 1 { s.lanes[(1 : LaneId)] with state := .faulted } s
  match t.lanes[(1 : LaneId)].halting with
  | some h => stopLane 1 h t
  | none => t

/-- Where lane 1 stands after a host write error: FAULTED, or stopped by a halt that waited. -/
def laneBroken (v : Lane) : Lane :=
  match v.halting with
  | none => { v with state := .faulted }
  | some h => laneHalted v h

theorem faultLane1_lanes (s : State) : (faultLane1 s).lanes = s.lanes.set (1 : LaneId) (laneBroken s.lanes[(1 : LaneId)]) := by
  unfold faultLane1 laneBroken
  dsimp only
  simp only [updateLane_lanes, getElem_setLane]
  cases hh : s.lanes[(1 : LaneId)].halting with
  | none => exact updateLane_lanes _ _ _
  | some h =>
    dsimp only
    rw [stopLane_lanes, updateLane_lanes, getElem_setLane, Vector.set_set]
    rfl

theorem Raised.faultLane1 {m u : State} {ns : List Notice} {rs : List Record} (h : Raised m u ns rs) {c : Chain}
    (hc : u.lanes[(1 : LaneId)].state = .running c) :
    Raised m (faultLane1 u) (ns ++ haltNotices u.lanes[(1 : LaneId)]) (.lane 1 :: rs) := by
  have hne : ({ u.lanes[(1 : LaneId)] with state := .faulted } : Lane).contents ≠ u.lanes[(1 : LaneId)].contents := by
    intro e
    have hcode := contents_code e
    rw [hc] at hcode
    cases hcode
  have h1 : Raised m (updateLane 1 { u.lanes[(1 : LaneId)] with state := .faulted } u) ns (.lane 1 :: rs) := by
    unfold updateLane
    rw [if_neg hne]
    exact (h.step rfl rfl rfl).mark (.lane 1)
  have hhalt : (updateLane 1 { u.lanes[(1 : LaneId)] with state := .faulted } u).lanes[(1 : LaneId)].halting =
      u.lanes[(1 : LaneId)].halting := by rw [updateLane_lanes, getElem_setLane]
  unfold Machine.faultLane1 haltNotices
  dsimp only at h1 hhalt ⊢
  generalize updateLane 1 _ u = t at h1 hhalt ⊢
  rw [hhalt]
  cases u.lanes[(1 : LaneId)].halting with
  | none => simpa using h1
  | some k => exact h1.stopLane 1 k (List.mem_cons_self ..)

/-! ## The fault record (R177) -/

theorem faultTaken_eq (s : State) (cause : FaultCause) (lane : Option LaneId) (offset : Nat) :
    faultTaken s cause lane offset = some (nextFault cause lane offset s.clock s.reports.fault) := by
  unfold faultTaken nextFault
  cases s.reports.fault <;> rfl

theorem Raised.recordFault {m u : State} {ns : List Notice} {rs : List Record} (h : Raised m u ns rs) (hc : u.clock = m.clock)
    (cause : FaultCause) (lane : Option LaneId) (offset : Nat) :
    Raised (faulted m cause lane offset) (recordFault cause lane offset u) (ns ++ [.fault]) (.fault :: rs) := by
  obtain ⟨hw, hb, hr, hd⟩ := h
  have hfault : u.reports.fault = m.reports.fault := by rw [hr]
  have h1 : Raised (faulted m cause lane offset)
      (u.setReports { u.reports with fault := some (nextFault cause lane offset u.clock u.reports.fault) }) ns rs := by
    refine ⟨hw, hb, ?_, hd⟩
    rw [State.setReports_reports, hc, hfault, ← faultTaken_eq, hr]
    rfl
  exact (h1.mark .fault).raise .fault

/-! ## The failed end of an Export (R153, R170) -/

theorem endingWrites_eq (s : State) (block : Word) (e : Ending) : endingWrites s block e = endingList s block e := by
  simp only [endingWrites, endingList, blockAddress, Nat.add_zero]

/-- The writes of an ending, one of which fails: the status lands nothing (R170). -/
theorem writeEnding_fails {s : State} {k landed : Nat} (hk : k < 4) (hf : s.bus.fate = failsAt k landed) (block : Word) (e : Ending) :
    (writeEnding s block e).2 = false ∧ (writeEnding s block e).1.fate = (cutEnding s block e k landed).bus.fate ∧
    (writeEnding s block e).1.interrupts = (cutEnding s block e k landed).bus.interrupts ∧
    ∀ x, (cutEnding s block e k landed).bus.mem.read x = (writeEnding s block e).1.mem.read x := by
  have hlen : (endingList s block e).length = 4 := rfl
  have hw := Bus.writeSealed_fails (ws := endingList s block e) (hlen ▸ hk) (hf.trans (List.append_nil _).symm)
  unfold writeEnding cutEnding
  rw [endingWrites_eq, hw, cutShort_eq]
  refine ⟨rfl, rfl, rfl, fun x => ?_⟩
  by_cases h3 : k = 3
  · rw [if_pos h3, if_pos (by rw [hlen, h3])]
    exact Memory.read_cutWrites_zero _ _ _
  · rw [if_neg h3, if_neg (by rw [hlen]; omega)]

/-- The part with an Export's host write error in the fault record, before the ending is written. -/
def exportFaulted (c : Chain) (u : State) : State := recordFault .hostWrite (some 1) c.block.toNat (dropExport u)

theorem exportWriteError_counted {u : State} {c : Chain} {b : InHand} {bus : Bus} (hin : inHand u 1 = some (c, b))
    (hw : writeEnding (exportFaulted c u) c.block (.failed .hostWrite 0) = (bus, true)) :
    exportWriteError u =
      faultLane1 (countEnding 1 b.notify (.failed .hostWrite 0) ((exportFaulted c u).setBus bus)) := by
  unfold exportWriteError
  rw [hin]
  unfold exportFaulted at hw ⊢
  dsimp only
  rw [hw]
  rfl

theorem exportWriteError_uncounted {u : State} {c : Chain} {b : InHand} {bus : Bus} (hin : inHand u 1 = some (c, b))
    (hw : writeEnding (exportFaulted c u) c.block (.failed .hostWrite 0) = (bus, false)) :
    exportWriteError u =
      faultLane1 (recordFault .hostWrite (some 1) c.block.toNat ((exportFaulted c u).setBus bus)) := by
  unfold exportWriteError
  rw [hin]
  unfold exportFaulted at hw ⊢
  dsimp only
  rw [hw]
  rfl

theorem faultLane1_keeps (s : State) : (faultLane1 s).store = s.store ∧ (faultLane1 s).mover = s.mover := by
  unfold faultLane1
  dsimp only
  split <;> simp

/-- An Export that breaks lets go of its slot, and the Export record is IDLE (R32, R145). -/
theorem exportWriteError_lets_go {u : State} {c : Chain} {b : InHand} (hin : inHand u 1 = some (c, b)) :
    (exportWriteError u).store = (releaseHolder .mover u).store ∧ (exportWriteError u).mover = .idle := by
  have hgo : (exportFaulted c u).store = (releaseHolder .mover u).store ∧ (exportFaulted c u).mover = .idle := by
    simp [exportFaulted, dropExport]
  rcases hw : writeEnding (exportFaulted c u) c.block (.failed .hostWrite 0) with ⟨bus, _ | _⟩
  · rw [exportWriteError_uncounted hin hw, (faultLane1_keeps _).1, (faultLane1_keeps _).2]
    simpa using hgo
  · rw [exportWriteError_counted hin hw, (faultLane1_keeps _).1, (faultLane1_keeps _).2]
    simpa using hgo

theorem laneBroken_count (v : Lane) (r : Reason) (n : Nat) :
    laneBroken (v.count (.failed r n)) = (match v.halting with
      | none => { v with failed := v.failed + 1, state := .faulted }
      | some h => laneHalted { v with failed := v.failed + 1 } h) := by
  unfold laneBroken
  cases hv : v.halting <;> simp [Lane.count, hv]

/-- The end of an event in which lane 1 becomes FAULTED, on a link that completes what follows. -/
theorem finish_faultLane1 {m v : State} {ns : List Notice} {rs : List Record} (h : Raised m v ns rs) (hq : m.bus.fate = [])
    {w : Lane} (hw : v.lanes[(1 : LaneId)] = w) {c : Chain} (hc : w.state = .running c) :
    (finishEvent (faultLane1 v)).lanes = v.lanes.set (1 : LaneId) (laneBroken w) ∧
    Reported m (finishEvent (faultLane1 v)) (ns ++ haltNotices w) (.lane 1 :: rs) := by
  subst hw
  exact ⟨(finishEvent_lanes _).trans (faultLane1_lanes v), (h.faultLane1 hc).finish hq⟩

theorem endingList_congr {s u : State} (hb : areaBase u = areaBase s) (hc : u.clock = s.clock) (block : Word) (e : Ending) :
    endingList u block e = endingList s block e := by
  unfold endingList
  rw [hb, hc]

/-- The part with an Export's host write error in the fault record. -/
def faultedOnce (c : Chain) (s : State) : State := faulted s .hostWrite (some 1) c.block.toNat

section Breaks
variable {s u : State} {c : Chain} {b : InHand}

/-- The fault of an Export, on the link as the failed write left it. -/
theorem SameDesk.exportFaulted (hd : SameDesk s u) (hn : NothingDue s) :
    Raised (faultedOnce c { s with bus := u.bus }) (exportFaulted c u) [.fault] [.fault] := by
  have h : Raised { s with bus := u.bus } (Machine.dropExport u) [] [] := (hd.raised hn).step rfl rfl rfl
  exact h.recordFault hd.1 _ _ _

theorem exportFaulted_lanes (c : Chain) (u : State) : (exportFaulted c u).lanes = u.lanes := by
  simp [exportFaulted]

theorem exportFaulted_clock (c : Chain) (u : State) : (exportFaulted c u).clock = u.clock := by
  simp [exportFaulted]

theorem exportFaulted_bus (c : Chain) (u : State) : (exportFaulted c u).bus = u.bus := by
  simp [exportFaulted]

theorem SameDesk.exportFaulted_endingList (hd : SameDesk s u) (block : Word) (e : Ending) :
    endingList (Machine.exportFaulted c u) block e = endingList s block e := by
  have hw : (Machine.exportFaulted c u).window = u.window := by simp [Machine.exportFaulted]
  refine endingList_congr ?_ ((exportFaulted_clock c u).trans hd.1) block e
  rw [← hd.areaBase]
  unfold Machine.areaBase
  rw [hw]

/-- The ending of a broken Export, on a link that completes its writes (R167). -/
theorem SameDesk.ending_written (hd : SameDesk s u) (hn : NothingDue s) (hbus : u.bus = s.bus) (hquiet : s.bus.fate = []) (e : Ending) :
    writeEnding (Machine.exportFaulted c u) c.block e = ((endingWritten (faultedOnce c s) c.block e).bus, true) ∧
    Raised (endingWritten (faultedOnce c s) c.block e)
      ((Machine.exportFaulted c u).setBus (endingWritten (faultedOnce c s) c.block e).bus) [.fault] [.fault] := by
  have hsame : (endingWritten (Machine.exportFaulted c u) c.block e).bus = (endingWritten (faultedOnce c s) c.block e).bus := by
    unfold endingWritten
    rw [allWritten_eq, allWritten_eq, hd.exportFaulted_endingList, exportFaulted_bus, hbus]
    rfl
  have hraised := hd.exportFaulted (c := c) hn
  rw [hbus] at hraised
  rw [← hsame]
  obtain ⟨-, -, -, hcompletes, -⟩ := writeEnding_spec (Machine.exportFaulted c u) c.block e
  refine ⟨hcompletes (by rw [exportFaulted_bus, hbus]; exact hquiet), ?_⟩
  rw [hsame]
  refine (hraised.bus _).base ?_ rfl ?_
  · exact congrArg State.window (allWritten_eq (faultedOnce c s) _)
  · exact congrArg State.reports (allWritten_eq (faultedOnce c s) _)

/-- A broken Export whose ending is written (R153, R170). -/
theorem exportWriteError_breaks (hd : SameDesk s u) (hn : NothingDue s) (hbus : u.bus = s.bus) (hquiet : s.bus.fate = [])
    (hin : inHand s 1 = some (c, b)) : ExportBreaks s (finishEvent (exportWriteError u)) c b none := by
  obtain ⟨-, -, hlanes, -⟩ := id hd
  obtain ⟨hw, hraised⟩ := hd.ending_written (c := c) hn hbus hquiet (.failed .hostWrite 0)
  have hquiet' : (endingWritten (faultedOnce c s) c.block (.failed .hostWrite 0)).bus.fate = [] :=
    (allWritten_fate _ (faultedOnce c s)).trans hquiet
  rw [exportWriteError_counted ((hd.inHand 1).trans hin) hw]
  have hlane (bus : Bus) : (countEnding 1 b.notify (.failed .hostWrite 0) ((exportFaulted c u).setBus bus)).lanes =
      s.lanes.set (1 : LaneId) (s.lanes[(1 : LaneId)].count (.failed .hostWrite 0)) := by
    rw [countEnding_lanes, State.setBus_lanes, exportFaulted_lanes, hlanes]
  have hcount : (s.lanes[(1 : LaneId)].count (.failed .hostWrite 0)).state = .running c := running_of_inHand hin
  obtain ⟨hl, hr⟩ := finish_faultLane1 (hraised.countEnding 1 b.notify (.failed .hostWrite 0)) hquiet'
    (w := s.lanes[(1 : LaneId)].count (.failed .hostWrite 0)) (by rw [hlane, getElem_setLane]) hcount
  refine ⟨?_, Reported.congr hr (fun n => ?_) fun r => ?_⟩
  · rw [hl, hlane, Vector.set_set, laneBroken_count]
    cases s.lanes[(1 : LaneId)].halting <;> rfl
  · have hhalt : haltNotices (s.lanes[(1 : LaneId)].count (.failed .hostWrite 0)) = haltNotices s.lanes[(1 : LaneId)] := rfl
    rw [hhalt, exportNotices, List.append_assoc, List.singleton_append]
  · simp only [List.mem_cons, List.not_mem_nil, or_false, or_self_left]
    exact or_comm

/-- A broken Export of whose ending a write fails too (R153, R170). -/
theorem exportWriteError_breaks_again {k : Fin 4} {landed : Nat} (hd : SameDesk s u) (hn : NothingDue s)
    (hbus : u.bus = { s.bus with fate := failsAt k landed }) (hin : inHand s 1 = some (c, b)) :
    ExportBreaks s (finishEvent (exportWriteError u)) c b (some (k, landed)) := by
  obtain ⟨-, -, hlanes, -⟩ := id hd
  obtain ⟨hfails, hfate, hinterrupts, hread⟩ := writeEnding_fails (s := exportFaulted c u) k.isLt
    (by rw [exportFaulted_bus, hbus]) c.block (.failed .hostWrite 0)
  have hw : writeEnding (exportFaulted c u) c.block (.failed .hostWrite 0) =
      ((writeEnding (exportFaulted c u) c.block (.failed .hostWrite 0)).1, false) := Prod.ext rfl hfails
  have hcut : (cutEnding (exportFaulted c u) c.block (.failed .hostWrite 0) k landed).bus =
      (cutEnding (faultedOnce c (faultedOnce c s)) c.block (.failed .hostWrite 0) k landed).bus := by
    unfold cutEnding
    rw [cutShort_eq, cutShort_eq, hd.exportFaulted_endingList, exportFaulted_bus, hbus]
    rfl
  rw [hcut] at hfate hinterrupts hread
  generalize (writeEnding (exportFaulted c u) c.block (.failed .hostWrite 0)).1 = bus at hw hfate hinterrupts hread
  have hraised := ((hd.exportFaulted (c := c) hn).bus bus).recordFault ((exportFaulted_clock c u).trans hd.1)
    .hostWrite (some 1) c.block.toNat
  have hlane : (recordFault .hostWrite (some 1) c.block.toNat ((exportFaulted c u).setBus bus)).lanes = s.lanes := by
    rw [← hlanes, ← exportFaulted_lanes c u]
    simp
  obtain ⟨hl, hr⟩ := finish_faultLane1 hraised hfate (w := s.lanes[(1 : LaneId)]) (by rw [hlane]) (running_of_inHand hin)
  rw [exportWriteError_uncounted ((hd.inHand 1).trans hin) hw]
  refine ⟨?_, reported_base (Reported.congr hr (fun n => ?_) fun r => ?_) ?_ ?_ hfate.symm hinterrupts.symm hread⟩
  · rw [hl, hlane]
    rfl
  · simp
  · simp [or_comm]
  · unfold cutEnding
    rw [cutShort_eq]
    rfl
  · unfold cutEnding
    rw [cutShort_eq]
    rfl

/-- A broken Export, whatever becomes of its ending. -/
theorem exportWriteError_spec {ending : EndingFate} (hd : SameDesk s u) (hn : NothingDue s)
    (hbus : u.bus = { s.bus with fate := ending.outcomes }) (hquiet : s.bus.fate = []) (hin : inHand s 1 = some (c, b)) :
    ExportBreaks s (finishEvent (exportWriteError u)) c b ending := by
  cases ending with
  | none =>
    refine exportWriteError_breaks hd hn (hbus.trans ?_) hquiet hin
    rw [EndingFate.outcomes, ← hquiet]
  | some f => exact exportWriteError_breaks_again hd hn hbus hin

end Breaks

/-! ## The four fields of a completed Export (R147, R151) -/

section Complete
variable {s u : State} {c : Chain} {b : InHand} {count : Nat} {stamp : Stamp} {w h : Nat}

theorem SameDesk.fieldWrites (hd : SameDesk s u) (hin : Machine.inHand s 1 = some (c, b)) :
    Machine.fieldWrites u count stamp w h = fieldList s c.block count stamp w h := by
  unfold Machine.fieldWrites
  rw [hd.inHand, hin]
  unfold fieldList blockAddress
  rw [hd.areaBase]

/-- The fields and the ending are written on a link that completes them. -/
theorem completeExport_ends (hd : SameDesk s u) (hbus : u.bus = s.bus) (hcalm : Calm s) (hin : inHand s 1 = some (c, b)) :
    BlockEnds 1 (allWritten s (fieldList s c.block count stamp w h)) (finishEvent (completeExport count stamp w h u)) c b.notify
      b.haltOnFail b.next .done [] [] := by
  have hw := Bus.writeAll_quiet (b := u.bus) (by rw [hbus]; exact hcalm.2) (fieldList s c.block count stamp w h)
  unfold completeExport
  rw [hd.fieldWrites hin, hw, allWritten_eq, hbus]
  exact endExport_ends (s := { s with bus := { s.bus with mem := s.bus.mem.writeAll (fieldList s c.block count stamp w h) } })
    (u := u.setBus { s.bus with mem := s.bus.mem.writeAll (fieldList s c.block count stamp w h) }) hd rfl hcalm hin .done

/-- The link fails one of the four fields. -/
theorem completeExport_breaks {k landed : Nat} {ending : EndingFate} (hd : SameDesk s u) (hn : NothingDue s)
    (hbus : u.bus = { s.bus with fate := failsAt k landed ++ ending.outcomes }) (hk : k < 4) (hin : inHand s 1 = some (c, b)) :
    ExportBreaks (cutShort s (fieldList s c.block count stamp w h) k landed) (finishEvent (completeExport count stamp w h u)) c b
      ending := by
  have hlen : (fieldList s c.block count stamp w h).length = 4 := rfl
  have hw := Bus.writeAll_fails (b := u.bus) (hlen ▸ hk) (congrArg Bus.fate hbus)
  unfold completeExport
  rw [hd.fieldWrites hin, hw, cutShort_eq, hbus]
  exact exportWriteError_spec (s := { s with bus := { s.bus with
    mem := s.bus.mem.writeAll (cutWrites (fieldList s c.block count stamp w h) k landed), fate := [] } }) hd hn rfl rfl hin

/-- An Export that completes, or breaks at its fields, lets go of its slot, and the Export record is IDLE (R32, R145). -/
theorem completeExport_lets_go (hin : inHand u 1 = some (c, b)) :
    (completeExport count stamp w h u).store = (releaseHolder .mover u).store ∧ (completeExport count stamp w h u).mover = .idle := by
  unfold completeExport
  split
  · exact ⟨endExport_store _ _, endExport_mover _ _⟩
  · rename_i bus _
    exact exportWriteError_lets_go (u := u.setBus bus) hin

end Complete

/-- An Export of lane 1 that ends touches the frame store, the lanes, the Export record and the reports. -/
theorem finishEvent_exportEnd {s u : State} (hm : u.mover = .idle)
    (hu : ∀ {α : Type} (f : State → α),
      (∀ s q l m r b, f { s with store := q, lanes := l, mover := m, reports := r, bus := b } = f s) → f u = f s) :
    finishEvent u = { s with
      store := (finishEvent u).store, lanes := (finishEvent u).lanes, mover := .idle
      reports := (finishEvent u).reports, bus := (finishEvent u).bus } := by
  let others (v x : State) : State := { x with
    store := v.store, lanes := v.lanes, mover := v.mover, reports := v.reports, bus := v.bus }
  have h := finishEvent_others (s := s) (u := u) others (fun _ => rfl) (fun _ _ _ _ => rfl) fun v => hu (others v) fun _ _ _ _ _ _ => rfl
  have hidle : (finishEvent u).mover = .idle := Eq.trans (by simp) hm
  rw [← hidle]
  exact h

/-- What the failed write of a row leaves (R153, R170). -/
theorem rowWrite_fails {s : State} {c : Chain} {b : InHand} {landed a : Nat} {bs : List Byte} {ending : EndingFate}
    (hin : inHand s 1 = some (c, b)) (hn : NothingDue s) (hf : s.bus.fate = failsAt 0 landed ++ ending.outcomes) :
    (s.bus.write a bs).2 = false ∧
    ∃ t, finishEvent (exportWriteError (s.setBus (s.bus.write a bs).1)) = t ∧
      t = { s with store := t.store, lanes := t.lanes, mover := .idle, reports := t.reports, bus := t.bus } ∧
      StoreLeft .mover s t ∧ ExportBreaks (cutShort s [(a, bs)] 0 landed) t c b ending := by
  have hw : s.bus.write a bs = ({ s.bus with mem := s.bus.mem.write a (bs.take landed), fate := ending.outcomes }, false) :=
    Bus.write_fails hf
  rw [hw]
  generalize hu : s.setBus { s.bus with mem := s.bus.mem.write a (bs.take landed), fate := ending.outcomes } = u
  have hinu : inHand u 1 = some (c, b) := by rw [← hu]; exact hin
  obtain ⟨hstore, hmover⟩ := exportWriteError_lets_go hinu
  refine ⟨rfl, _, rfl, finishEvent_exportEnd hmover fun f hf => ?_, ?_, ?_⟩
  · rw [exportWriteError_unseen u f hf, ← hu]
    exact hf s s.store s.lanes s.mover s.reports _
  · refine storeLeft_congr (storeLeft_releaseHolder .mover s) ((finishEvent_store _).trans (hstore.trans ?_))
    rw [← hu]
    rfl
  · rw [cutShort_eq, ← hu]
    exact exportWriteError_spec (s := { s with bus := { s.bus with mem := s.bus.mem.write a (bs.take landed), fate := [] } })
      ⟨rfl, rfl, rfl, rfl⟩ hn rfl rfl hin

/-! ## The rows of a frame (R147) -/

section FrameRow
variable {s : State} {p : PortId} {o : ExportOperands} {i : SlotId} {w h : Nat} {count : Half} {stamp : Stamp} {row : Nat} {bus : Bus}

/-- A row of the frame that is being exported, as it lies in the slot. -/
def frameRow (s : State) (p : PortId) (i : SlotId) (w row : Nat) : List Byte := s.frameMem.readBytes (lineBase p i w row) (2 * w)

/-- The part after a row, the link as the row left it. -/
def rowMoved (s : State) (p : PortId) (o : ExportOperands) (i : SlotId) (w h : Nat) (count : Half) (stamp : Stamp) (row : Nat)
    (bus : Bus) : State :=
  { s.setBus bus with mover := .moving p o i w h count stamp (row + 1) }

/-- What the end of a frame's Export leaves besides the reports, after its last row (R32, R145). -/
theorem rowMoved_ends {c : Chain} {b : InHand} (hin : inHand s 1 = some (c, b)) :
    let t := finishEvent (completeExport count.toNat stamp w h (rowMoved s p o i w h count stamp row bus))
    t = { s with store := t.store, lanes := t.lanes, mover := .idle, reports := t.reports, bus := t.bus } ∧ StoreLeft .mover s t := by
  obtain ⟨hstore, hmover⟩ := completeExport_lets_go (u := rowMoved s p o i w h count stamp row bus) (count := count.toNat)
    (stamp := stamp) (w := w) (h := h) hin
  refine ⟨finishEvent_exportEnd hmover fun f hf => ?_, ?_⟩
  · rw [completeExport_unseen _ _ _ _ _ f hf]
    exact hf s s.store s.lanes _ s.reports bus
  · exact storeLeft_congr (storeLeft_releaseHolder .mover s) ((finishEvent_store _).trans hstore)

theorem exec_exportFrameRow (hm : s.mover = .moving p o i w h count stamp row) (hrow : row < h) (hs : FrameSize w h) :
    exec .exportFrameRow s =
      if (s.bus.write (o.dest + row * o.stride) (frameRow s p i w row)).2 then
        if row + 1 = h then
          .next (finishEvent (completeExport count.toNat stamp w h (rowMoved s p o i w h count stamp row
            (s.bus.write (o.dest + row * o.stride) (frameRow s p i w row)).1)))
        else .next (rowMoved s p o i w h count stamp row (s.bus.write (o.dest + row * o.stride) (frameRow s p i w row)).1)
      else .next (finishEvent (exportWriteError (s.setBus (s.bus.write (o.dest + row * o.stride) (frameRow s p i w row)).1))) := by
  show execExportFrameRow s = _
  unfold execExportFrameRow frameRow rowMoved
  rw [hm]
  dsimp only
  rw [if_pos (frameFits_of_size p i hs), if_pos hrow]
  rcases s.bus.write (o.dest + row * o.stride) (s.frameMem.readBytes (lineBase p i w row) (2 * w)) with ⟨bus, _ | _⟩ <;> rfl

end FrameRow

end Sys2Proof.Machine

namespace Sys2Proof.Proofs

open Sys2Proof Sys2Proof.Machine Sys2Proof.Safety

-- The proofs are elaborated in order: side by side, each would hold a thread of its own, and its memory.
set_option Elab.async false

/-- Settles O59, by what becomes of the row's write and, after the last row, of the end of the Export. -/
theorem frameRowsAreWritten : Obligations.FrameRowsAreWritten := by
  unfold Obligations.FrameRowsAreWritten
  intro s p o i w h count stamp row line s1 hm hrow hs fields
  have hexec := exec_exportFrameRow hm hrow hs
  refine ⟨fun hnext hq => ?_, fun c b hlast hb => ?_, fun c b ending hin hn =>
    ⟨fun landed hf => ?_, fun k landed hlast hk hf => ?_⟩⟩
  · rw [hexec, Bus.write_quiet hq, if_pos rfl, if_neg hnext.ne]
    rfl
  · obtain ⟨hin, -, hcalm⟩ := hb
    rw [Bus.write_quiet hcalm.2, if_pos rfl, if_pos hlast] at hexec
    exact ⟨_, hexec, and_assoc.1 ⟨rowMoved_ends hin, completeExport_ends (s := s1) ⟨rfl, rfl, rfl, rfl⟩ rfl hcalm hin⟩⟩
  · obtain ⟨hfails, t, ht, hbroken⟩ := rowWrite_fails (a := o.dest + row * o.stride) (bs := frameRow s p i w row) hin hn hf
    refine ⟨t, ?_, hbroken⟩
    rw [← ht, hexec, if_neg (ne_true_of_eq_false hfails)]
  · have hcompletes : s.bus.fate = .completed :: (failsAt k landed ++ ending.outcomes) := by
      rw [hf, Nat.add_comm]
      rfl
    rw [Bus.write_completes hcompletes, if_pos rfl, if_pos hlast] at hexec
    exact ⟨_, hexec, and_assoc.1 ⟨rowMoved_ends hin, completeExport_breaks (s := s1) ⟨rfl, rfl, rfl, rfl⟩ hn rfl hk hin⟩⟩

end Sys2Proof.Proofs
end

section
/-! The rows of an exported screen, and the frame end that completes it (R31, R102, R107, R151, R153, R154, R163, R170). -/

namespace Sys2Proof.Machine

open Safety

-- The proofs are elaborated in order: side by side, each would hold a thread of its own, and its memory.
set_option Elab.async false

/-! ## The rows of a screen (R102, R151) -/

theorem tilesFit_of_bounds {s : State} (hb : FramesInBounds s) (d : DisplayId) : tilesFit s.displays[d] = true := by
  obtain ⟨-, -, -, hshown⟩ := hb
  refine List.all_eq_true.2 fun t ht => ?_
  split
  · rfl
  · rename_i v hv
    exact frameFits_of_size v.port v.slot (hshown d t ht v hv)

theorem exec_exportScreenRow {s : State} {d : DisplayId} {o : ExportOperands} {w h : Nat} {stamp : Stamp} {count : Word} {row : Nat}
    (hm : s.mover = .copying d o w h stamp count row) (hrow : row < h) (hb : FramesInBounds s) :
    exec .exportScreenRow s =
      if (s.bus.write (o.dest + row * o.stride) (outputRow s s.displays[d] w row)).2 then
        .next { s.setBus (s.bus.write (o.dest + row * o.stride) (outputRow s s.displays[d] w row)).1 with
          mover := .copying d o w h stamp count (row + 1) }
      else .next (finishEvent (exportWriteError
        (s.setBus (s.bus.write (o.dest + row * o.stride) (outputRow s s.displays[d] w row)).1))) := by
  show execExportScreenRow s = _
  unfold execExportScreenRow
  rw [hm]
  dsimp only
  rw [if_pos (tilesFit_of_bounds hb d), if_pos hrow]
  rcases s.bus.write (o.dest + row * o.stride) (outputRow s s.displays[d] w row) with ⟨bus, _ | _⟩ <;> rfl

/-! ## The frame end of a display whose screen has been copied (R107, R151) -/

theorem Slot.release_of_not_mem {t : Slot} {h : Holder} (hn : t.locks.mem h = false) : t.release h = t :=
  if_neg (ne_true_of_eq_false hn)

/-- Nothing happens where a holder of no slot leaves. -/
theorem releaseHolder_store_of_free {s : State} {h : Holder}
    (hfree : ∀ (p : PortId) (i : SlotId), s.store[p].slots[i].locks.mem h = false) : (releaseHolder h s).store = s.store := by
  have hport (p : PortId) : (s.store[p]).release h = s.store[p] := by
    have hslots : (Vector.ofFn fun i : SlotId => (s.store[p].slots[i]).release h) = s.store[p].slots :=
      Vector.ext fun i hi => (Vector.getElem_ofFn hi).trans (Slot.release_of_not_mem (hfree p ⟨i, hi⟩))
    unfold StorePort.release
    rw [hslots]
  exact Vector.ext fun p hp => (Vector.getElem_ofFn hp).trans (hport ⟨p, hp⟩)

/-- While a screen is copied, no slot is held for the Export Mover (R32), after the loss of another holder too. -/
theorem mover_free_of_copying {s : State} {d : DisplayId} {o : ExportOperands} {w h : Nat} {stamp : Stamp} {count : Word} {row : Nat}
    (hb : HoldersBounded s) (hm : s.mover = .copying d o w h stamp count row) (p : PortId) (i : SlotId) :
    (frameEnded d s).store[p].slots[i].locks.mem .mover = false := by
  obtain ⟨-, -, -, hmover⟩ := hb
  have hfree : s.store[p].slots[i].locks.mem .mover = false := by
    by_contra hheld
    obtain ⟨ops, w, h, c, t, n, hmoving⟩ := hmover p i (eq_true_of_ne_false hheld)
    rw [hm] at hmoving
    cases hmoving
  have hp : (frameEnded d s).store[p] = (s.store[p]).release (.display d) := getElem_ofFn_fin _ _
  rw [hp, StorePort.release_slot, Slot.release_mem, hfree, Bool.and_false]

section ScreenEnd
variable {s : State} {d : DisplayId} {o : ExportOperands} {w h : Nat} {stamp : Stamp} {count : Word} {row : Nat} {g : Timing}

theorem exportAtEnd_copying (hm : s.mover = .copying d o w h stamp count row) :
    exportAtEnd d (frameEnded d s) = completeExport count.toNat stamp w h (frameEnded d s) := by
  have hm' : (frameEnded d s).mover = .copying d o w h stamp count row := hm
  unfold exportAtEnd
  rw [hm']
  exact if_pos rfl

theorem exec_frameEnd_copying (hm : s.mover = .copying d o w h stamp count row) (hrow : h ≤ row)
    (hc : s.displays[d].configured = true) (hg : s.displays[d].timing = some g) (hended : g.ended = false)
    (hr : reached s.clock (stampAfter g.start g.period) = true) :
    exec (.frameEnd d) s = .next (finishEvent (completeExport count.toNat stamp w h (frameEnded d s))) := by
  have hrows : s.mover.allRows = true := by
    rw [hm]
    exact decide_eq_true hrow
  rw [exec_frameEnd ((endDue_eq hc hg hended fun _ _ _ _ _ _ _ => hrows).trans hr), exportAtEnd_copying hm]

/-- What the frame end of a display leaves besides the reports, its screen Export completed or broken. -/
theorem screenEnd_leaves {c : Chain} {b : InHand} (hm : s.mover = .copying d o w h stamp count row) (hb : HoldersBounded s)
    (hg : s.displays[d].timing = some g) (hin : inHand s 1 = some (c, b)) :
    let t := finishEvent (completeExport count.toNat stamp w h (frameEnded d s))
    t = { s with
      store := t.store, displays := t.displays, lanes := t.lanes, mover := .idle, reports := t.reports, bus := t.bus } ∧
    t.displays = s.displays.set d { s.displays[d] with timing := some { g with ended := true } } ∧ StoreLeft (.display d) s t := by
  obtain ⟨hstore, hmover⟩ := completeExport_lets_go (u := frameEnded d s) (count := count.toNat) (stamp := stamp) (w := w) (h := h) hin
  have hfree : (releaseHolder .mover (frameEnded d s)).store = (frameEnded d s).store :=
    releaseHolder_store_of_free (mover_free_of_copying hb hm)
  have hd : (finishEvent (completeExport count.toNat stamp w h (frameEnded d s))).displays =
      s.displays.set d { s.displays[d] with timing := some { g with ended := true } } := by
    rw [← frameEnded_displays hg]
    simp
  refine ⟨?_, hd, storeLeft_congr (storeLeft_releaseHolder (.display d) s)
    ((finishEvent_store _).trans (hstore.trans hfree))⟩
  refine (finishEvent_exportEnd (s := frameEnded d s) hmover fun f hf => completeExport_unseen _ _ _ _ _ f hf).trans ?_
  rw [hd, ← frameEnded_displays hg]
  rfl

end ScreenEnd

end Sys2Proof.Machine

namespace Sys2Proof.Proofs

open Sys2Proof Sys2Proof.Machine Sys2Proof.Safety

-- The proofs are elaborated in order: side by side, each would hold a thread of its own, and its memory.
set_option Elab.async false

/-- Settles O60: a row is one write, and the frame end is the loss of a holder with the end of the Export. -/
theorem screenRowsAreWritten : Obligations.ScreenRowsAreWritten := by
  unfold Obligations.ScreenRowsAreWritten
  intro s d o w h stamp count row p pixels hm
  refine ⟨fun hrow hbounds => ?_, fun g c b hrow hc hg hended hr hb hin hn => ?_⟩
  · have hexec := exec_exportScreenRow hm hrow hbounds
    refine ⟨fun hq => ?_, fun c b landed ending hin hn hf => ?_⟩
    · rw [hexec, Bus.write_quiet hq, if_pos rfl]
      rfl
    · obtain ⟨hfails, t, ht, hbroken⟩ :=
        rowWrite_fails (a := o.dest + row * o.stride) (bs := outputRow s s.displays[d] w row) hin hn hf
      refine ⟨t, ?_, hbroken⟩
      rw [← ht, hexec, if_neg (ne_true_of_eq_false hfails)]
  · have hexec := exec_frameEnd_copying hm hrow hc hg hended hr
    have hdesk : SameDesk s (frameEnded d s) := ⟨rfl, rfl, rfl, rfl⟩
    obtain ⟨hshape, hdisplays, hleft⟩ := screenEnd_leaves hm hb hg hin
    exact ⟨fun hq => ⟨_, hexec, hshape, hdisplays, hleft, completeExport_ends hdesk rfl ⟨hn, hq⟩ hin⟩,
      fun k landed ending hk hf =>
        ⟨_, hexec, hshape, hdisplays, hleft, completeExport_breaks hdesk hn (by rw [← hf]; rfl) hk hin⟩⟩

end Sys2Proof.Proofs
end

section
/-! The ports that are off (section 1.2 of chapter 1, R48, R181 to R184) as one invariant of the part, and how each operation of the
model keeps it. -/

namespace Sys2Proof.Machine

open Safety

-- The proofs are elaborated in order: side by side, each would hold a thread of its own, and its memory.
set_option Elab.async false

/-- An UNDEFINED port is PARKED, and no entry of a PARKED port waits for evaluation. A wake and the entry to stabling go through
states of which no more holds. -/
structure PortsOff (s : State) : Prop where
  undefined : ∀ p : PortId, s.ports[p].undefined = true → s.ports[p].state = .parked
  queue : ∀ e ∈ s.evalQueue, s.ports[e.port].state ≠ .parked

/-- Every port is PARKED and every door SHUT. -/
structure AtRest (s : State) : Prop where
  ports : ∀ p : PortId, s.ports[p].state = .parked
  doors : ∀ d : DoorId, s.doors[d].state = .shut

/-- The ports that are off are PARKED, and a STABLED part is at rest. -/
structure OffParked (s : State) : Prop where
  off : PortsOff s
  stabled : s.mode = .stabled → AtRest s

theorem offParked_iff (s : State) : OffParked s ↔ ParkedWhereOff s := by
  constructor
  · rintro ⟨⟨hu, hq⟩, hm⟩
    exact ⟨hu, hq, fun h => ⟨(hm h).ports, (hm h).doors⟩⟩
  · rintro ⟨hu, hq, hm⟩
    exact ⟨⟨hu, hq⟩, fun h => ⟨(hm h).1, (hm h).2⟩⟩

/-- Every door that is SHUT in `s` is SHUT in `t`. -/
def DoorsStayShut (s t : State) : Prop := ∀ d : DoorId, s.doors[d].state = .shut → t.doors[d].state = .shut

theorem doorsStayShut_of_eq {s t : State} (h : t.doors = s.doors) : DoorsStayShut s t := fun _ hd => by rw [h]; exact hd

theorem DoorsStayShut.trans {s t u : State} (h : DoorsStayShut s t) (hu : DoorsStayShut t u) : DoorsStayShut s u :=
  fun d hd => hu d (h d hd)

section Frame
variable {s t : State}

theorem PortsOff.of (h : PortsOff s) (ports : t.ports = s.ports := by simp) (queue : t.evalQueue = s.evalQueue := by simp) :
    PortsOff t := by
  obtain ⟨hu, hq⟩ := h
  exact ⟨by rw [ports]; exact hu, by rw [ports, queue]; exact hq⟩

/-- In RUN a part need not be at rest. -/
theorem PortsOff.inRun (h : PortsOff s) (hm : s.mode = .run) : OffParked s := ⟨h, fun hs => by rw [hm] at hs; cases hs⟩

/-- The invariant reads the ports, the evaluation queue, the mode and the state of each door. -/
theorem OffParked.of (h : OffParked s) (ports : t.ports = s.ports := by simp) (queue : t.evalQueue = s.evalQueue := by simp)
    (mode : t.mode = s.mode := by simp) (doors : DoorsStayShut s t := by exact doorsStayShut_of_eq (by simp)) : OffParked t := by
  refine ⟨h.off.of ports queue, fun hm => ?_⟩
  obtain ⟨hp, hd⟩ := h.stabled (mode ▸ hm)
  exact ⟨by rw [ports]; exact hp, fun d => doors d (hd d)⟩

/-- A port takes another value; the entries that stay in the queue are those of a port that is not PARKED. -/
theorem PortsOff.port (h : PortsOff s) (p : PortId) {q : CapturePort} (ports : t.ports = s.ports.set p q)
    (undefined : q.undefined = true → q.state = .parked)
    (queue : ∀ e ∈ t.evalQueue, if e.port = p then q.state ≠ .parked else e ∈ s.evalQueue) : PortsOff t := by
  obtain ⟨hu, hq⟩ := h
  refine ⟨by rw [ports]; exact forall_getElem_set (P := fun q : CapturePort => q.undefined = true → q.state = .parked) hu p undefined,
    fun e he => ?_⟩
  have hqueue := queue e he
  rw [ports, getElem_set_fin]
  split
  · rename_i hp
    rwa [if_pos hp.symm] at hqueue
  · rename_i hp
    rw [if_neg (Ne.symm hp)] at hqueue
    exact hq e hqueue

/-- A port takes another value, with the doors and the mode as they were. -/
theorem OffParked.port (h : OffParked s) (p : PortId) {q : CapturePort} (ports : t.ports = s.ports.set p q)
    (undefined : q.undefined = true → q.state = .parked) (stabled : s.mode = .stabled → q.state = .parked)
    (queue : ∀ e ∈ t.evalQueue, if e.port = p then q.state ≠ .parked else e ∈ s.evalQueue)
    (mode : t.mode = s.mode := by simp) (doors : t.doors = s.doors := by simp) : OffParked t := by
  refine ⟨h.off.port p ports undefined queue, fun hm => ?_⟩
  rw [mode] at hm
  obtain ⟨hp, hd⟩ := h.stabled hm
  exact ⟨by rw [ports]; exact forall_getElem_set (P := fun q : CapturePort => q.state = .parked) hp p (stabled hm), by rw [doors]; exact hd⟩

/-- A port changes, its flag and its state stand. -/
theorem OffParked.samePort (h : OffParked s) (p : PortId) {q : CapturePort} (ports : t.ports = s.ports.set p q := by rfl)
    (hu : q.undefined = s.ports[p].undefined := by rfl) (hs : q.state = s.ports[p].state := by rfl)
    (queue : t.evalQueue = s.evalQueue := by simp) (mode : t.mode = s.mode := by simp) (doors : t.doors = s.doors := by simp) :
    OffParked t := by
  refine h.port p ports (by rw [hu, hs]; exact h.off.undefined p) (fun hm => by rw [hs]; exact (h.stabled hm).ports p)
    (fun e he => ?_) mode doors
  rw [queue] at he
  split
  · rename_i hp
    rw [hs, ← hp]
    exact h.off.queue e he
  · exact he

/-- A port that is not PARKED goes to a state other than PARKED; its entries may join the queue (R46). -/
theorem OffParked.runsOn (h : OffParked s) (p : PortId) {q : CapturePort} (hk : s.ports[p].state ≠ .parked)
    (ports : t.ports = s.ports.set p q) (hu : q.undefined = s.ports[p].undefined) (hs : q.state ≠ .parked)
    (queue : ∀ e ∈ t.evalQueue, e.port = p ∨ e ∈ s.evalQueue) (mode : t.mode = s.mode := by simp)
    (doors : t.doors = s.doors := by simp) : OffParked t := by
  refine h.port p ports (fun hq => absurd (h.off.undefined p (hu ▸ hq)) hk) (fun hm => absurd ((h.stabled hm).ports p) hk)
    (fun e he => ?_) mode doors
  split
  · exact hs
  · rename_i hp
    exact (queue e he).resolve_left hp

/-- A port whose entries have left the queue takes another state (R48). -/
theorem OffParked.stopped (h : OffParked s) (p : PortId) {q : CapturePort} (ports : t.ports = s.ports.set p q)
    (undefined : q.undefined = true → q.state = .parked) (stabled : s.mode = .stabled → q.state = .parked)
    (queue : t.evalQueue = s.evalQueue.filter fun e => decide (e.port ≠ p)) (mode : t.mode = s.mode := by simp)
    (doors : t.doors = s.doors := by simp) : OffParked t := by
  refine h.port p ports undefined stabled (fun e he => ?_) mode doors
  rw [queue, List.mem_filter, decide_eq_true_eq] at he
  rw [if_neg he.2]
  exact he.1

end Frame

variable {s : State}

/-- No entry of a PARKED port is in the queue. -/
theorem PortsOff.no_entry (h : PortsOff s) {p : PortId} (hk : s.ports[p].state = .parked) : ∀ e ∈ s.evalQueue, e.port ≠ p := by
  rintro e he rfl
  exact h.queue e he hk

/-- The queue as it was, where a PARKED port takes another value. -/
theorem PortsOff.entry_of_other (h : PortsOff s) {p : PortId} (hk : s.ports[p].state = .parked) {runs : Prop} :
    ∀ e ∈ s.evalQueue, if e.port = p then runs else e ∈ s.evalQueue := by
  intro e he
  rw [if_neg (h.no_entry hk e he)]
  exact he

theorem OffParked.finish (h : OffParked s) : OffParked (finishEvent s) := h.of

/-! ## Ports (chapter 1) -/

theorem OffParked.abortFrame (h : OffParked s) (p : PortId) : OffParked (abortFrame p s) := by
  obtain ⟨hports, -⟩ := abortFrame_spec p s
  exact h.samePort p hports

theorem OffParked.openFrame (h : OffParked s) (p : PortId) (count : Half) : OffParked (openFrame p count s) := by
  unfold Machine.openFrame
  dsimp only
  split
  · exact h
  · exact h.samePort p

theorem OffParked.takeOpen (h : OffParked s) (p : PortId) (count width height : Half) : OffParked (takeOpen p count width height s) := by
  have h1 := h.abortFrame p
  unfold Machine.takeOpen
  dsimp only
  split
  · exact h1.openFrame p count
  · exact h1.samePort p

/-- A run of patched lines leaves the port's flag and state. -/
theorem OffParked.patchLines (h : OffParked s) {p : PortId} {f : FrameInProgress} (hf : s.ports[p].frame = some f) (n : Nat) :
    OffParked (patchLines p n s) := by
  obtain ⟨-, hports, -⟩ := patchLines_spec p n s f hf
  exact h.samePort p hports

theorem OffParked.takeLine (h : OffParked s) {p : PortId} {f : FrameInProgress} (hf : s.ports[p].frame = some f) (n : Nat)
    (payload : List Byte) (check : Half) : OffParked (takeLine p f n payload check s) := by
  by_cases hn : s.ports[p].camera.height ≤ n ∨ n < f.next
  · rw [takeLine_disorder payload check hn]
    exact h.samePort p
  · rw [takeLine_eq payload check hf (by omega) (by omega)]
    split
    · exact (h.patchLines hf _).samePort p
    · exact h.patchLines hf _

/-- The entry of a clean frame that joins the queue is of the port whose frame has closed (R46). -/
theorem soilClose_queue (p : PortId) (clean due : Bool) (stamp : Stamp) (sums : Vector CellSums 48) (s : State) :
    ∀ e ∈ (soilClose p clean due stamp sums s).evalQueue, e.port = p ∨ e ∈ s.evalQueue := by
  have hs := soilClose_spec p clean due stamp sums s
  intro e he
  dsimp only at hs
  split at hs
  · exact .inr (hs.2 ▸ he)
  · split at hs
    · exact .inr (hs.2 ▸ he)
    · split at hs
      · rw [hs.2, List.mem_append, List.mem_singleton] at he
        rcases he with he | rfl
        · exact .inr he
        · exact .inl rfl
      · exact .inr (hs.2 ▸ he)

theorem OffParked.closeGood (h : OffParked s) {p : PortId} (hk : s.ports[p].state ≠ .parked) (f : FrameInProgress) :
    OffParked (closeGood p f s) := by
  obtain ⟨hports, -, -, hqueue⟩ := closeGood_fields p f s
  refine h.runsOn p hk hports rfl (fun hl => nomatch hl) fun e he => ?_
  rw [hqueue] at he
  exact soilClose_queue _ _ _ _ _ _ e he

theorem OffParked.closeBad (h : OffParked s) (p : PortId) (f : FrameInProgress) : OffParked (closeBad p f s) := h.samePort p

theorem OffParked.takeClose (h : OffParked s) {p : PortId} {f : FrameInProgress} (hf : s.ports[p].frame = some f)
    (hk : s.ports[p].state ≠ .parked) (count : Half) : OffParked (takeClose p f count s) := by
  have hpatched := h.patchLines hf (s.ports[p].camera.height - f.next)
  rw [takeClose_eq count hf]
  split
  · refine hpatched.closeGood ?_ _
    obtain ⟨-, hports, -⟩ := patchLines_spec p (s.ports[p].camera.height - f.next) s f hf
    rw [hports, getElem_set_same]
    exact hk
  · exact hpatched.closeBad p _

theorem OffParked.losePort (h : OffParked s) {p : PortId} (hk : s.ports[p].state ≠ .parked) : OffParked (losePort p s) := by
  obtain ⟨hports, -⟩ := losePort_fields p s
  exact h.runsOn p hk hports rfl (fun hl => nomatch hl) fun e he => .inr (by simpa using he)

theorem OffParked.parkPort (h : OffParked s) (p : PortId) : OffParked (parkPort p s) := by
  obtain ⟨hports, -, -, hqueue⟩ := parkPort_spec p s
  obtain ⟨-, -, -, hstop⟩ := stopPort_spec p s
  exact h.stopped p hports (fun _ => rfl) (fun _ => rfl) (hqueue.trans hstop)

theorem OffParked.restartPort (h : OffParked s) (p : PortId) : OffParked (restartPort p s) := by
  obtain ⟨hports, -, -, hqueue⟩ := restartPort_spec p s
  obtain ⟨-, -, -, hstop⟩ := stopPort_spec p s
  refine h.stopped p hports (fun hu => ?_) (fun hm => ?_) (hqueue.trans hstop)
  · have hu : s.ports[p].undefined = true := hu
    exact if_neg fun hr => absurd hr.1 (by rw [hu]; decide)
  · exact if_neg fun hr => absurd hr.2 (by rw [hm]; decide)

theorem PortsOff.seekPort (h : PortsOff s) {p : PortId} (hk : s.ports[p].state = .parked) (hu : s.ports[p].undefined = false) :
    PortsOff (seekPort p s) := by
  refine h.port p (seekPort_ports p s) (fun he => ?_) (by simpa only [seekPort_keeps] using h.entry_of_other hk)
  have he : s.ports[p].undefined = true := he
  rw [hu] at he
  cases he

theorem OffParked.seekPort (h : OffParked s) {p : PortId} (hk : s.ports[p].state = .parked) (hu : s.ports[p].undefined = false)
    (hm : s.mode = .run) : OffParked (seekPort p s) := (h.off.seekPort hk hu).inRun (by simp [hm])

theorem OffParked.defineCamera (h : OffParked s) {p : PortId} (hk : s.ports[p].state = .parked) (c : CameraRecord) :
    OffParked (defineCamera p c s) :=
  h.port p defineCamera_ports (fun _ => hk) (fun _ => hk) (by simpa only [defineCamera_keeps] using h.off.entry_of_other hk)

/-! ## Doors (chapters 6 and 7) -/

theorem policy_shut {r : Door} (h : r.state = .shut) (isolated : Bool) (dwell : Nat) (clock : Stamp) :
    (r.policy isolated dwell clock).state = .shut := by
  simp only [Door.policy, h]

theorem frameStep_shut {r : Door} (h : r.state = .shut) (stamp : Stamp) (view : Option (DisplayId × Nat)) :
    (r.frameStep stamp view).state = .shut := by
  simp only [Door.frameStep, h]

theorem handover_shut {r : Door} (h : r.state = .shut) : r.handover.state = .shut := by
  simp only [Door.handover, h]

/-- Every door takes a step that leaves a SHUT door SHUT. -/
theorem doorsStayShut_ofFn {s t : State} {f : DoorId → Door} (ht : t.doors = Vector.ofFn f)
    (hf : ∀ d, s.doors[d].state = .shut → (f d).state = .shut) : DoorsStayShut s t := by
  intro d hd
  rw [ht, getElem_ofFn_fin]
  exact hf d hd

theorem doorSteps_shut (d : DisplayId) (s : State) : DoorsStayShut s (doorSteps d s) := by
  unfold doorSteps
  split
  · exact doorsStayShut_ofFn (f := fun k => (s.doors[k]).frameStep s.clock (qualifyingView s (cabOf d) k)) (by simp) fun k hk =>
      frameStep_shut hk _ _
  · exact fun _ hd => hd

theorem takeFrameStart_shut (d : DisplayId) (s : State) : DoorsStayShut s (takeFrameStart d s) := by
  have hsteps : DoorsStayShut s (doorSteps d (exportAtStart d (pipeStarted d s))) :=
    (doorsStayShut_of_eq (by simp [pipeStarted])).trans (doorSteps_shut d _)
  rw [takeFrameStart_eq]
  split
  · exact hsteps.trans (doorsStayShut_of_eq (by simp))
  · exact hsteps

/-- A door's line and timer change, its state stands. -/
theorem OffParked.sameDoor (h : OffParked s) (k : DoorId) {r : Door} (hr : r.state = s.doors[k].state := by rfl) :
    OffParked (s.setDoor k r) := by
  refine h.of (doors := fun d hd => ?_)
  rw [State.setDoor_doors, getElem_set_fin]
  split
  · rename_i hk; subst hk; exact hr.trans hd
  · exact hd

theorem PortsOff.wakePort (h : PortsOff s) (p : PortId) : PortsOff (wakePort s p) := by
  unfold Machine.wakePort
  split
  · rename_i hw
    simp only [Bool.and_eq_true, Bool.not_eq_true', decide_eq_true_eq] at hw
    obtain ⟨⟨-, hu⟩, hk⟩ := hw
    exact h.seekPort hk hu
  · exact h

theorem PortsOff.wakePorts (ps : List PortId) {s : State} (h : PortsOff s) : PortsOff (ps.foldl Machine.wakePort s) := by
  induction ps generalizing s with
  | nil => exact h
  | cons p ps ih => exact ih (h.wakePort p)

theorem PortsOff.leaveStabling (h : PortsOff s) (cause : WakeCause) : PortsOff (leaveStabling cause s) := by
  have hw := PortsOff.wakePorts (List.finRange 12) h
  unfold Machine.leaveStabling
  generalize (List.finRange 12).foldl Machine.wakePort s = u at hw
  exact hw.of rfl rfl

theorem leaveStabling_mode (cause : WakeCause) (s : State) : (leaveStabling cause s).mode = .run := rfl

theorem OffParked.wakePart (h : OffParked s) (cause : WakeCause) : OffParked (wakePart cause s) := by
  unfold Machine.wakePart
  split
  · exact h
  · exact PortsOff.inRun ((h.off.leaveStabling cause).of) (by simp [leaveStabling_mode])

/-- A door changes in RUN, or wakes the part (R133, R137, R184). -/
theorem OffParked.doorLevel (h : OffParked s) (k : DoorId) (level : Bool) : OffParked (doorLevel k level s) := by
  unfold Machine.doorLevel
  split
  · rename_i hm
    exact PortsOff.inRun (h.off.of) (by simp [hm])
  · exact PortsOff.inRun ((h.off.leaveStabling (.door k)).of) (by simp [leaveStabling_mode])

/-! ## Entry to stabling (R181, R182) -/

theorem OffParked.parkRunning (h : OffParked s) (p : PortId) : OffParked (parkRunning s p) := by
  unfold Machine.parkRunning
  split
  · exact h
  · exact h.parkPort p

theorem OffParked.parkPorts (ps : List PortId) {s : State} (h : OffParked s) : OffParked (ps.foldl Machine.parkRunning s) := by
  induction ps generalizing s with
  | nil => exact h
  | cons p ps ih => exact ih (h.parkRunning p)

theorem parkRunning_parks (s : State) (p r : PortId) (h : p = r ∨ s.ports[r].state = .parked) :
    (parkRunning s p).ports[r].state = .parked := by
  by_cases hk : s.ports[p].state = .parked
  · rw [show parkRunning s p = s from if_pos hk]
    rcases h with rfl | h
    · exact hk
    · exact h
  · obtain ⟨hports, -⟩ := parkPort_spec p s
    rw [show parkRunning s p = parkPort p s from if_neg hk, hports, getElem_set_fin]
    split
    · rfl
    · rename_i hne
      exact h.resolve_left hne

theorem parkPorts_parks (ps : List PortId) (s : State) (r : PortId) (h : r ∈ ps ∨ s.ports[r].state = .parked) :
    (ps.foldl parkRunning s).ports[r].state = .parked := by
  induction ps generalizing s with
  | nil => exact h.resolve_left List.not_mem_nil
  | cons p ps ih =>
    refine ih _ ?_
    rcases h with hr | hr
    · rcases List.mem_cons.mp hr with rfl | hr
      · exact .inr (parkRunning_parks s r r (.inl rfl))
      · exact .inl hr
    · exact .inr (parkRunning_parks s p r (.inr hr))

theorem state_shut_of_isShut {t : DoorState} (h : t.isShut = true) : t = .shut := by
  cases t with
  | shut => rfl
  | opened => cases h
  | viewing _ => cases h
  | assured _ => cases h

theorem shut_of_allShut (h : allShut s = true) (d : DoorId) : s.doors[d].state = .shut :=
  state_shut_of_isShut (List.all_eq_true.mp h d (List.mem_finRange d))

/-- A part whose ports are all parked and whose doors are all SHUT enters stabling. -/
theorem OffParked.stable {u : State} (h : PortsOff u) (hr : AtRest u) : OffParked { u with mode := .stabled } :=
  ⟨h.of rfl rfl, fun _ => ⟨hr.ports, hr.doors⟩⟩

theorem OffParked.enterStabling (h : OffParked s) (hd : allShut s = true) : OffParked (enterStabling s) := by
  have hstart : OffParked { s with wakeRecord := Vector.ofFn fun p => decide (s.ports[p].state ≠ .parked) } := h.of
  have hparked := OffParked.parkPorts (List.finRange 12) hstart
  have hports := fun p : PortId => parkPorts_parks (List.finRange 12)
    { s with wakeRecord := Vector.ofFn fun p => decide (s.ports[p].state ≠ .parked) } p (.inl (List.mem_finRange p))
  have hstable := OffParked.stable hparked.off ⟨hports, by simpa using shut_of_allShut hd⟩
  exact hstable.of (t := Machine.enterStabling s) (by simp [Machine.enterStabling]) (by simp [Machine.enterStabling])
    (by simp [Machine.enterStabling]) (doorsStayShut_of_eq (by simp))

/-! ## The blocks of the displays, the doors and the cab -/

theorem OffParked.setDisplay (h : OffParked s) (d : DisplayId) (settings : DisplaySettings) : OffParked (setDisplay d settings s) := by
  refine h.of (doors := ?_)
  unfold Machine.setDisplay
  dsimp only
  split
  · exact doorsStayShut_of_eq (by simp)
  · exact (doorsStayShut_of_eq (by simp)).trans (takeFrameStart_shut d _)

theorem OffParked.handover (h : OffParked s) (cab : Option AB) : OffParked (handover cab s) := by
  refine h.of (doors := doorsStayShut_ofFn ?_ fun d hd => handover_shut hd)
  simp [Machine.handover, recomputeOverrides, handoverDoors]

theorem OffParked.setDoorPolicy (h : OffParked s) (body : List Byte) : OffParked (setDoorPolicy body s) :=
  h.of (doors := doorsStayShut_ofFn (by simp [Machine.setDoorPolicy]; rfl) fun d hd => policy_shut hd _ _ _)

end Sys2Proof.Machine
end

section
/-! Every command keeps the ports that are off PARKED, and a STABLED part at rest. -/

namespace Sys2Proof.Machine

open Safety

-- The proofs are elaborated in order: side by side, each would hold a thread of its own, and its memory.
set_option Elab.async false

/-- In every state that an outcome can go on to, the ports that are off are PARKED. -/
def KeepsParked (o : Host.Outcome State Fault Refusal) : Prop := ∀ t, o = .next t → OffParked t

variable {s : State}

theorem OffParked.keeps (h : OffParked s) : KeepsParked (.next s) := by
  rintro _ ⟨⟩; exact h

theorem keepsParked_fault (f : Fault) : KeepsParked (.fault f) := by
  intro t h
  cases h

/-! ## Packets, timers and frames -/

theorem OffParked.frameOpen (h : OffParked s) (p : PortId) (count width height : Half) :
    KeepsParked (execFrameOpen p count width height s) := by
  unfold execFrameOpen
  split
  · exact h.keeps
  · exact (h.takeOpen p count width height).finish.keeps

theorem OffParked.line (h : OffParked s) (p : PortId) (n : Half) (payload : List Byte) (check : Half) :
    KeepsParked (execLine p n payload check s) := by
  unfold execLine
  split
  · exact h.keeps
  · split
    · exact h.keeps
    · rename_i f hf
      split
      · exact (h.takeLine hf _ _ _).finish.keeps
      · exact keepsParked_fault _

/-- A frame that closes is one of a port that is not PARKED, so the port may go LIVE and its entry join the queue. -/
theorem OffParked.frameClose (h : OffParked s) (p : PortId) (count : Half) : KeepsParked (execFrameClose p count s) := by
  unfold execFrameClose
  split
  · exact h.keeps
  · rename_i hk
    split
    · exact h.keeps
    · rename_i f hf
      split
      · exact (h.takeClose hf hk count).finish.keeps
      · exact keepsParked_fault _

/-- Only the timer of a LIVE port expires. -/
theorem OffParked.silenceTimerExpiry (h : OffParked s) (p : PortId) : KeepsParked (execSilenceTimerExpiry p s) := by
  unfold execSilenceTimerExpiry
  split
  · rename_i he
    obtain ⟨hl, -⟩ := (silenceExpired_iff s p).1 he
    exact (h.losePort (by rw [hl]; decide)).finish.keeps
  · exact h.keeps

/-- The oldest entry leaves the queue. -/
theorem OffParked.dequeue (h : OffParked s) {e : EvalEntry} {rest : List EvalEntry} (hq : s.evalQueue = e :: rest) :
    OffParked { s with evalQueue := rest } := by
  obtain ⟨⟨hu, hqueue⟩, hm⟩ := h
  exact ⟨⟨hu, fun x hx => hqueue x (by rw [hq]; exact List.mem_cons_of_mem e hx)⟩, fun hs => ⟨(hm hs).ports, (hm hs).doors⟩⟩

theorem OffParked.evaluationService (h : OffParked s) : KeepsParked (execEvaluationService s) := by
  unfold execEvaluationService
  split
  · exact h.keeps
  · rename_i e rest hq
    exact OffParked.keeps (h.dequeue hq).of

theorem OffParked.frameStart (h : OffParked s) (d : DisplayId) : KeepsParked (execFrameStart d s) := by
  have hstart : OffParked (takeFrameStart d s) := h.of (doors := takeFrameStart_shut d s)
  unfold execFrameStart
  split
  · exact hstart.finish.keeps
  · exact h.keeps

theorem OffParked.frameEnd (h : OffParked s) (d : DisplayId) : KeepsParked (execFrameEnd d s) := by
  unfold execFrameEnd
  split
  · exact OffParked.keeps h.of
  · exact h.keeps

theorem OffParked.holdExpiry (h : OffParked s) (d : DisplayId) (side : CabSide) : KeepsParked (execHoldExpiry d side s) := by
  unfold execHoldExpiry
  cases side with
  | left => exact OffParked.keeps h.of
  | right => exact OffParked.keeps h.of

theorem OffParked.doorLineEdge (h : OffParked s) (k : DoorId) (level : Bool) : KeepsParked (execDoorLineEdge k level s) := by
  unfold execDoorLineEdge
  dsimp only
  split
  · exact h.keeps
  · split
    · exact (h.sameDoor k).keeps
    · split
      · exact (OffParked.doorLevel (h.sameDoor k) k level).finish.keeps
      · exact (h.sameDoor k).keeps

theorem OffParked.debounceExpiry (h : OffParked s) (k : DoorId) : KeepsParked (execDebounceExpiry k s) := by
  have hd : OffParked (s.setDoor k { s.doors[k] with timer := none }) := h.sameDoor k
  unfold execDebounceExpiry
  dsimp only
  split
  · exact h.keeps
  · split
    · split
      · exact hd.keeps
      · exact (hd.doorLevel k _).finish.keeps
    · exact h.keeps

/-! ## The register window and the attention words -/

/-- A write of a register reaches the window and the reports only. -/
theorem OffParked.writeRegister (h : OffParked s) (value : Word) (r : HostRegister) : OffParked (writeRegister value s r) := by
  cases r with
  | ident => exact h
  | areaLo =>
    show OffParked (writeAreaLo value s)
    unfold writeAreaLo
    split <;> exact h.of
  | areaHi =>
    show OffParked (writeAreaHi value s)
    unfold writeAreaHi
    split <;> exact h.of
  | areaSize =>
    show OffParked (writeAreaSize value s)
    unfold writeAreaSize
    split
    · exact h.of
    · dsimp only
      split <;> exact h.of
  | command => exact h.of (t := s.setWindow _)
  | attention =>
    show OffParked (writeAttention value s)
    unfold writeAttention
    split <;> exact h.of
  | status => exact h
  | resetCause => exact h.of (t := s.setWindow _)

/-- A captured word is taken. -/
theorem OffParked.takeWord (h : OffParked s) (code : Nat) (effect : Word → Word → State → State)
    (he : ∀ w head u, OffParked u → OffParked (effect w head u)) : KeepsParked (takeWord code effect s) := by
  unfold Machine.takeWord
  split
  · exact h.keeps
  · split
    · exact (he _ _ _ h.of).finish.keeps
    · exact h.keeps

theorem OffParked.runChain (h : OffParked s) (w head : Word) : OffParked (runChain w head s) := by
  unfold Machine.runChain
  split
  · exact h.of
  · split
    · exact h.of
    · split
      · exact h.of
      · exact (h.wakePart .runChain).of

theorem OffParked.restartByWord (h : OffParked s) (w head : Word) : OffParked (restartByWord w head s) := by
  unfold Machine.restartByWord
  split
  · exact h.restartPort _
  · split
    · exact h.of
    · split
      · exact h.of
      · split
        · exact h.of
        · exact h.of

theorem OffParked.badCode (h : OffParked s) : KeepsParked (execBadCode s) := by
  unfold execBadCode
  split
  · exact h.keeps
  · split
    · exact h.keeps
    · exact OffParked.keeps h.of

/-! ## The lanes and their blocks -/

/-- A lane walks to a block: lanes, reports and the link only. -/
theorem OffParked.reachBlock (h : OffParked s) (l : LaneId) (c : Chain) (rest : Chain → Header → State → State)
    (hr : ∀ c g u, OffParked u → OffParked (rest c g u)) : OffParked (reachBlock l c rest s) := by
  unfold Machine.reachBlock
  split
  · split
    · exact h.of
    · exact hr _ _ _ h.of
  · exact h.of

theorem OffParked.headerRead (h : OffParked s) (l : LaneId) : KeepsParked (execHeaderRead l s) := by
  unfold execHeaderRead
  split
  · exact h.keeps
  · exact (h.reachBlock l _ _ fun _ _ _ hu => hu.of).finish.keeps

theorem OffParked.skipWalk (h : OffParked s) (l : LaneId) : KeepsParked (execSkipWalk l s) := by
  unfold execSkipWalk
  split
  · exact h.keeps
  · exact (h.reachBlock l _ _ fun _ _ _ hu => hu.of).finish.keeps

/-- A lane 0 block does its action and ends. -/
theorem OffParked.lane0Block (h : OffParked s) (kind : Kind) (act : InHand → State → State × Ending)
    (ha : ∀ b, OffParked (act b s).1) : KeepsParked (lane0Block kind act s) := by
  unfold Machine.lane0Block
  split
  · exact h.keeps
  · rename_i c b _
    split
    · have hb := ha b
      generalize act b s = r at hb
      obtain ⟨u, e⟩ := r
      exact OffParked.keeps hb.of
    · exact h.keeps

theorem OffParked.actDefineCamera (h : OffParked s) (b : InHand) : OffParked (actDefineCamera b s).1 := by
  unfold Machine.actDefineCamera
  split
  · exact h
  · split
    · exact h
    · rename_i hk
      split
      · exact h
      · split
        · exact h
        · dsimp only
          exact h.defineCamera (not_not.mp hk) _

theorem OffParked.actParkCamera (h : OffParked s) (b : InHand) : OffParked (actParkCamera b s).1 := by
  unfold Machine.actParkCamera
  split
  · exact h
  · split
    · exact h
    · split
      · exact h
      · dsimp only
        exact h.parkPort _

/-- UNPARK CAMERA is refused for an UNDEFINED port and in a STABLED part. -/
theorem OffParked.actUnparkCamera (h : OffParked s) (b : InHand) : OffParked (actUnparkCamera b s).1 := by
  unfold Machine.actUnparkCamera
  split
  · exact h
  · split
    · exact h
    · rename_i hr
      obtain ⟨hu, hm⟩ := not_or.mp hr
      split
      · exact h
      · split
        · rename_i hk
          exact h.seekPort hk (Bool.eq_false_iff.mpr hu) (by cases hs : s.mode with | run => rfl | stabled => exact absurd hs hm)
        · exact h

theorem OffParked.actLoadLayout (h : OffParked s) (b : InHand) : OffParked (actLoadLayout b s).1 := by
  unfold Machine.actLoadLayout
  split
  · exact h
  · split
    · split
      · exact h
      · exact h.of
    · exact h

theorem OffParked.actClearLayout (h : OffParked s) (b : InHand) : OffParked (actClearLayout b s).1 := by
  unfold Machine.actClearLayout
  split
  · exact h
  · split
    · exact h
    · exact h.of

theorem OffParked.actSelectLayout (h : OffParked s) (b : InHand) : OffParked (actSelectLayout b s).1 := by
  unfold Machine.actSelectLayout
  split
  · exact h
  · split
    · exact h
    · split
      · exact h
      · exact h.of

theorem OffParked.actSetDisplay (h : OffParked s) (b : InHand) : OffParked (actSetDisplay b s).1 := by
  unfold Machine.actSetDisplay
  split
  · exact h
  · split
    · exact h
    · split
      · exact h
      · split
        · exact h
        · dsimp only
          exact h.setDisplay _ _

theorem OffParked.actSetCab (h : OffParked s) (b : InHand) : OffParked (actSetCab b s).1 := by
  unfold Machine.actSetCab
  split
  · exact h
  · split
    · exact h
    · split
      · exact h
      · dsimp only
        exact h.handover _

theorem OffParked.actSetDoorPolicy (h : OffParked s) (b : InHand) : OffParked (actSetDoorPolicy b s).1 := by
  unfold Machine.actSetDoorPolicy
  split
  · exact h
  · split
    · dsimp only
      exact h.setDoorPolicy _
    · exact h

theorem OffParked.actEnterStabling (h : OffParked s) (b : InHand) : OffParked (actEnterStabling b s).1 := by
  unfold Machine.actEnterStabling
  split
  · exact h
  · split
    · exact h
    · split
      · rename_i hd
        dsimp only
        exact h.enterStabling hd
      · exact h

theorem OffParked.actLearnReference (h : OffParked s) (b : InHand) : OffParked (actLearnReference b s).1 := by
  unfold Machine.actLearnReference
  split
  · exact h
  · dsimp only
    split
    · exact h
    · split
      · exact h
      · split
        · exact h.of
        · exact h

theorem OffParked.actSetReference (h : OffParked s) (b : InHand) : OffParked (actSetReference b s).1 := by
  unfold Machine.actSetReference
  split
  · exact h
  · split
    · exact h
    · split
      · exact h
      · exact h.of

theorem OffParked.actMeasureOnce (h : OffParked s) (b : InHand) : OffParked (actMeasureOnce b s).1 := by
  unfold Machine.actMeasureOnce
  split
  · exact h
  · split
    · exact h
    · split
      · exact h
      · exact h.of

theorem OffParked.actSetSoilLimits (h : OffParked s) (b : InHand) : OffParked (actSetSoilLimits b s).1 := by
  unfold Machine.actSetSoilLimits
  split
  · exact h
  · split
    · exact h
    · split
      · exact h.of
      · exact h

/-! ## Exports -/

theorem OffParked.exportFrame (h : OffParked s) : KeepsParked (execExportFrame s) := by
  unfold execExportFrame
  split
  · exact h.keeps
  · split
    · exact OffParked.keeps h.of
    · split
      · exact OffParked.keeps h.of
      · exact OffParked.keeps h.of

theorem OffParked.exportScreen (h : OffParked s) : KeepsParked (execExportScreen s) := by
  unfold execExportScreen
  split
  · exact h.keeps
  · split
    · exact OffParked.keeps h.of
    · split
      · exact OffParked.keeps h.of
      · exact OffParked.keeps h.of

theorem OffParked.exportFrameRow (h : OffParked s) : KeepsParked (execExportFrameRow s) := by
  unfold execExportFrameRow
  split
  · split
    · split
      · split
        · exact OffParked.keeps h.of
        · dsimp only
          split
          · exact OffParked.keeps h.of
          · exact OffParked.keeps h.of
      · exact h.keeps
    · exact keepsParked_fault _
  · exact h.keeps
  · exact h.keeps
  · exact h.keeps

theorem OffParked.exportScreenRow (h : OffParked s) : KeepsParked (execExportScreenRow s) := by
  unfold execExportScreenRow
  split
  · split
    · split
      · split
        · exact OffParked.keeps h.of
        · exact OffParked.keeps h.of
      · exact h.keeps
    · exact keepsParked_fault _
  · exact h.keeps
  · exact h.keeps
  · exact h.keeps

/-! ## Every command -/

/-- At power-on every port is UNDEFINED and PARKED, the queue is empty, and the part is in RUN (R22, R37, R180). -/
theorem offParked_powerOn (s : State) : OffParked (powerOn s) := by
  have ports : ∀ p : PortId, (powerOn s).ports[p] = {} := fun p => getElem_replicate_fin _ p
  exact PortsOff.inRun ⟨fun p _ => by rw [ports], fun _ he => nomatch he⟩ rfl

theorem OffParked.linkReset (h : OffParked s) : OffParked (linkReset s) := by
  unfold Machine.linkReset
  exact h.of

/-- Every command keeps the ports that are off PARKED. -/
theorem OffParked.exec (h : OffParked s) (i : Instr) : KeepsParked (exec i s) := by
  cases i with
  | powerOn => exact (offParked_powerOn s).keeps
  | linkReset => exact h.linkReset.keeps
  | frameOpen p count width height => exact h.frameOpen p count width height
  | line p n payload check => exact h.line p n payload check
  | frameClose p count => exact h.frameClose p count
  | unknownPacket p => exact h.keeps
  | silenceTimerExpiry p => exact h.silenceTimerExpiry p
  | evaluationService => exact h.evaluationService
  | frameStart d => exact h.frameStart d
  | frameEnd d => exact h.frameEnd d
  | holdExpiry d side => exact h.holdExpiry d side
  | doorLineEdge k level => exact h.doorLineEdge k level
  | debounceExpiry k => exact h.debounceExpiry k
  | areaLoWrite v => exact (h.writeRegister v .areaLo).keeps
  | areaHiWrite v => exact (h.writeRegister v .areaHi).keeps
  | areaSizeWrite v => exact (h.writeRegister v .areaSize).keeps
  | statusRead => exact OffParked.keeps h.of
  | resetCauseWrite v => exact (h.writeRegister v .resetCause).keeps
  | registerWrite r v => exact (h.writeRegister v r).keeps
  | attentionWrite v => exact (h.writeRegister v .attention).keeps
  | runChain => exact h.takeWord 1 _ fun _ _ _ hu => hu.runChain _ _
  | haltLane => exact h.takeWord 2 _ fun _ _ _ hu => hu.of
  | acknowledge => exact h.takeWord 3 _ fun _ _ _ hu => hu.of
  | restart => exact h.takeWord 4 _ fun _ _ _ hu => hu.restartByWord _ _
  | wake => exact h.takeWord 5 _ fun _ _ _ hu => hu.wakePart .wake
  | badCode => exact h.badCode
  | headerRead l => exact h.headerRead l
  | skipWalk l => exact h.skipWalk l
  | defineCamera => exact h.lane0Block .defineCamera Machine.actDefineCamera h.actDefineCamera
  | parkCamera => exact h.lane0Block .parkCamera Machine.actParkCamera h.actParkCamera
  | unparkCamera => exact h.lane0Block .unparkCamera Machine.actUnparkCamera h.actUnparkCamera
  | loadLayout => exact h.lane0Block .loadLayout Machine.actLoadLayout h.actLoadLayout
  | clearLayout => exact h.lane0Block .clearLayout Machine.actClearLayout h.actClearLayout
  | selectLayout => exact h.lane0Block .selectLayout Machine.actSelectLayout h.actSelectLayout
  | setDisplay => exact h.lane0Block .setDisplay Machine.actSetDisplay h.actSetDisplay
  | setCab => exact h.lane0Block .setCab Machine.actSetCab h.actSetCab
  | learnReference => exact h.lane0Block .learnReference Machine.actLearnReference h.actLearnReference
  | setReference => exact h.lane0Block .setReference Machine.actSetReference h.actSetReference
  | measureOnce => exact h.lane0Block .measureOnce Machine.actMeasureOnce h.actMeasureOnce
  | setSoilLimits => exact h.lane0Block .setSoilLimits Machine.actSetSoilLimits h.actSetSoilLimits
  | setDoorPolicy => exact h.lane0Block .setDoorPolicy Machine.actSetDoorPolicy h.actSetDoorPolicy
  | enterStabling => exact h.lane0Block .enterStabling Machine.actEnterStabling h.actEnterStabling
  | exportFrame => exact h.exportFrame
  | exportScreen => exact h.exportScreen
  | exportFrameRow => exact h.exportFrameRow
  | exportScreenRow => exact h.exportScreenRow

/-- Every step keeps the ports that are off PARKED. -/
theorem OffParked.step {t : State} (h : OffParked s) (hs : step s = .next t) : OffParked t := by
  unfold Machine.step at hs
  split at hs
  · cases hs
    exact h.of rfl rfl rfl (doorsStayShut_of_eq rfl)
  · exact OffParked.exec (h.of) _ t hs

end Sys2Proof.Machine
end

section
namespace Sys2Proof.Proofs

open Sys2Proof Sys2Proof.Machine Sys2Proof.Safety

/-- Settles O5: what the statement asks is one invariant, `OffParked`, which every command keeps. -/
theorem offPortsStayParked : Obligations.OffPortsStayParked := by
  unfold Obligations.OffPortsStayParked
  intro s t h hs
  exact (offParked_iff t).1 (OffParked.step ((offParked_iff s).2 h) hs)

end Sys2Proof.Proofs
end

section
/-! The sums of a stored line (R38, R44): the lumas of its bytes, and what each cell of its row adds. -/

namespace Sys2Proof.Machine

-- The proofs are elaborated in order: side by side, each would hold a thread of its own, and its memory.
set_option Elab.async false

/-- The luma of a pixel of a line, 0 past its end: the second byte of the pixel's two (R1). -/
def lineLuma (line : List Byte) (x : Nat) : Nat := (line.getD (2 * x + 1) 0).toNat

/-- Two pixels share four bytes, and each has a luma of its own (R1). -/
theorem lumas_eq (k : Nat) (line : List Byte) (h : line.length = 4 * k) : lumas line = (List.range (2 * k)).map (lineLuma line) := by
  induction k generalizing line with
  | zero =>
    rw [List.length_eq_zero_iff.mp h]
    rfl
  | succ k ih =>
    match line, h with
    | b0 :: y0 :: b1 :: y1 :: rest, h =>
      have hrest : rest.length = 4 * k := by simp only [List.length_cons] at h; omega
      have htail : ∀ x, lineLuma (b0 :: y0 :: b1 :: y1 :: rest) (x + 1 + 1) = lineLuma rest x := fun _ => rfl
      rw [lumas, ih rest hrest, show 2 * (k + 1) = 2 * k + 1 + 1 by omega, List.range_succ_eq_map, List.range_succ_eq_map]
      simp only [List.map_cons, List.map_map, Function.comp_def, Nat.succ_eq_add_one, htail]
      rfl

/-- A run of the values of a function. -/
theorem take_drop_map_range {α : Type} (f : Nat → α) {a m n : Nat} (h : a + m ≤ n) :
    (((List.range n).map f).drop a).take m = (List.range m).map fun x => f (a + x) := by
  apply List.ext_getElem
  · simp only [List.length_take, List.length_drop, List.length_map, List.length_range]
    omega
  · intro i _ _
    simp

theorem sum_map_range (f : Nat → Nat) (n : Nat) : ((List.range n).map f).sum = ∑ x ∈ Finset.range n, f x := rfl

theorem absDiff_eq (a b : Nat) : absDiff a b = ((a : Int) - b).natAbs := by
  unfold absDiff
  split <;> omega

/-- The differences between neighbours of a run of values (R44). -/
theorem gradient_map_range (n : Nat) (f : Nat → Nat) :
    gradient ((List.range n).map f) = ∑ x ∈ Finset.range (n - 1), ((f (x + 1) : Int) - f x).natAbs := by
  induction n generalizing f with
  | zero => rfl
  | succ n ih =>
    cases n with
    | zero => rfl
    | succ n =>
      have htail := ih fun x => f (x + 1)
      rw [List.range_succ_eq_map] at htail ⊢
      rw [List.range_succ_eq_map]
      simp only [List.map_cons, List.map_map, Function.comp_def, Nat.succ_eq_add_one, Nat.add_sub_cancel] at htail ⊢
      rw [gradient, htail, absDiff_eq, Finset.sum_range_succ', Nat.add_comm]

section Cell
variable {cw ch n : Nat} {line : List Byte} (sums : Vector CellSums 48) {r : Fin 6} (c : Fin 8)

/-- The accumulators at row `r` and column `c` of the grid after a line (R38, R44). -/
theorem accumulate_getElem :
    (accumulate (8 * cw) (6 * ch) n line sums)[8 * r.val + c.val] =
      if r.val = n / ch then
        { g := sums[8 * r.val + c.val].g + gradient (((lumas line).drop (c.val * cw)).take cw)
          l := sums[8 * r.val + c.val].l + (((lumas line).drop (c.val * cw)).take cw).sum }
      else sums[8 * r.val + c.val] := by
  have hrow : (8 * r.val + c.val) / 8 = r.val := by omega
  have hcol : (8 * r.val + c.val) % 8 = c.val := by omega
  simp only [accumulate, Vector.getElem_ofFn, hrow, hcol, Nat.mul_div_cancel_left _ (show 0 < 8 by decide),
    Nat.mul_div_cancel_left _ (show 0 < 6 by decide)]
  rfl

/-- A cell of another row keeps its sums. -/
theorem accumulate_other_row (hn : n / ch ≠ r.val) :
    (accumulate (8 * cw) (6 * ch) n line sums)[8 * r.val + c.val] = sums[8 * r.val + c.val] := by
  rw [accumulate_getElem, if_neg (Ne.symm hn)]

/-- A cell of the line's row adds the differences between the lumas of its neighbours, and its lumas. -/
theorem accumulate_own_row (hl : line.length = 2 * (8 * cw)) (hn : n / ch = r.val) :
    (accumulate (8 * cw) (6 * ch) n line sums)[8 * r.val + c.val] =
      { g := sums[8 * r.val + c.val].g + ∑ x ∈ Finset.range (cw - 1),
          ((lineLuma line (c.val * cw + (x + 1)) : Int) - lineLuma line (c.val * cw + x)).natAbs
        l := sums[8 * r.val + c.val].l + ∑ x ∈ Finset.range cw, lineLuma line (c.val * cw + x) } := by
  have hline : lumas line = (List.range (2 * (4 * cw))).map (lineLuma line) := lumas_eq (4 * cw) line (by omega)
  have hend : c.val * cw + cw ≤ 2 * (4 * cw) := by nlinarith [c.isLt]
  rw [accumulate_getElem, if_pos hn.symm, hline, take_drop_map_range _ hend, gradient_map_range, sum_map_range]

end Cell

end Sys2Proof.Machine

namespace Sys2Proof.Proofs

open Sys2Proof Sys2Proof.Machine Sys2Proof.Safety

/-- Settles O16: the line's lumas, and the run of them that falls into each cell. -/
theorem lineSumsPerCell : Obligations.LineSumsPerCell := by
  unfold Obligations.LineSumsPerCell
  intro cw ch n line sums r c _ _ hl _ y before after
  refine ⟨fun hrow => ?_, accumulate_other_row sums c⟩
  have hcell := accumulate_own_row sums c hl hrow
  refine ⟨congrArg CellSums.g hcell, (congrArg (fun a : CellSums => (a.l : Int)) hcell).trans ?_⟩
  push_cast
  rfl

end Sys2Proof.Proofs
end

section
/-! The service of the evaluation queue (R47 to R62): a learn sample and a new reference, and the stages S1 to S9 of an evaluation. -/

namespace Sys2Proof.Machine

open Safety

-- The proofs are elaborated in order: side by side, each would hold a thread of its own, and its memory.
set_option Elab.async false

/-! ## Cells counted -/

/-- A count over the cells is the size of the set of cells counted. -/
theorem countP_finRange {n : Nat} {f : Fin n → Bool} {P : Fin n → Prop} [DecidablePred P] (h : ∀ i, f i = true ↔ P i) :
    (List.finRange n).countP f = (Finset.univ.filter P).card := by
  have hf : f = fun i => decide (P i) := funext fun i => Bool.eq_iff_iff.mpr ((h i).trans decide_eq_true_iff.symm)
  rw [← List.toFinset_finRange, (List.nodup_finRange n).card_eq_countP, hf]

theorem informativeCount_eq_zero (m : Soil) : m.informativeCount = 0 ↔ ∀ i : Fin 48, ¬ m.informative[i] = true := by
  rw [Soil.informativeCount, List.countP_eq_zero]
  exact ⟨fun h i => h i (List.mem_finRange i), fun h i _ => h i⟩

/-! ## A new reference (R62, R65) -/

/-- A learned or set reference: the state is CLEAN where some cell is informative. -/
theorem adopt_eq (m : Soil) (reference : Vector Nat 48) : m.adopt reference = withReference m reference := by
  simp only [Soil.adopt, withReference, informativeMap, informativeCount_eq_zero, getElem_ofFn_fin, decide_eq_true_eq, ← not_exists,
    ite_not]

/-- A reference that a camera takes has both its records rewritten, and SOIL raised (R58, R67). -/
theorem Raised.newReference {m s : State} {ns : List Notice} {rs : List Record} (h : Raised m s ns rs) (p : PortId) (v : Soil) :
    Raised m (Machine.mark (.reference p) (Machine.updateSoil p true v s)) (ns ++ [.soil]) (.soil p :: .reference p :: rs) := by
  have hmark := (h.updateSoil p true v).mark (.reference p)
  rw [if_pos (.inl rfl)] at hmark
  exact hmark.congr (fun _ => Iff.rfl) fun r => by
    simp only [List.mem_cons]
    exact or_left_comm

/-! ## The entry served (R47) -/

section Served
variable {s : State} {e : EvalEntry} {rest : List EvalEntry} {r : Learning}

/-- The state with the oldest entry taken from the queue. -/
def entryTaken (s : State) (rest : List EvalEntry) : State := { s with evalQueue := rest }

theorem exec_evaluationService (hq : s.evalQueue = e :: rest) :
    exec .evaluationService s = .next (finishEvent (serveEntry e (entryTaken s rest))) := by
  show execEvaluationService s = _
  unfold execEvaluationService
  rw [hq]
  rfl

theorem finishEvent_serveEntry (e : EvalEntry) (s : State) :
    let t := finishEvent (serveEntry e s)
    t = { s with soil := t.soil, reports := t.reports, bus := t.bus } :=
  let others (v x : State) : State := { x with soil := v.soil, reports := v.reports, bus := v.bus }
  finishEvent_others others (fun _ => rfl) (fun _ _ _ _ => rfl) fun v => serveEntry_unseen e s (others v) fun _ _ _ => rfl

theorem Raised.entryTaken (h : Calm s) : Raised s (entryTaken s rest) [] [] := (Raised.calm h).step rfl rfl rfl

/-- An entry of an UNLEARNED camera has no effect. -/
theorem serveEntry_unlearned (h : s.soil[e.port].state = .unlearned) : serveEntry e s = s := by
  unfold serveEntry
  dsimp only
  rw [h]
  rfl

theorem serveEntry_learning (h : s.soil[e.port].state = .learning) (hr : s.soil[e.port].learning = some r) :
    serveEntry e s = learnSample e r s := by
  unfold serveEntry
  dsimp only
  rw [h, hr]
  rfl

theorem serveEntry_rated (h : s.soil[e.port].state = .clean ∨ s.soil[e.port].state = .smeared ∨ s.soil[e.port].state = .blinded) :
    serveEntry e s = evaluate e s := if_pos ((rated_iff _).mpr h)

end Served

/-! ## A learn sample (R60, R62) -/

section Sample
variable {m s : State} {e : EvalEntry} {r : Learning}

/-- The learn sums with the sharpness of each cell of the entry added. -/
def sumsAfter (e : EvalEntry) (r : Learning) : Vector Nat 48 := Vector.ofFn fun i => r.sums[i] + sharpness e i

theorem learnSample_more (hk : r.taken + 1 ≠ r.target) :
    learnSample e r s =
      updateSoil e.port false
        { s.soil[e.port] with learning := some { r with taken := r.taken + 1, sums := sumsAfter e r } } s := if_neg hk

theorem learnSample_last (hk : r.taken + 1 = r.target) :
    learnSample e r s =
      mark (.reference e.port) (updateSoil e.port true
        (withReference s.soil[e.port] (Vector.ofFn fun i => (sumsAfter e r)[i] / r.target)) s) := by
  rw [← adopt_eq]
  exact if_pos hk

theorem Raised.learnSample_more (h : Raised m s [] []) (hk : r.taken + 1 ≠ r.target) :
    Raised m (learnSample e r s) [] [.soil e.port] := by
  have hu := h.updateSoil e.port false
    { s.soil[e.port] with learning := some { r with taken := r.taken + 1, sums := sumsAfter e r } }
  rw [if_neg (by rintro (hf | hs); exacts [Bool.noConfusion hf, hs rfl])] at hu
  rw [Machine.learnSample_more hk]
  exact hu

theorem Raised.learnSample_last (h : Raised m s [] []) (hk : r.taken + 1 = r.target) :
    Raised m (learnSample e r s) [.soil] [.soil e.port, .reference e.port] := by
  rw [Machine.learnSample_last hk]
  exact h.newReference e.port _

end Sample

/-! ## An evaluation (R49 to R56) -/

section Stages
variable (m : Soil) (e : EvalEntry)

theorem measurable_iff (i : Fin 48) :
    measurable m e i = true ↔ m.limits.dark ≤ meanLuma e i ∧ meanLuma e i ≤ m.limits.bright ∧ m.informative[i] = true := by
  simp only [measurable, Bool.and_eq_true, decide_eq_true_eq, and_assoc]

theorem dull_iff (i : Fin 48) : dull m e i = true ↔ sharpness e i * 256 < m.reference[i] * m.limits.ratio := decide_eq_true_iff

/-- Stage S7, with the counter of stage S6: a counter between the two thresholds leaves the flag (R54). -/
theorem nextBlocked_iff (i : Fin 48) :
    nextBlocked m e i = true ↔
      (measurable m e i = true ∧
        (m.limits.high ≤ nextCounter m e i ∨ m.limits.low < nextCounter m e i ∧ m.blocked[i] = true)) ∨
      (¬ measurable m e i = true ∧ m.blocked[i] = true) := by
  unfold nextBlocked
  by_cases hm : measurable m e i = true
  · by_cases hh : m.limits.high ≤ nextCounter m e i
    · simp [hm, hh]
    · by_cases hl : nextCounter m e i ≤ m.limits.low
      · simp [hm, hh, hl, Nat.not_lt.mpr hl]
      · simp [hm, hh, hl, Nat.not_le.mp hl]
  · simp [hm]

/-- The camera after stages S1 to S9. -/
def evaluated : Soil := rate (applyFrame m e)

theorem evaluated_eq :
    evaluated m e = { m with
      suspended := (evaluated m e).suspended, counters := (evaluated m e).counters, blocked := (evaluated m e).blocked
      score := (evaluated m e).score, state := (evaluated m e).state } := by
  unfold evaluated applyFrame
  split <;> rfl

/-- Stage S4: the frame has enough measurable cells (R51). -/
def Sufficient : Prop := m.limits.minMeasurable ≤ measurableCount m e

variable {m e}

/-- A sufficient frame is judged cell by cell (R53, R54). -/
theorem evaluated_of_sufficient (h : Sufficient m e) :
    (evaluated m e).suspended = false ∧ (evaluated m e).counters = Vector.ofFn (nextCounter m e) ∧
    (evaluated m e).blocked = Vector.ofFn (nextBlocked m e) := by
  rw [evaluated, show applyFrame m e = _ from if_pos h]
  exact ⟨rfl, rfl, rfl⟩

/-- An insufficient frame changes the SUSPENDED flag only (R51). -/
theorem evaluated_of_insufficient (h : ¬ Sufficient m e) :
    (evaluated m e).suspended = true ∧ (evaluated m e).counters = m.counters ∧ (evaluated m e).blocked = m.blocked := by
  rw [evaluated, show applyFrame m e = _ from if_neg h]
  exact ⟨rfl, rfl, rfl⟩

variable (m e)

/-- Stage S8: the share in percent of the informative cells that are blocked (R55). -/
theorem evaluated_score :
    (evaluated m e).score = 100 * (Finset.univ.filter fun i : Fin 48 => m.informative[i] = true ∧ (evaluated m e).blocked[i] = true).card /
      (Finset.univ.filter fun i : Fin 48 => m.informative[i] = true).card := by
  have hscore : (evaluated m e).score = 100 * (evaluated m e).blockedCount / (evaluated m e).informativeCount := rfl
  have hinformative : (evaluated m e).informative = m.informative := by rw [evaluated_eq]
  rw [hscore, Soil.blockedCount, Soil.informativeCount, hinformative, countP_finRange fun _ => Bool.and_eq_true_iff,
    countP_finRange fun _ => Iff.rfl]

/-- Stage S9 (R56). -/
theorem evaluated_state : (evaluated m e).state = stateOfScore m.limits (evaluated m e).score := by
  have hstate : (evaluated m e).state = (evaluated m e).limits.derive (evaluated m e).score := rfl
  rw [hstate, show (evaluated m e).limits = m.limits by rw [evaluated_eq]]
  rfl

/-- An evaluation changed what the soil record shows of the camera (R56, R58). -/
def SoilChanged (m n : Soil) : Prop :=
  n.suspended ≠ m.suspended ∨ n.blocked ≠ m.blocked ∨ n.score ≠ m.score ∨ n.state ≠ m.state

end Stages

section Evaluate
variable {e : EvalEntry} {m s : State} {v : Soil}

theorem evaluate_changed (hv : s.soil[e.port] = v) (h : SoilChanged v (evaluated v e)) :
    evaluate e s = updateSoil e.port false (evaluated v e) s := by
  subst hv
  exact if_neg fun ⟨hs, hb, hp, ht⟩ => h.elim (· hs) fun h => h.elim (· hb) fun h => h.elim (· hp) (· ht)

theorem evaluate_unchanged (hv : s.soil[e.port] = v) (h : ¬ SoilChanged v (evaluated v e)) :
    evaluate e s = s.setSoil e.port (evaluated v e) := by
  subst hv
  simp only [SoilChanged, not_or, not_not] at h
  exact if_pos h

theorem evaluate_soil (hv : s.soil[e.port] = v) : (evaluate e s).soil = s.soil.set e.port (evaluated v e) := by
  by_cases h : SoilChanged v (evaluated v e)
  · rw [evaluate_changed hv h, updateSoil_soil]
  · rw [evaluate_unchanged hv h]
    rfl

theorem Raised.evaluate_changed (h : Raised m s [] []) (hv : s.soil[e.port] = v) (hc : SoilChanged v (evaluated v e)) :
    Raised m (evaluate e s) (if (evaluated v e).state ≠ v.state then [.soil] else []) [.soil e.port] := by
  have hu := h.updateSoil e.port false (evaluated v e)
  simp only [Bool.false_eq_true, false_or, hv] at hu
  rw [Machine.evaluate_changed hv hc]
  exact hu

theorem Raised.evaluate_unchanged (h : Raised m s [] []) (hv : s.soil[e.port] = v) (hc : ¬ SoilChanged v (evaluated v e)) :
    Raised m (evaluate e s) [] [] := by
  rw [Machine.evaluate_unchanged hv hc]
  exact h.setSoil e.port _

end Evaluate

end Sys2Proof.Machine

namespace Sys2Proof.Proofs

open Sys2Proof Sys2Proof.Machine Sys2Proof.Safety

-- The proofs are elaborated in order: side by side, each would hold a thread of its own, and its memory.
set_option Elab.async false

/-- Settles O25: the entry leaves the queue; a sample joins the sums, and the last one gives the reference. -/
theorem learnSampleIsGathered : Obligations.LearnSampleIsGathered := by
  unfold Obligations.LearnSampleIsGathered
  intro s
  refine ⟨fun hq => ?_, fun e rest hq hcalm hu => ?_, fun e rest r hq hcalm hl hr => ?_⟩
  · show execEvaluationService s = _
    rw [execEvaluationService, hq]
  · have hserve : serveEntry e (entryTaken s rest) = entryTaken s rest := serveEntry_unlearned hu
    refine ⟨_, exec_evaluationService hq, ?_, ?_⟩
    · rw [hserve]
      let others (v x : State) : State := { x with reports := v.reports, bus := v.bus }
      exact finishEvent_others others (fun _ => rfl) (fun _ _ _ _ => rfl) fun _ => rfl
    · rw [hserve]
      exact (Raised.entryTaken hcalm).finish hcalm.2
  · have hserve : serveEntry e (entryTaken s rest) = learnSample e r (entryTaken s rest) := serveEntry_learning hl hr
    refine ⟨_, exec_evaluationService hq, finishEvent_serveEntry e (entryTaken s rest), fun hk => ?_, fun hk => ?_⟩
    · rw [hserve]
      refine ⟨?_, ((Raised.entryTaken hcalm).learnSample_more hk).finish hcalm.2⟩
      rw [finishEvent_soil, learnSample_more hk, updateSoil_soil]
      rfl
    · rw [hserve]
      refine ⟨?_, ((Raised.entryTaken hcalm).learnSample_last hk).finish hcalm.2⟩
      rw [finishEvent_soil, learnSample_last hk, mark_soil, updateSoil_soil]
      rfl

/-- Settles O26: the entry leaves the queue, and the camera is `evaluated`, stage by stage. -/
theorem evaluationFollowsStages : Obligations.EvaluationFollowsStages := by
  unfold Obligations.EvaluationFollowsStages
  intro s e rest p m sharp mean isMeasurable isDull sufficient hcalm hq hrated
  have hserve : serveEntry e (entryTaken s rest) = evaluate e (entryTaken s rest) := serveEntry_rated hrated
  have hcell : (entryTaken s rest).soil[e.port] = m := rfl
  have hsoil : (finishEvent (serveEntry e (entryTaken s rest))).soil = s.soil.set p (evaluated m e) := by
    rw [hserve, finishEvent_soil]
    exact evaluate_soil hcell
  have hmeasurable : ∀ i, measurable m e i = true ↔ isMeasurable i := measurable_iff m e
  have hdull : ∀ i, dull m e i = true ↔ isDull i := dull_iff m e
  have hsufficient : sufficient ↔ Sufficient m e := by
    rw [Sufficient, measurableCount, countP_finRange hmeasurable]
  refine ⟨_, exec_evaluationService hq, ?_⟩
  intro n changed
  have hn : n = evaluated m e := (congrArg (fun v : Vector Soil 12 => v[p]) hsoil).trans (getElem_set_same _ _ _)
  clear_value n
  subst hn
  have hchanged : changed ↔ SoilChanged m (evaluated m e) := Iff.rfl
  refine ⟨finishEvent_serveEntry e (entryTaken s rest), ?_, fun hs => ?_, fun hs => ?_, evaluated_score m e, evaluated_state m e, ?_⟩
  · exact hsoil.trans (congrArg (fun v => s.soil.set p v) (evaluated_eq m e))
  · obtain ⟨hsuspended, hcounters, hblocked⟩ := evaluated_of_sufficient (hsufficient.mp hs)
    refine ⟨hsuspended, fun i => ?_⟩
    rw [hcounters, hblocked, getElem_ofFn_fin, getElem_ofFn_fin, nextBlocked_iff, hmeasurable]
    refine ⟨?_, Iff.rfl⟩
    simp only [nextCounter, hmeasurable, hdull]
  · exact evaluated_of_insufficient fun h => hs (hsufficient.mpr h)
  · rw [hserve]
    by_cases hc : changed
    · rw [if_pos hc]
      exact ((Raised.entryTaken hcalm).evaluate_changed hcell (hchanged.mp hc)).finish hcalm.2
    · have hstate : (evaluated m e).state = m.state := not_not.mp fun h => hc (.inr (.inr (.inr h)))
      rw [if_neg hc, if_neg (not_not.mpr hstate)]
      exact ((Raised.entryTaken hcalm).evaluate_unchanged hcell fun h => hc (hchanged.mpr h)).finish hcalm.2

end Sys2Proof.Proofs
end

section
/-! The blocks of the Soil Monitor (R39, R40, R42, R58 to R65): LEARN REFERENCE, SET REFERENCE, MEASURE ONCE and SET SOIL LIMITS. -/

namespace Sys2Proof.Machine

open Safety

-- The proofs are elaborated in order: side by side, each would hold a thread of its own, and its memory.
set_option Elab.async false

/-! ## A block that writes one camera's soil record -/

section Block
variable {k : Kind} {act : InHand → State → State × Ending} {i : Instr} {s u : State} {c : Chain} {b : InHand} {p : PortId} {v : Soil}
  {ns : List Notice} {rs : List Record}

/-- A lane 0 block whose action gives one camera a soil record, and reports, and is done. -/
theorem soilBlock_done (hi : ∀ s, exec i s = lane0Block k act s) (hb : BlockInHand s 0 k c b) (ha : act b s = (u, .done))
    (hu : ∀ {α : Type} (f : State → α), (∀ s o r, f { s with soil := o, reports := r } = f s) → f u = f s)
    (hsoil : u.soil = s.soil.set p v) (hr : Raised s u ns rs) :
    ∃ t, exec i s = .next t ∧
      t = { s with soil := t.soil, lanes := t.lanes, reports := t.reports, bus := t.bus } ∧
      t.soil = s.soil.set p v ∧ BlockDone s t c b .done ns rs := by
  obtain ⟨hexec, hdone⟩ := lane0Block_ends hb ha hr (hu State.clock fun _ _ _ => rfl) (hu State.lanes fun _ _ _ => rfl)
  let others (v x : State) : State := { x with soil := v.soil, lanes := v.lanes, reports := v.reports, bus := v.bus }
  refine ⟨_, (hi s).trans hexec, ?_, (finishEvent_soil _).trans ((endBlock_soil _ _ _ _ _ _ _).trans hsoil), hdone⟩
  exact finishEvent_others others (fun _ => rfl) (fun _ _ _ _ => rfl) fun v =>
    (endBlock_unseen 0 c b.notify b.haltOnFail b.next .done u (others v) fun _ _ _ _ => rfl).trans
      (hu (others v) fun _ _ _ => rfl)

end Block

/-! ## LEARN REFERENCE (R59, R61) -/

section Acts
variable {s : State} {b : InHand} {p : PortId} {c : Chain} {e : Ending}

/-- The number of frames of a learning: 16 where none is given (R59). -/
theorem learnFrames_eq (body : List Byte) :
    learnFrames body = if bodyByte body 0 = 0 then 16 else bodyByte body 0 := by
  rw [learnFrames, field_one]

/-- A learning is refused at a port that sends nothing (R59). -/
def LearnRefused (q : CapturePort) : Prop := q.undefined = true ∨ q.state = .parked ∨ q.state = .lost

theorem actLearnReference_badTarget (ht : 12 ≤ b.target) : actLearnReference b s = (s, .failed .badTarget 0) := by
  rw [actLearnReference, portOf_eq_none ht]

theorem actLearnReference_refused (ht : b.target = p.val) (hr : LearnRefused s.ports[p]) :
    actLearnReference b s = (s, .failed .notAllowedNow 0) := by
  rw [actLearnReference, portOf_of_eq ht]
  exact if_pos hr

theorem actLearnReference_badLength (ht : b.target = p.val) (hr : ¬ LearnRefused s.ports[p]) (hl : b.body.length ≠ 4) :
    actLearnReference b s = (s, .failed .badValue 255) := by
  rw [actLearnReference, portOf_of_eq ht]
  exact (if_neg hr).trans (if_pos hl)

theorem actLearnReference_eq (ht : b.target = p.val) (hr : ¬ LearnRefused s.ports[p]) (hl : b.body.length = 4) :
    actLearnReference b s =
      if 4 ≤ learnFrames b.body ∧ learnFrames b.body ≤ 32 then (beginLearning p (learnFrames b.body) s, .done)
      else (s, .failed .badValue 0) := by
  rw [actLearnReference, portOf_of_eq ht]
  exact (if_neg hr).trans (if_neg (not_not.mpr hl))

theorem learnReference_onlyEnds (hb : BlockInHand s 0 .learnReference c b) (ha : actLearnReference b s = (s, e)) :
    OnlyEnds .learnReference s c b e := onlyEnds_of_act (fun _ => rfl) hb ha

/-- The state a learning returns to if it is abandoned: that of the learning it restarts, if any (R59, R61). -/
def savedState (m : Soil) : SoilState :=
  match m.state, m.learning with
  | .learning, some r => r.saved
  | other, _ => other

theorem savedState_fresh {m : Soil} (h : m.state ≠ .learning) : savedState m = m.state := by
  unfold savedState
  split
  · rename_i hm _
    exact absurd hm h
  · rfl

theorem savedState_restart {m : Soil} {g : Learning} (h : m.state = .learning) (hg : m.learning = some g) : savedState m = g.saved := by
  unfold savedState
  rw [h, hg]

/-- A camera LEARNING from the start, over `n` frames (R59). -/
def learningFrom (m : Soil) (n : Nat) : Soil :=
  { m with
    state := .learning
    learning := some { target := n, taken := 0, sums := Vector.replicate 48 0, saved := savedState m }
    abandoned := false }

theorem beginLearning_eq (p : PortId) (n : Nat) (s : State) :
    beginLearning p n s = updateSoil p false (learningFrom s.soil[p] n) s := rfl

theorem Raised.beginLearning (h : Raised s s [] []) (p : PortId) (n : Nat) :
    Raised s (beginLearning p n s) (if s.soil[p].state = .learning then [] else [.soil]) [.soil p] := by
  have hu := h.updateSoil p false (learningFrom s.soil[p] n)
  have hstate : (learningFrom s.soil[p] n).state = .learning := rfl
  simp only [Bool.false_eq_true, false_or, hstate, ne_comm (a := SoilState.learning), ite_not, List.nil_append] at hu
  rw [beginLearning_eq]
  exact hu

/-! ## SET REFERENCE (R64, R65) -/

/-- A reference is not taken for an UNDEFINED port or while its camera learns (R64). -/
def ReferenceRefused (s : State) (p : PortId) : Prop := s.ports[p].undefined = true ∨ s.soil[p].state = .learning

theorem actSetReference_badTarget (ht : 12 ≤ b.target) : actSetReference b s = (s, .failed .badTarget 0) := by
  rw [actSetReference, portOf_eq_none ht]

theorem actSetReference_refused (ht : b.target = p.val) (hr : ReferenceRefused s p) :
    actSetReference b s = (s, .failed .notAllowedNow 0) := by
  rw [actSetReference, portOf_of_eq ht]
  exact if_pos hr

theorem actSetReference_badLength (ht : b.target = p.val) (hr : ¬ ReferenceRefused s p) (hl : b.body.length ≠ 96) :
    actSetReference b s = (s, .failed .badValue 255) := by
  rw [actSetReference, portOf_of_eq ht]
  exact (if_neg hr).trans (if_pos hl)

theorem actSetReference_done (ht : b.target = p.val) (hr : ¬ ReferenceRefused s p) (hl : b.body.length = 96) :
    actSetReference b s = (setReference p (referenceOf b.body) s, .done) := by
  rw [actSetReference, portOf_of_eq ht]
  exact (if_neg hr).trans (if_neg (not_not.mpr hl))

theorem setReference_onlyEnds (hb : BlockInHand s 0 .setReference c b) (ha : actSetReference b s = (s, e)) :
    OnlyEnds .setReference s c b e := onlyEnds_of_act (fun _ => rfl) hb ha

/-- The 48 values of a body, each of two bytes and held to 4080 (R64). -/
theorem referenceOf_eq (body : List Byte) :
    referenceOf body = Vector.ofFn fun i : Fin 48 => min (bodyByte body (2 * i.val) + 256 * bodyByte body (2 * i.val + 1)) 4080 := by
  simp only [referenceOf, field_two]

theorem setReference_eq (p : PortId) (reference : Vector Nat 48) (s : State) :
    setReference p reference s =
      mark (.reference p) (updateSoil p true (withReference { s.soil[p] with abandoned := false } reference) s) := by
  rw [← adopt_eq]
  rfl

theorem setReference_soil (p : PortId) (reference : Vector Nat 48) (s : State) :
    (setReference p reference s).soil = s.soil.set p (withReference { s.soil[p] with abandoned := false } reference) := by
  rw [setReference_eq, mark_soil, updateSoil_soil]

theorem Raised.setReference {m : State} {ns : List Notice} {rs : List Record} (h : Raised m s ns rs) (p : PortId)
    (reference : Vector Nat 48) :
    Raised m (setReference p reference s) (ns ++ [.soil]) (.soil p :: .reference p :: rs) := by
  rw [setReference_eq]
  exact h.newReference p _

/-! ## MEASURE ONCE (R42) -/

theorem actMeasureOnce_badTarget (ht : 12 ≤ b.target) : actMeasureOnce b s = (s, .failed .badTarget 0) := by
  rw [actMeasureOnce, portOf_eq_none ht]

theorem actMeasureOnce_eq (ht : b.target = p.val) :
    actMeasureOnce b s =
      if s.ports[p].undefined = true then (s, .failed .notAllowedNow 0)
      else if b.body = [] then (s.setSoil p { s.soil[p] with oneShot := true }, .done)
      else (s, .failed .badValue 255) := by
  rw [actMeasureOnce, portOf_of_eq ht]
  dsimp only
  rw [ite_not]
  simp only [List.length_eq_zero_iff]
  rfl

theorem measureOnce_onlyEnds (hb : BlockInHand s 0 .measureOnce c b) (ha : actMeasureOnce b s = (s, e)) :
    OnlyEnds .measureOnce s c b e := onlyEnds_of_act (fun _ => rfl) hb ha

/-! ## SET SOIL LIMITS (R39, R40) -/

/-- A limit the mask gives, or the one kept (R40). -/
def pickLimit (body : List Byte) (bit new kept : Nat) : Nat :=
  if (bodyByte body 0 + 256 * bodyByte body 1).testBit bit then new else kept

/-- The limits of a body, field by field (section 12.3). -/
theorem limitsOf_eq (body : List Byte) (kept : SoilLimits) :
    limitsOf body kept =
      { dark := pickLimit body 0 (bodyByte body 2) kept.dark, bright := pickLimit body 1 (bodyByte body 3) kept.bright
        minReference := pickLimit body 2 (bodyByte body 4 + 256 * bodyByte body 5) kept.minReference
        minMeasurable := pickLimit body 3 (bodyByte body 6) kept.minMeasurable
        ratio := pickLimit body 4 (bodyByte body 7) kept.ratio, low := pickLimit body 5 (bodyByte body 8) kept.low
        high := pickLimit body 6 (bodyByte body 9) kept.high, warn := pickLimit body 7 (bodyByte body 10) kept.warn
        blind := pickLimit body 8 (bodyByte body 11) kept.blind } := by
  simp only [limitsOf, field_one, field_two, given]
  rfl

/-- The set of limits is consistent; the bounds that follow from others are left out (R39). -/
theorem consistent_iff (k : SoilLimits) :
    k.consistent = true ↔
      k.dark ≤ k.bright ∧ k.bright ≤ 255 ∧ k.minReference ≤ 4080 ∧ 1 ≤ k.minMeasurable ∧ k.minMeasurable ≤ 48 ∧ 1 ≤ k.ratio ∧
      k.ratio ≤ 255 ∧ k.low < k.high ∧ k.high ≤ 63 ∧ 1 ≤ k.warn ∧ k.warn < k.blind ∧ k.blind ≤ 100 := by
  rw [SoilLimits.consistent, decide_eq_true_iff]
  omega

/-- The state of a camera that takes limits: derived again from the score where it carries one (R40, R56). -/
def stateUnder (m : Soil) (k : SoilLimits) : SoilState :=
  if m.state = .clean ∨ m.state = .smeared ∨ m.state = .blinded then stateOfScore k m.score else m.state

/-- A camera that takes limits (R40). -/
def limitsTaken (m : Soil) (k : SoilLimits) : Soil := { m with limits := k, state := stateUnder m k }

theorem setLimits_eq (p : PortId) (k : SoilLimits) (s : State) :
    setLimits p k s =
      if stateUnder s.soil[p] k = s.soil[p].state then s.setSoil p (limitsTaken s.soil[p] k)
      else updateSoil p false (limitsTaken s.soil[p] k) s := by
  have hstate : (if s.soil[p].state.rated = true then k.derive s.soil[p].score else s.soil[p].state) = stateUnder s.soil[p] k :=
    if_congr (rated_iff _) rfl rfl
  unfold setLimits
  dsimp only
  rw [hstate]
  rfl

theorem setLimits_soil (p : PortId) (k : SoilLimits) (s : State) :
    (setLimits p k s).soil = s.soil.set p (limitsTaken s.soil[p] k) := by
  rw [setLimits_eq]
  split
  · rfl
  · exact updateSoil_soil p false _ s

/-- New limits are reported where the state changes (R40, R58). -/
theorem Raised.setLimits (h : Raised s s [] []) (p : PortId) (k : SoilLimits) :
    Raised s (setLimits p k s) (if stateUnder s.soil[p] k = s.soil[p].state then [] else [.soil])
      (if stateUnder s.soil[p] k = s.soil[p].state then [] else [.soil p]) := by
  rw [setLimits_eq]
  split
  · exact h.setSoil p _
  · rename_i hs
    have hu := h.updateSoil p false (limitsTaken s.soil[p] k)
    rw [if_pos (.inr hs)] at hu
    exact hu

theorem actSetSoilLimits_badTarget (ht : 12 ≤ b.target) : actSetSoilLimits b s = (s, .failed .badTarget 0) := by
  rw [actSetSoilLimits, portOf_eq_none ht]

theorem actSetSoilLimits_badLength (ht : b.target = p.val) (hl : b.body.length ≠ 12) :
    actSetSoilLimits b s = (s, .failed .badValue 255) := by
  rw [actSetSoilLimits, portOf_of_eq ht]
  exact if_pos hl

theorem actSetSoilLimits_eq (ht : b.target = p.val) (hl : b.body.length = 12) :
    actSetSoilLimits b s =
      if (limitsOf b.body s.soil[p].limits).consistent = true then
        (setLimits p (limitsOf b.body s.soil[p].limits) s, .done)
      else (s, .failed .badValue 0) := by
  rw [actSetSoilLimits, portOf_of_eq ht]
  exact if_neg (not_not.mpr hl)

theorem setSoilLimits_onlyEnds (hb : BlockInHand s 0 .setSoilLimits c b) (ha : actSetSoilLimits b s = (s, e)) :
    OnlyEnds .setSoilLimits s c b e := onlyEnds_of_act (fun _ => rfl) hb ha

end Acts

end Sys2Proof.Machine

namespace Sys2Proof.Proofs

open Sys2Proof Sys2Proof.Machine Sys2Proof.Safety

-- The proofs are elaborated in order: side by side, each would hold a thread of its own, and its memory.
set_option Elab.async false

/-- Settles O56: the checks in their order, then the learning begins afresh, or the reference is taken. -/
theorem referenceBlocksSetTheReference : Obligations.ReferenceBlocksSetTheReference := by
  unfold Obligations.ReferenceBlocksSetTheReference
  intro s c b r frames
  have hframes : learnFrames b.body = frames := learnFrames_eq b.body
  refine ⟨fun hb => ⟨fun ht => learnReference_onlyEnds hb (actLearnReference_badTarget ht), fun p ht => ?_⟩,
    fun hb => ⟨fun ht => setReference_onlyEnds hb (actSetReference_badTarget ht), fun p ht => ?_⟩⟩
  · refine ⟨fun hr => learnReference_onlyEnds hb (actLearnReference_refused ht hr),
      fun hr hl => learnReference_onlyEnds hb (actLearnReference_badLength ht hr hl), fun hr hl hk => ?_, fun hr hl hk hk' => ?_⟩
    · exact learnReference_onlyEnds hb (by rw [actLearnReference_eq ht hr hl, hframes, if_neg (by omega)])
    · have ha : actLearnReference b s = (beginLearning p frames s, .done) := by
        rw [actLearnReference_eq ht hr hl, hframes, if_pos ⟨hk, hk'⟩]
      obtain ⟨t, hexec, hshape, hsoil, hdone⟩ := soilBlock_done (i := .learnReference) (fun _ => rfl) hb ha (beginLearning_unseen p frames s)
        (updateSoil_soil p false _ s) ((Raised.calm (calm_of_blockInHand hb)).beginLearning p frames)
      exact ⟨t, savedState s.soil[p], hexec, hshape, hsoil, savedState_fresh, fun _ => savedState_restart, hdone⟩
  · refine ⟨fun hr => setReference_onlyEnds hb (actSetReference_refused ht hr),
      fun hr hl => setReference_onlyEnds hb (actSetReference_badLength ht hr hl), fun hr hl => ?_⟩
    have ha := actSetReference_done ht hr hl
    rw [referenceOf_eq] at ha
    exact soilBlock_done (fun _ => rfl) hb ha (setReference_unseen p _ s) (setReference_soil p _ s)
      ((Raised.calm (calm_of_blockInHand hb)).setReference p _)

/-- Settles O57: the checks in their order, then the flag, or the limits with the state they give. -/
theorem soilBlocksSetFlagAndLimits : Obligations.SoilBlocksSetFlagAndLimits := by
  unfold Obligations.SoilBlocksSetFlagAndLimits
  intro s c b r mask pick
  refine ⟨fun hb => ⟨fun ht => measureOnce_onlyEnds hb (actMeasureOnce_badTarget ht), fun p ht => ?_⟩,
    fun hb => ⟨fun ht => setSoilLimits_onlyEnds hb (actSetSoilLimits_badTarget ht), fun p ht => ?_⟩⟩
  · refine ⟨fun hu => ?_, fun hu hl => ?_, fun hu hl => ?_⟩
    · exact measureOnce_onlyEnds hb (by rw [actMeasureOnce_eq ht, if_pos hu])
    · exact measureOnce_onlyEnds hb (by rw [actMeasureOnce_eq ht, if_neg hu, if_neg hl])
    · have ha : actMeasureOnce b s = (s.setSoil p { s.soil[p] with oneShot := true }, .done) := by
        rw [actMeasureOnce_eq ht, if_neg hu, if_pos hl]
      exact soilBlock_done (fun _ => rfl) hb ha (fun f h => h s _ s.reports) rfl
        ((Raised.calm (calm_of_blockInHand hb)).setSoil p _)
  · intro m k consistent
    have hk : limitsOf b.body s.soil[p].limits = k := limitsOf_eq b.body s.soil[p].limits
    have hconsistent : k.consistent = true ↔ consistent := consistent_iff k
    refine ⟨fun hl => setSoilLimits_onlyEnds hb (actSetSoilLimits_badLength ht hl), fun hl hn => ?_, fun hl hc => ?_⟩
    · exact setSoilLimits_onlyEnds hb (by rw [actSetSoilLimits_eq ht hl, hk, if_neg (mt hconsistent.mp hn)])
    · have ha : actSetSoilLimits b s = (setLimits p k s, .done) := by
        rw [actSetSoilLimits_eq ht hl, hk, if_pos (hconsistent.mpr hc)]
      exact soilBlock_done (i := .setSoilLimits) (fun _ => rfl) hb ha (setLimits_unseen p k s) (setLimits_soil p k s)
        ((Raised.calm (calm_of_blockInHand hb)).setLimits p k)

end Sys2Proof.Proofs
end

section
/-! Rectangles that others cover, the hidden marks of a layout (R77), and the clipped destination of a tile (R81). -/

namespace Sys2Proof.Machine

-- The proofs are elaborated in order: side by side, each would hold a thread of its own, and its memory.
set_option Elab.async false

/-! ## The pixels of a rectangle (R72, R81) -/

theorem Rect.has_iff (r : Rect) (x y : Nat) :
    r.has x y = true ↔ (r.x ≤ x ∧ x < r.x + r.w) ∧ r.y ≤ y ∧ y < r.y + r.h := by
  rw [Rect.has, decide_eq_true_iff, and_assoc]

theorem Rect.clip_has_iff (r : Rect) (width height x y : Nat) :
    (r.clip width height).has x y = true ↔ r.has x y = true ∧ x < width ∧ y < height := by
  simp only [Rect.has_iff, Rect.clip]
  omega

/-- A rectangle that holds a pixel is not empty. -/
theorem Rect.isEmpty_eq_false_of_has {r : Rect} {x y : Nat} (h : r.has x y = true) : r.isEmpty = false := by
  rw [Rect.has_iff] at h
  rw [Rect.isEmpty, decide_eq_false_iff_not]
  omega

/-! ## Coverage (R77, R82) -/

/-- Of the edges looked at, the greatest up to a place beyond the first edge. -/
theorem exists_greatest_edge {a x : Nat} (edges : List Nat) (h : a ≤ x) :
    ∃ m ∈ a :: edges, a ≤ m ∧ m ≤ x ∧ ∀ n ∈ edges, n ≤ x → n ≤ m := by
  have upTo (n : Nat) : n ∈ ((a :: edges).filter (· ≤ x)).toFinset ↔ n ∈ a :: edges ∧ n ≤ x := by
    rw [List.mem_toFinset, List.mem_filter, decide_eq_true_iff]
  obtain ⟨m, hm, hgreatest⟩ :=
    Finset.exists_max_image _ id ⟨a, (upTo a).mpr ⟨List.mem_cons_self .., h⟩⟩
  obtain ⟨hmem, hle⟩ := (upTo m).mp hm
  exact ⟨m, hmem, hgreatest a ((upTo a).mpr ⟨List.mem_cons_self .., h⟩), hle,
    fun n hn hx => hgreatest n ((upTo n).mpr ⟨List.mem_cons_of_mem _ hn, hx⟩)⟩

/-- The columns and lines that `Rect.coveredBy` looks at suffice: a pixel is covered where the one at the nearest such column to its
left and the nearest such line above it is, since no right or bottom edge lies between the two. -/
theorem Rect.coveredBy_iff (r : Rect) (others : List Rect) :
    r.coveredBy others = true ↔ ∀ x y, r.has x y = true → ∃ o ∈ others, o.has x y = true := by
  have looked : r.coveredBy others = true ↔
      ∀ x ∈ r.x :: others.map (fun o => o.x + o.w), ∀ y ∈ r.y :: others.map (fun o => o.y + o.h),
        r.has x y = true → ∃ o ∈ others, o.has x y = true := by
    simp only [Rect.coveredBy, List.all_eq_true, Bool.or_eq_true, Bool.not_eq_true', List.any_eq_true, ← Bool.not_eq_true,
      imp_iff_not_or]
  rw [looked]
  refine ⟨fun h x y hxy => ?_, fun h x _ y _ => h x y⟩
  obtain ⟨⟨hleft, hright⟩, htop, hbottom⟩ := (Rect.has_iff ..).mp hxy
  obtain ⟨u, hu, hru, hux, hnearU⟩ := exists_greatest_edge (others.map fun o => o.x + o.w) hleft
  obtain ⟨v, hv, hrv, hvy, hnearV⟩ := exists_greatest_edge (others.map fun o => o.y + o.h) htop
  obtain ⟨o, ho, huv⟩ := h u hu v hv ((Rect.has_iff ..).mpr ⟨⟨hru, by omega⟩, hrv, by omega⟩)
  have hpastX := hnearU (o.x + o.w) (List.mem_map_of_mem ho)
  have hpastY := hnearV (o.y + o.h) (List.mem_map_of_mem ho)
  rw [Rect.has_iff] at huv
  exact ⟨o, ho, (Rect.has_iff ..).mpr (by omega)⟩

/-- Something holds of the image of an element after the `i`-th. -/
theorem exists_mem_map_drop_succ {α β : Type} {ts : List α} {i : Nat} {f : α → β} {P : β → Prop} :
    (∃ o ∈ (ts.drop (i + 1)).map f, P o) ↔ ∃ (j : Nat) (u : α), i < j ∧ ts[j]? = some u ∧ P (f u) := by
  constructor
  · rintro ⟨_, ho, hP⟩
    obtain ⟨u, hu, rfl⟩ := List.mem_map.mp ho
    obtain ⟨k, hk⟩ := List.mem_iff_getElem?.mp hu
    rw [List.getElem?_drop] at hk
    exact ⟨i + 1 + k, u, by omega, hk, hP⟩
  · rintro ⟨j, u, hj, hu, hP⟩
    have hk : (ts.drop (i + 1))[j - (i + 1)]? = some u := by rwa [List.getElem?_drop, Nat.add_sub_cancel' hj]
    exact ⟨f u, List.mem_map_of_mem (List.mem_of_getElem? hk), hP⟩

/-! ## The hidden marks (R77) -/

theorem markHidden_tiles (ts : List Tile) : (markHidden ts).map (fun t => t.tile) = ts := by
  induction ts with
  | nil => rfl
  | cons t later ih => rw [markHidden, List.map_cons, ih]

/-- Each mark is judged by the tiles after its own. -/
theorem markHidden_getElem? (ts : List Tile) (i : Nat) :
    (markHidden ts)[i]? = ts[i]?.map fun t =>
      { tile := t, hidden := t.dest.coveredBy ((ts.drop (i + 1)).map fun u => u.dest) } := by
  induction ts generalizing i with
  | nil => rfl
  | cons t later ih =>
    cases i with
    | zero => rfl
    | succ i => exact ih i

theorem hidden_iff {ts : List Tile} {i : Nat} {t : LaidTile} (ht : (markHidden ts)[i]? = some t) :
    t.hidden = true ↔ ∀ x y, t.tile.dest.has x y = true →
      ∃ (j : Nat) (u : Tile), i < j ∧ ts[j]? = some u ∧ u.dest.has x y = true := by
  rw [markHidden_getElem?, Option.map_eq_some_iff] at ht
  obtain ⟨u, -, rfl⟩ := ht
  simp only [Rect.coveredBy_iff, exists_mem_map_drop_succ]

/-- The topmost tile has no later one, and has pixels of its own. -/
theorem last_not_hidden {ts : List Tile} (hsize : ∀ t ∈ ts, 16 ≤ t.dest.w ∧ 16 ≤ t.dest.h) {t : LaidTile}
    (ht : (markHidden ts).getLast? = some t) : t.hidden = false := by
  have hlength : (markHidden ts).length = ts.length := by rw [← List.length_map, markHidden_tiles]
  have htile : t.tile ∈ ts := by
    rw [← markHidden_tiles ts]
    exact List.mem_map_of_mem (List.mem_of_getLast? ht)
  obtain ⟨hw, hh⟩ := hsize _ htile
  rw [List.getLast?_eq_getElem?] at ht
  by_contra hhidden
  obtain ⟨j, u, hj, hu, -⟩ := (hidden_iff ht).mp (eq_true_of_ne_false hhidden) t.tile.dest.x t.tile.dest.y
    ((Rect.has_iff ..).mpr (by omega))
  obtain ⟨hlt, -⟩ := List.getElem?_eq_some_iff.mp hu
  omega

end Sys2Proof.Machine

namespace Sys2Proof.Proofs

open Sys2Proof Sys2Proof.Machine Sys2Proof.Safety

/-- Settles O12: the marks by `Rect.coveredBy_iff`, and the last tile as the one that is not hidden. -/
theorem hiddenExactlyWhenCovered : Obligations.HiddenExactlyWhenCovered := by
  unfold Obligations.HiddenExactlyWhenCovered
  refine ⟨Rect.has_iff, fun ts hsize =>
    ⟨markHidden_tiles ts, fun i t => hidden_iff, fun t => last_not_hidden hsize, fun hne => ?_⟩⟩
  have hmarked : markHidden ts ≠ [] := fun h => hne (by rw [← markHidden_tiles ts, h, List.map_nil])
  exact ⟨_, List.getLast_mem hmarked, last_not_hidden hsize (List.getLast?_eq_some_getLast hmarked)⟩

end Sys2Proof.Proofs
end

section
/-! The tiles of a frame: their sources, which of them are drawn, and what those show (R71, R79, R82, R94 to R98, R112). -/

namespace Sys2Proof.Machine

open Safety

-- The proofs are elaborated in order: side by side, each would hold a thread of its own, and its memory.
set_option Elab.async false

/-! ## The port of a source (R71, R112) -/

/-- The camera of a port fits the row of a symbol under a cab (R112). -/
def FitsRow (c : CameraRecord) (cab : AB) : Symbol → Prop
  | .front => c.role = .endCamera ∧ c.tip = some cab
  | .rear => c.role = .endCamera ∧ c.tip = some (if cab = .a then .b else .a)
  | .leftFlank => c.role = .flank ∧ c.tip = some cab ∧ c.side = some (if cab = .a then .b else .a)
  | .rightFlank => c.role = .flank ∧ c.tip = some cab ∧ c.side = some cab

/-- A defined port fits a symbol under the active cab (R112). -/
def Fits (s : State) (y : Symbol) (q : PortId) : Prop :=
  s.ports[q].undefined = false ∧ ∃ cab, s.cab = some cab ∧ FitsRow s.ports[q].camera cab y

theorem qualifiesFor_iff (c : CameraRecord) (cab : AB) (y : Symbol) : qualifiesFor c cab y = true ↔ FitsRow c cab y := by
  cases cab <;> cases y <;> exact decide_eq_true_iff

section Resolve
variable {s : State} {y : Symbol}

theorem resolve_symbol_of_none (h : s.cab = none) : resolve s (.symbol y) = none := by
  unfold resolve
  rw [h]

theorem resolve_symbol_of_cab {cab : AB} (h : s.cab = some cab) :
    resolve s (.symbol y) = Fin.find? fun q : PortId => !s.ports[q].undefined && qualifiesFor s.ports[q].camera cab y := by
  rw [Fin.find?_eq_find?_finRange]
  unfold resolve
  rw [h]

theorem fits_iff_of_cab {cab : AB} (h : s.cab = some cab) (q : PortId) :
    (!s.ports[q].undefined && qualifiesFor s.ports[q].camera cab y) = true ↔ Fits s y q := by
  simp only [Fits, h, Option.some.injEq, exists_eq_left', Bool.and_eq_true, Bool.not_eq_true', qualifiesFor_iff]

theorem resolve_symbol_eq_some {q : PortId} :
    resolve s (.symbol y) = some q ↔ Fits s y q ∧ ∀ k < q, ¬ Fits s y k := by
  cases h : s.cab with
  | none => simp [resolve_symbol_of_none h, Fits, h]
  | some cab =>
    rw [resolve_symbol_of_cab h, Fin.find?_eq_some_iff]
    simp only [← Bool.not_eq_true, fits_iff_of_cab h]

theorem resolve_symbol_eq_none : resolve s (.symbol y) = none ↔ ∀ q, ¬ Fits s y q := by
  cases h : s.cab with
  | none => simp [resolve_symbol_of_none h, Fits, h]
  | some cab =>
    rw [resolve_symbol_of_cab h, Fin.find?_eq_none_iff]
    simp only [← Bool.not_eq_true, fits_iff_of_cab h]

end Resolve

/-! ## The shown source of a tile (R94) -/

/-- The port of a tile's alternate as its name resolves. -/
def alternatePort (s : State) (t : Tile) : Option PortId := t.alternate.bind (resolve s)

theorem resolveTile_eq (s : State) (t : Tile) :
    resolveTile s t =
      (resolve s t.primary, if alternatePort s t = resolve s t.primary then none else alternatePort s t) := by
  unfold resolveTile alternatePort
  cases t.alternate <;> rfl

/-- No primary that could be shown before an alternate (R94). -/
def PrimaryYields (s : State) (t : Tile) : Prop :=
  ∀ q, resolve s t.primary = some q → s.ports[q].state = .live → s.soil[q].state = .blinded

/-- No alternate that could be shown: none at another port than the primary's is LIVE (R94). -/
def AlternateYields (s : State) (t : Tile) : Prop :=
  ∀ q, alternatePort s t = some q → alternatePort s t ≠ resolve s t.primary → ¬ s.ports[q].state = .live

section Choose
variable {s : State} {t : Tile} {q : PortId}

/-- The three tries of R94, in their order. -/
theorem chooseSource_eq (s : State) (t : Tile) :
    chooseSource s t =
      (((resolve s t.primary).filter fun q => portLive s q && decide (s.soil[q].state ≠ .blinded)).map fun q => (q, false)).or
        ((((if alternatePort s t = resolve s t.primary then none else alternatePort s t).filter (portLive s)).map
            fun q => (q, true)).or
          (((resolve s t.primary).filter (portLive s)).map fun q => (q, false))) := by
  unfold chooseSource
  rw [resolveTile_eq]
  dsimp only
  cases (resolve s t.primary).filter fun q => portLive s q && decide (s.soil[q].state ≠ .blinded) with
  | some q => rfl
  | none => cases (if alternatePort s t = resolve s t.primary then none else alternatePort s t).filter (portLive s) <;> rfl

theorem primary_filter_eq_none :
    ((resolve s t.primary).filter fun q => portLive s q && decide (s.soil[q].state ≠ .blinded)) = none ↔ PrimaryYields s t := by
  simp [PrimaryYields, portLive, Option.filter_eq_none_iff]

theorem alternate_filter_eq_none :
    ((if alternatePort s t = resolve s t.primary then none else alternatePort s t).filter (portLive s)) = none ↔
      AlternateYields s t := by
  by_cases h : alternatePort s t = resolve s t.primary
  · simp [AlternateYields, h]
  · simp [AlternateYields, h, portLive, Option.filter_eq_none_iff]

theorem chooseSource_primary (hp : resolve s t.primary = some q) (hl : s.ports[q].state = .live)
    (hb : s.soil[q].state ≠ .blinded) : chooseSource s t = some (q, false) := by
  have hshown : ((resolve s t.primary).filter fun q => portLive s q && decide (s.soil[q].state ≠ .blinded)) = some q :=
    Option.filter_eq_some_iff.mpr ⟨hp, Bool.and_eq_true_iff.mpr ⟨decide_eq_true hl, decide_eq_true hb⟩⟩
  rw [chooseSource_eq, hshown, Option.map_some, Option.some_or]

theorem chooseSource_alternate (hy : PrimaryYields s t) (ha : alternatePort s t = some q)
    (hne : alternatePort s t ≠ resolve s t.primary) (hl : s.ports[q].state = .live) : chooseSource s t = some (q, true) := by
  have hshown : (if alternatePort s t = resolve s t.primary then none else alternatePort s t).filter (portLive s) = some q :=
    Option.filter_eq_some_iff.mpr ⟨(if_neg hne).trans ha, decide_eq_true hl⟩
  rw [chooseSource_eq, primary_filter_eq_none.mpr hy, hshown, Option.map_none, Option.none_or, Option.map_some, Option.some_or]

/-- Neither the primary unsoiled nor the alternate: the primary is shown where it is LIVE. -/
theorem chooseSource_of_yields (hy : PrimaryYields s t) (hz : AlternateYields s t) :
    chooseSource s t = ((resolve s t.primary).filter (portLive s)).map fun q => (q, false) := by
  rw [chooseSource_eq, primary_filter_eq_none.mpr hy, alternate_filter_eq_none.mpr hz, Option.map_none, Option.none_or,
    Option.map_none, Option.none_or]

theorem chooseSource_blinded (hy : PrimaryYields s t) (hz : AlternateYields s t) (hp : resolve s t.primary = some q)
    (hl : s.ports[q].state = .live) : chooseSource s t = some (q, false) := by
  have hshown : (resolve s t.primary).filter (portLive s) = some q :=
    Option.filter_eq_some_iff.mpr ⟨hp, decide_eq_true hl⟩
  rw [chooseSource_of_yields hy hz, hshown, Option.map_some]

theorem chooseSource_none (hy : PrimaryYields s t) (hz : AlternateYields s t)
    (hn : ∀ q, resolve s t.primary = some q → ¬ s.ports[q].state = .live) : chooseSource s t = none := by
  have hnone : (resolve s t.primary).filter (portLive s) = none :=
    Option.filter_eq_none_iff.mpr fun q hq => mt of_decide_eq_true (hn q hq)
  rw [chooseSource_of_yields hy hz, hnone, Option.map_none]

end Choose

/-! ## The fill (R96) -/

theorem seekingOrLost_iff (s : State) (p : Option PortId) :
    seekingOrLost s p = true ↔ ∃ q, p = some q ∧ (s.ports[q].state = .seeking ∨ s.ports[q].state = .lost) := by
  cases p <;> simp [seekingOrLost]

/-- An alternate at the primary's port adds nothing to the fill, so that both names can be asked (R94, R96). -/
theorem fillOf_eq (s : State) (t : Tile) :
    fillOf s t =
      if (∃ q, (resolve s t.primary = some q ∨ alternatePort s t = some q) ∧
          (s.ports[q].state = .seeking ∨ s.ports[q].state = .lost)) then .striped else .black := by
  unfold fillOf
  rw [resolveTile_eq]
  refine if_congr ?_ rfl rfl
  simp only [or_and_right, exists_or, ← seekingOrLost_iff, Bool.or_eq_true]
  by_cases h : alternatePort s t = resolve s t.primary
  · simp [h, seekingOrLost]
  · rw [if_neg h]

/-! ## A drawn tile (R94 to R98) -/

section Drawn
variable (s : State) (l : LaidTile)

theorem drawnTile_record :
    (drawnTile s l).tile = l.tile ∧ (drawnTile s l).hidden = l.hidden ∧ (drawnTile s l).drawn = true := by
  unfold drawnTile
  split
  · exact ⟨rfl, rfl, rfl⟩
  · split <;> exact ⟨rfl, rfl, rfl⟩

variable {s l}

theorem drawnTile_filled (h : chooseSource s l.tile = none) : Filled (drawnTile s l) (fillOf s l.tile) := by
  unfold drawnTile
  rw [h]
  exact ⟨rfl, rfl, rfl, rfl⟩

variable {q : PortId} {alternate : Bool}

/-- A tile of a port without a READY slot (R96). -/
theorem drawnTile_of_no_slot (h : chooseSource s l.tile = some (q, alternate)) (hn : s.store[q].newest = none) :
    drawnTile s l = filledTile l .striped := by
  unfold drawnTile
  rw [h]
  dsimp only
  rw [hn]

/-- A tile of a port's newest READY slot (R95, R97, R98). -/
theorem drawnTile_of_slot {i : SlotId} (h : chooseSource s l.tile = some (q, alternate)) (hn : s.store[q].newest = some i) :
    let slot := s.store[q].slots[i]
    let age := since s.clock slot.stamp
    drawnTile s l =
      { tile := l.tile, hidden := l.hidden, drawn := true
        shown := some { port := q, alternate, slot := i, width := slot.width, height := slot.height, age }
        fill := .none, stale := decide (l.tile.maxAge < age), badge := badgeOf s.soil[q].state } := by
  unfold drawnTile
  rw [h]
  dsimp only
  rw [hn]

theorem drawnTile_shows (h : chooseSource s l.tile = some (q, alternate)) : Shows s (drawnTile s l) q alternate := by
  unfold Shows
  split
  · rename_i hn
    rw [drawnTile_of_no_slot h hn]
    exact ⟨rfl, rfl, rfl, rfl⟩
  · rename_i i hn
    rw [drawnTile_of_slot h hn]
    refine ⟨rfl, rfl, rfl, ?_⟩
    cases s.soil[q].state <;> rfl

end Drawn

/-! ## The frame tile list (R79, R82) -/

section Compose
variable (s : State) (width height : Nat)

theorem composeTiles_getElem? (ts : List LaidTile) (i : Nat) :
    (composeTiles s width height ts)[i]? =
      ts[i]?.map fun l => if isDrawn width height l (ts.drop (i + 1)) then drawnTile s l else undrawnTile l := by
  induction ts generalizing i with
  | nil => rfl
  | cons l later ih =>
    cases i with
    | zero => rfl
    | succ i => exact ih i

theorem composeTiles_length (ts : List LaidTile) : (composeTiles s width height ts).length = ts.length := by
  induction ts with
  | nil => rfl
  | cons l later ih => rw [composeTiles, List.length_cons, List.length_cons, ih]

/-- A tile is drawn where its mark is clear and a pixel of its clipped destination lies in no later one's (R82). -/
theorem isDrawn_iff (l : LaidTile) (ts : List LaidTile) (i : Nat) :
    isDrawn width height l (ts.drop (i + 1)) = true ↔
      l.hidden = false ∧ ∃ x y, (l.tile.dest.clip width height).has x y = true ∧
        ∀ (j : Nat) (u : LaidTile), i < j → ts[j]? = some u → (u.tile.dest.clip width height).has x y = false := by
  have uncovered :
      (l.tile.dest.clip width height).coveredBy ((ts.drop (i + 1)).map fun u => u.tile.dest.clip width height) = false ↔
      ∃ x y, (l.tile.dest.clip width height).has x y = true ∧
        ∀ (j : Nat) (u : LaidTile), i < j → ts[j]? = some u → (u.tile.dest.clip width height).has x y = false := by
    rw [← Bool.not_eq_true, Rect.coveredBy_iff]
    simp only [exists_mem_map_drop_succ]
    push Not
    simp only [Bool.not_eq_true]
  unfold isDrawn
  simp only [Bool.and_eq_true, Bool.not_eq_true', uncovered, and_assoc]
  refine and_congr_right fun _ => and_iff_right_of_imp ?_
  rintro ⟨x, y, hxy, -⟩
  exact Rect.isEmpty_eq_false_of_has hxy

end Compose

end Sys2Proof.Machine

namespace Sys2Proof.Proofs

open Sys2Proof Sys2Proof.Machine Sys2Proof.Safety

-- The proofs are elaborated in order: side by side, each would hold a thread of its own, and its memory.
set_option Elab.async false

/-- Settles O13: each tile of the list is drawn or not by `isDrawn_iff`, and a drawn one shows what `chooseSource` finds by its three
tries (R94). -/
theorem frameTilesAreDecided : Obligations.FrameTilesAreDecided := by
  unfold Obligations.FrameTilesAreDecided
  refine ⟨fun r width height x y => ⟨rfl, rfl, rfl, rfl, Rect.clip_has_iff r width height x y⟩, ?_⟩
  intro s width height ts live fits
  have hfits : fits = Fits s := by
    funext y q
    cases y <;> rfl
  rw [hfits]
  refine ⟨fun _ => rfl, fun _ _ => resolve_symbol_eq_some, fun _ => resolve_symbol_eq_none,
    composeTiles_length s width height ts, ?_⟩
  intro i l t hl ht p a
  rw [composeTiles_getElem?, hl, Option.map_some, Option.some.injEq] at ht
  rw [← isDrawn_iff]
  by_cases hd : isDrawn width height l (ts.drop (i + 1)) = true
  · obtain ⟨htile, hhidden, hdrawn⟩ := drawnTile_record s l
    rw [if_pos hd] at ht
    subst ht
    refine ⟨htile, hhidden, iff_of_true hdrawn hd, fun h => absurd hdrawn (ne_true_of_eq_false h), fun _ =>
      ⟨fun q hp hq hb => drawnTile_shows (chooseSource_primary hp hq hb), fun hy =>
        ⟨fun q ha hne hq => drawnTile_shows (chooseSource_alternate hy ha hne hq), fun hz =>
          ⟨fun q hp hq => drawnTile_shows (chooseSource_blinded hy hz hp hq), fun hn => ?_⟩⟩⟩⟩
    have hfilled := drawnTile_filled (chooseSource_none hy hz hn)
    rw [fillOf_eq] at hfilled
    exact hfilled
  · rw [if_neg hd] at ht
    subst ht
    exact ⟨rfl, rfl, iff_of_false Bool.false_ne_true hd, fun _ => ⟨rfl, rfl, rfl, rfl⟩, fun h => absurd h Bool.false_ne_true⟩

end Sys2Proof.Proofs
end

section
/-! The tile records of a LOAD LAYOUT body (R70 to R75, section 12.4). -/

namespace Sys2Proof.Machine

open Safety

-- The proofs are elaborated in order: side by side, each would hold a thread of its own, and its memory.
set_option Elab.async false

/-! ## Fields as numbers, and the fields of a record within a body (section 2.5) -/

theorem number_succ (body : List Byte) (off n : Nat) :
    number body off (n + 1) = bodyByte body off + 256 * number body (off + 1) n := by
  unfold number bodyByte
  rw [Finset.sum_range_succ', Nat.add_comm, Finset.mul_sum, Nat.add_zero, pow_zero, mul_one]
  congr 1
  refine Finset.sum_congr rfl fun i _ => ?_
  rw [Nat.add_right_comm, Nat.add_assoc off, pow_succ]
  ring

theorem field_eq_number (body : List Byte) (off n : Nat) : field body off n = number body off n := by
  induction n generalizing off with
  | zero => rw [field_zero, number, Finset.sum_range_zero]
  | succ n ih => rw [field_succ, number_succ, ih]

/-- A byte read as a number and held in a byte is as it was. -/
theorem toNat_ofNat_number (body : List Byte) (off : Nat) : (BitVec.ofNat 8 (number body off 1)).toNat = number body off 1 := by
  rw [← field_eq_number, field_one, bodyByte, BitVec.ofNat_toNat, BitVec.setWidth_eq]

/-- A field within a record of 32 bytes stands in the body at the record's offset and its own. -/
theorem number_record (body : List Byte) (start : Nat) {off n : Nat} (h : off + n ≤ 32) :
    number ((body.drop start).take 32) off n = number body (start + off) n := by
  refine Finset.sum_congr rfl fun i hi => ?_
  have hin : off + i < 32 := by
    have := Finset.mem_range.mp hi
    omega
  rw [List.getD_eq_getElem?_getD, List.getD_eq_getElem?_getD, List.getElem?_take_of_lt hin, List.getElem?_drop, Nat.add_assoc]

theorem rectOf_eq (bs : List Byte) (off : Nat) : rectOf bs off = rectAt bs off := by
  simp only [rectOf, rectAt, field_eq_number]

theorem rectAt_record (body : List Byte) (start : Nat) {off : Nat} (h : off + 8 ≤ 32) :
    rectAt ((body.drop start).take 32) off = rectAt body (start + off) := by
  simp (disch := omega) only [rectAt, number_record, Nat.add_assoc]

theorem tileAllowed_record (body : List Byte) (start : Nat) :
    TileAllowed ((body.drop start).take 32) 0 ↔ TileAllowed body start := by
  simp (disch := omega) only [TileAllowed, rectAt_record, number_record, Nat.zero_add, Nat.add_zero]

theorem tileGiven_record (body : List Byte) (start : Nat) (t : Tile) :
    TileGiven ((body.drop start).take 32) 0 t ↔ TileGiven body start t := by
  simp (disch := omega) only [TileGiven, rectAt_record, number_record, Nat.zero_add, Nat.add_zero]

/-! ## The fields of a tile record, each with its range (R70, R73, R74) -/

theorem portOf_eq_some {n : Nat} {p : PortId} : portOf n = some p ↔ n = p.val := by
  refine ⟨fun h => ?_, portOf_of_eq⟩
  by_cases hn : 12 ≤ n
  · rw [portOf_eq_none hn] at h
    cases h
  · rw [portOf, dif_pos (Nat.not_le.mp hn)] at h
    cases h
    rfl

theorem sourceOf_eq_some {n : Nat} {y : Source} : sourceOf n = some y ↔ Names n y := by
  constructor
  · intro h
    unfold sourceOf at h
    split_ifs at h with h16 h17 h18 h19
    · cases h; exact h16
    · cases h; exact h17
    · cases h; exact h18
    · cases h; exact h19
    · obtain ⟨p, hp, rfl⟩ := Option.map_eq_some_iff.mp h
      exact portOf_eq_some.mp hp
  · intro h
    cases y with
    | port p =>
      have hn : n = p.val := h
      have hp := p.isLt
      unfold sourceOf
      rw [if_neg (by omega), if_neg (by omega), if_neg (by omega), if_neg (by omega), portOf_of_eq hn]
      rfl
    | symbol y => cases y <;> cases h <;> rfl

theorem isSource_iff {n : Nat} : IsSource n ↔ ∃ y, Names n y := by
  constructor
  · rintro (h | ⟨h, h'⟩)
    · exact ⟨.port ⟨n, by omega⟩, rfl⟩
    · interval_cases n
      · exact ⟨.symbol .front, rfl⟩
      · exact ⟨.symbol .rear, rfl⟩
      · exact ⟨.symbol .leftFlank, rfl⟩
      · exact ⟨.symbol .rightFlank, rfl⟩
  · rintro ⟨y, hy⟩
    cases y with
    | port p =>
      have hp := p.isLt
      have hn : n = p.val := hy
      exact .inl (by omega)
    | symbol y => cases y <;> cases hy <;> exact .inr (by decide)

theorem Names.unique {n : Nat} {y z : Source} (hy : Names n y) (hz : Names n z) : y = z :=
  Option.some.inj ((sourceOf_eq_some.mpr hy).symm.trans (sourceOf_eq_some.mpr hz))

theorem Names.injective {n m : Nat} {y : Source} (hn : Names n y) (hm : Names m y) : n = m := by
  cases y with
  | port p => exact Eq.trans hn (Eq.symm hm)
  | symbol y => cases y <;> exact Eq.trans hn (Eq.symm hm)

theorem ne_absent_of_isSource {n : Nat} (h : IsSource n) : n ≠ 255 := by
  rcases h with h | ⟨-, h⟩ <;> omega

theorem alternateOf_absent : alternateOf 255 = some none := rfl

theorem alternateOf_named {n : Nat} {y : Source} (h : n ≠ 255) (hy : Names n y) : alternateOf n = some (some y) := by
  rw [alternateOf, if_neg h, sourceOf_eq_some.mpr hy, Option.map_some]

theorem exists_of_alternateOf {n : Nat} {a : Option Source} (h : alternateOf n = some a) (hn : n ≠ 255) :
    ∃ y, a = some y ∧ Names n y := by
  rw [alternateOf, if_neg hn, Option.map_eq_some_iff] at h
  obtain ⟨y, hy, rfl⟩ := h
  exact ⟨y, rfl, sourceOf_eq_some.mp hy⟩

theorem maxAgeOf_eq_some {n m : Nat} :
    maxAgeOf n = some m ↔ (n = 0 ∨ 20 ≤ n ∧ n ≤ 2000) ∧ m = if n = 0 then 100000 else 1000 * n := by
  unfold maxAgeOf
  split_ifs <;> simp only [Option.some.injEq, false_iff] <;> omega

theorem onCanvas_iff (r : Rect) : r.onCanvas = true ↔ 16 ≤ r.w ∧ 16 ≤ r.h ∧ r.x + r.w ≤ 1920 ∧ r.y + r.h ≤ 1200 :=
  decide_eq_true_iff

theorem sourceRectOk_iff (r dest : Rect) : sourceRectOk r dest = true ↔ SourceFits r dest := by
  simp only [sourceRectOk, scaleOk, SourceFits, Bool.and_eq_true, decide_eq_true_iff, and_assoc]

/-! ## The tile of a record (R70 to R74) -/

section Record
variable {bs : List Byte} {primary : Source} {alternate : Option Source}

/-- The conditions of R70 to R73 on the fields of a tile record, once its sources and age have been read. -/
def RecordFits (bs : List Byte) (primary : Source) (alternate : Option Source) : Prop :=
  (rectAt bs 0).onCanvas = true ∧ SourceFits (rectAt bs 8) (rectAt bs 0) ∧
  (alternate = none ∨ SourceFits (rectAt bs 16) (rectAt bs 0)) ∧ alternate ≠ some primary ∧ number bs 26 1 % 16 ≤ 8

/-- The tile of a record with its sources and age. -/
def recordTile (bs : List Byte) (primary : Source) (alternate : Option Source) (age : Nat) : Tile :=
  { dest := rectAt bs 0, primary, primaryRect := rectAt bs 8, alternate, alternateRect := rectAt bs 16
    mirror := (number bs 26 1).testBit 7, border := number bs 26 1 % 16
    colour := { r := BitVec.ofNat 8 (number bs 27 1), g := BitVec.ofNat 8 (number bs 28 1), b := BitVec.ofNat 8 (number bs 29 1) }
    maxAge := age }

theorem recordFits_iff :
    ((rectAt bs 0).onCanvas && sourceRectOk (rectAt bs 8) (rectAt bs 0) &&
      (alternate.isNone || sourceRectOk (rectAt bs 16) (rectAt bs 0)) && decide (alternate ≠ some primary) &&
      decide (number bs 26 1 % 16 ≤ 8)) = true ↔ RecordFits bs primary alternate := by
  simp only [RecordFits, Bool.and_eq_true, Bool.or_eq_true, sourceRectOk_iff, Option.isNone_iff_eq_none, decide_eq_true_iff,
    and_assoc]

/-- What a record must hold for a tile to come of it, and the tile. -/
theorem tileOf_eq_some {t : Tile} :
    tileOf bs = some t ↔ ∃ primary alternate age, Names (number bs 24 1) primary ∧ alternateOf (number bs 25 1) = some alternate ∧
      maxAgeOf (number bs 30 2) = some age ∧ RecordFits bs primary alternate ∧ t = recordTile bs primary alternate age := by
  constructor
  · intro h
    unfold tileOf at h
    simp only [field_eq_number, rectOf_eq] at h
    split at h
    · rename_i primary alternate age hp ha hm
      split at h
      · rename_i hfits
        cases h
        exact ⟨primary, alternate, age, sourceOf_eq_some.mp hp, ha, hm, recordFits_iff.mp hfits, rfl⟩
      · cases h
    · cases h
  · rintro ⟨primary, alternate, age, hp, ha, hm, hfits, rfl⟩
    unfold tileOf
    simp only [field_eq_number, rectOf_eq, sourceOf_eq_some.mpr hp, ha, hm]
    exact if_pos (recordFits_iff.mpr hfits)

theorem tileAllowed_of_tileOf {t : Tile} (h : tileOf bs = some t) : TileAllowed bs 0 := by
  obtain ⟨primary, alternate, age, hp, ha, hm, ⟨hdest, hprimary, halternate, hne, hborder⟩, -⟩ := tileOf_eq_some.mp h
  obtain ⟨hw, hh, hx, hy⟩ := (onCanvas_iff _).mp hdest
  obtain ⟨hage, -⟩ := maxAgeOf_eq_some.mp hm
  refine ⟨hw, hh, hx, hy, isSource_iff.mpr ⟨primary, hp⟩, hprimary, ?_, hborder, hage⟩
  by_cases hn : number bs 25 1 = 255
  · exact .inl hn
  · obtain ⟨y, rfl, hy⟩ := exists_of_alternateOf ha hn
    refine .inr ⟨isSource_iff.mpr ⟨y, hy⟩, fun heq => hne ?_, halternate.resolve_left nofun⟩
    rw [Names.unique hp (heq ▸ hy)]

theorem exists_tileOf (h : TileAllowed bs 0) : ∃ t, tileOf bs = some t ∧ TileGiven bs 0 t := by
  obtain ⟨hw, hh, hx, hy, hsource, hprimary, halternate, hborder, hage⟩ := h
  obtain ⟨primary, hp⟩ := isSource_iff.mp hsource
  have hdest := (onCanvas_iff _).mpr ⟨hw, hh, hx, hy⟩
  have hm := maxAgeOf_eq_some.mpr ⟨hage, rfl⟩
  have hcolour := toNat_ofNat_number bs
  rcases halternate with hn | ⟨hother, hne, hfits⟩
  · exact ⟨_, tileOf_eq_some.mpr ⟨primary, none, _, hp, hn ▸ alternateOf_absent, hm,
      ⟨hdest, hprimary, .inl rfl, nofun, hborder⟩, rfl⟩,
      rfl, hp, rfl, fun _ => rfl, fun h => absurd hn h, rfl, rfl, hcolour 27, hcolour 28, hcolour 29, rfl⟩
  · obtain ⟨y, hy⟩ := isSource_iff.mp hother
    have hpresent : number bs 25 1 ≠ 255 := ne_absent_of_isSource hother
    have hdistinct : some y ≠ some primary := fun h => hne (Names.injective hy (Option.some.inj h ▸ hp))
    exact ⟨_, tileOf_eq_some.mpr ⟨primary, some y, _, hp, alternateOf_named hpresent hy, hm,
      ⟨hdest, hprimary, .inr hfits, hdistinct, hborder⟩, rfl⟩,
      rfl, hp, rfl, fun h => absurd h hpresent, fun _ => ⟨⟨y, rfl, hy⟩, rfl⟩, rfl, rfl, hcolour 27, hcolour 28, hcolour 29, rfl⟩

end Record

/-! ## The tiles of a body (R75) -/

/-- The tile that a body's record of an index gives. -/
def tileAt (body : List Byte) (i : Nat) : Option Tile := tileOf ((body.drop (32 * i)).take 32)

section Body
variable {body : List Byte}

theorem tileAt_eq_none {i : Nat} (h : ¬ TileAllowed body (32 * i)) : tileAt body i = none := by
  by_contra hne
  obtain ⟨t, ht⟩ := Option.ne_none_iff_exists'.mp hne
  exact h ((tileAllowed_record body _).mp (tileAllowed_of_tileOf ht))

theorem exists_tileAt {i : Nat} (h : TileAllowed body (32 * i)) : ∃ t, tileAt body i = some t ∧ TileGiven body (32 * i) t := by
  obtain ⟨t, ht, hgiven⟩ := exists_tileOf ((tileAllowed_record body _).mpr h)
  exact ⟨t, ht, (tileGiven_record body _ t).mp hgiven⟩

theorem tilesFrom_of_none {i : Nat} (n : Nat) (h : tileAt body i = none) : tilesFrom body i (n + 1) = .error i := by
  unfold tileAt at h
  rw [tilesFrom, h]

theorem tilesFrom_of_some {i : Nat} (n : Nat) {t : Tile} (h : tileAt body i = some t) :
    tilesFrom body i (n + 1) = (tilesFrom body (i + 1) n).map (t :: ·) := by
  unfold tileAt at h
  rw [tilesFrom, h]
  cases tilesFrom body (i + 1) n <;> rfl

/-- Read from an index on, the first record out of range fails the list. -/
theorem tilesFrom_eq_error {start k n : Nat} (hk : k < n) (hbad : ¬ TileAllowed body (32 * (start + k)))
    (hgood : ∀ j, j < k → TileAllowed body (32 * (start + j))) : tilesFrom body start n = .error (start + k) := by
  induction n generalizing start k with
  | zero => cases hk
  | succ n ih =>
    cases k with
    | zero => exact tilesFrom_of_none n (tileAt_eq_none hbad)
    | succ k =>
      obtain ⟨t, ht, -⟩ := exists_tileAt (i := start) (hgood 0 (Nat.succ_pos k))
      have hshift (j : Nat) : start + (j + 1) = start + 1 + j := by omega
      rw [hshift] at hbad
      rw [tilesFrom_of_some n ht, ih (Nat.lt_of_succ_lt_succ hk) hbad fun j hj => hshift j ▸ hgood (j + 1) (Nat.succ_lt_succ hj)]
      exact congrArg Except.error (hshift k).symm

/-- Read from an index on, records within their ranges give their tiles, in order. -/
theorem exists_tilesFrom {start n : Nat} (hgood : ∀ j, j < n → TileAllowed body (32 * (start + j))) :
    ∃ ts, tilesFrom body start n = .ok ts ∧ ts.length = n ∧
      ∀ j u, ts[j]? = some u → TileGiven body (32 * (start + j)) u := by
  induction n generalizing start with
  | zero => exact ⟨[], rfl, rfl, nofun⟩
  | succ n ih =>
    have hshift (j : Nat) : start + (j + 1) = start + 1 + j := by omega
    obtain ⟨t, ht, hgiven⟩ := exists_tileAt (i := start) (hgood 0 (Nat.succ_pos n))
    obtain ⟨ts, hts, hlength, hrest⟩ := ih fun j hj => hshift j ▸ hgood (j + 1) (Nat.succ_lt_succ hj)
    refine ⟨t :: ts, by rw [tilesFrom_of_some n ht, hts]; rfl, by rw [List.length_cons, hlength], fun j u hu => ?_⟩
    cases j with
    | zero =>
      cases hu
      exact hgiven
    | succ j => exact hshift j ▸ hrest j u hu

end Body

end Sys2Proof.Machine
end

section
/-! LOAD LAYOUT, CLEAR LAYOUT and SELECT LAYOUT (R75 to R78, R91). -/

namespace Sys2Proof.Machine

open Safety

-- The proofs are elaborated in order: side by side, each would hold a thread of its own, and its memory.
set_option Elab.async false

theorem layoutOf_of_eq {target : Nat} {y : LayoutId} (h : target = y.val) : layoutOf target = some y := by
  subst h
  exact dif_pos y.isLt

theorem layoutOf_eq_none {target : Nat} (h : 16 ≤ target) : layoutOf target = none := dif_neg (Nat.not_lt.2 h)

theorem displayOf_of_eq {target : Nat} {d : DisplayId} (h : target = d.val) : displayOf target = some d := by
  subst h
  exact dif_pos d.isLt

theorem displayOf_eq_none {target : Nat} (h : 4 ≤ target) : displayOf target = none := dif_neg (Nat.not_lt.2 h)

section Acts
variable {s : State} {b : InHand} {c : Chain} {e : Ending} {y : LayoutId} {d : DisplayId}

/-! ## Blocks that change a layout slot -/

theorem setLayout_layouts (y : LayoutId) (v : Layout) (s : State) : (setLayout y v s).layouts = s.layouts.set y v := rfl

/-- A lane 0 block whose action gives a layout slot its contents, and is done. -/
theorem layoutBlock_done {k : Kind} {act : InHand → State → State × Ending} {i : Instr} {v : Layout}
    (hi : ∀ s, exec i s = lane0Block k act s) (hb : BlockInHand s 0 k c b) (ha : act b s = (setLayout y v s, .done)) :
    ∃ t, exec i s = .next t ∧ t = { s with layouts := t.layouts, lanes := t.lanes, reports := t.reports, bus := t.bus } ∧
      t.layouts = s.layouts.set y v ∧ BlockDone s t c b .done [] [] := by
  have hraised : Raised s (setLayout y v s) [] [] := (Raised.calm (calm_of_blockInHand hb)).step rfl rfl rfl
  obtain ⟨hexec, hdone⟩ := lane0Block_ends hb ha hraised rfl rfl
  let others (v x : State) : State := { x with layouts := v.layouts, lanes := v.lanes, reports := v.reports, bus := v.bus }
  refine ⟨_, (hi s).trans hexec, ?_, by simp [setLayout_layouts], hdone⟩
  exact finishEvent_others others (fun _ => rfl) (fun _ _ _ _ => rfl) fun w =>
    (endBlock_unseen 0 c b.notify b.haltOnFail b.next .done _ (others w) fun _ _ _ _ => rfl).trans
      (setLayout_unseen y v s (others w) fun _ _ => rfl)

/-! ## LOAD LAYOUT (R75, R76) -/

theorem layoutLengthOk_iff (n : Nat) : layoutLengthOk n = true ↔ n ≠ 0 ∧ n ≤ 256 ∧ n % 32 = 0 := decide_eq_true_iff

theorem actLoadLayout_badTarget (ht : 16 ≤ b.target) : actLoadLayout b s = (s, .failed .badTarget 0) := by
  rw [actLoadLayout, layoutOf_eq_none ht]

theorem actLoadLayout_badLength (ht : b.target = y.val) (hl : layoutLengthOk b.body.length ≠ true) :
    actLoadLayout b s = (s, .failed .badValue 255) := by
  rw [actLoadLayout, layoutOf_of_eq ht]
  exact if_neg hl

theorem actLoadLayout_badTile {i : Nat} (ht : b.target = y.val) (hl : layoutLengthOk b.body.length = true)
    (htiles : tilesFrom b.body 0 (b.body.length / 32) = .error i) : actLoadLayout b s = (s, .failed .badValue i) := by
  rw [actLoadLayout, layoutOf_of_eq ht]
  dsimp only
  rw [if_pos hl, htiles]

theorem actLoadLayout_done {ts : List Tile} (ht : b.target = y.val) (hl : layoutLengthOk b.body.length = true)
    (htiles : tilesFrom b.body 0 (b.body.length / 32) = .ok ts) :
    actLoadLayout b s = (setLayout y (some (markHidden ts)) s, .done) := by
  rw [actLoadLayout, layoutOf_of_eq ht]
  dsimp only
  rw [if_pos hl, htiles]

theorem loadLayout_onlyEnds (hb : BlockInHand s 0 .loadLayout c b) (ha : actLoadLayout b s = (s, e)) :
    OnlyEnds .loadLayout s c b e := onlyEnds_of_act (fun _ => rfl) hb ha

/-! ## CLEAR LAYOUT (R78) -/

theorem actClearLayout_badTarget (ht : 16 ≤ b.target) : actClearLayout b s = (s, .failed .badTarget 0) := by
  rw [actClearLayout, layoutOf_eq_none ht]

theorem actClearLayout_badLength (ht : b.target = y.val) (hl : b.body.length ≠ 0) :
    actClearLayout b s = (s, .failed .badValue 255) := by
  rw [actClearLayout, layoutOf_of_eq ht]
  exact if_pos hl

theorem actClearLayout_done (ht : b.target = y.val) (hl : b.body.length = 0) :
    actClearLayout b s = (setLayout y none s, .done) := by
  rw [actClearLayout, layoutOf_of_eq ht]
  exact if_neg (not_not.mpr hl)

theorem clearLayout_onlyEnds (hb : BlockInHand s 0 .clearLayout c b) (ha : actClearLayout b s = (s, e)) :
    OnlyEnds .clearLayout s c b e := onlyEnds_of_act (fun _ => rfl) hb ha

/-! ## SELECT LAYOUT (R91) -/

theorem actSelectLayout_badTarget (ht : 4 ≤ b.target) : actSelectLayout b s = (s, .failed .badTarget 0) := by
  rw [actSelectLayout, displayOf_eq_none ht]

theorem actSelectLayout_badLength (ht : b.target = d.val) (hl : b.body.length ≠ 4) :
    actSelectLayout b s = (s, .failed .badValue 255) := by
  rw [actSelectLayout, displayOf_of_eq ht]
  exact if_pos hl

theorem actSelectLayout_badSlot (ht : b.target = d.val) (hl : b.body.length = 4) (hn : 16 ≤ number b.body 0 1) :
    actSelectLayout b s = (s, .failed .badValue 0) := by
  rw [actSelectLayout, displayOf_of_eq ht]
  dsimp only
  rw [if_neg (not_not.mpr hl), field_eq_number, layoutOf_eq_none hn]

theorem actSelectLayout_done (ht : b.target = d.val) (hl : b.body.length = 4) (hn : number b.body 0 1 = y.val) :
    actSelectLayout b s = (s.setDisplay d { s.displays[d] with selected := y }, .done) := by
  rw [actSelectLayout, displayOf_of_eq ht]
  dsimp only
  rw [if_neg (not_not.mpr hl), field_eq_number, layoutOf_of_eq hn]

theorem selectLayout_onlyEnds (hb : BlockInHand s 0 .selectLayout c b) (ha : actSelectLayout b s = (s, e)) :
    OnlyEnds .selectLayout s c b e := onlyEnds_of_act (fun _ => rfl) hb ha

/-- A lane 0 block whose action changes one display's record, and is done. -/
theorem displayBlock_done {k : Kind} {act : InHand → State → State × Ending} {i : Instr} {v : Display}
    (hi : ∀ s, exec i s = lane0Block k act s) (hb : BlockInHand s 0 k c b) (ha : act b s = (s.setDisplay d v, .done)) :
    ∃ t, exec i s = .next t ∧ t = { s with displays := t.displays, lanes := t.lanes, reports := t.reports, bus := t.bus } ∧
      t.displays = s.displays.set d v ∧ BlockDone s t c b .done [] [] := by
  have hraised : Raised s (s.setDisplay d v) [] [] := (Raised.calm (calm_of_blockInHand hb)).step rfl rfl rfl
  obtain ⟨hexec, hdone⟩ := lane0Block_ends hb ha hraised rfl rfl
  let others (v x : State) : State := { x with displays := v.displays, lanes := v.lanes, reports := v.reports, bus := v.bus }
  refine ⟨_, (hi s).trans hexec, ?_, by simp, hdone⟩
  exact finishEvent_others others (fun _ => rfl) (fun _ _ _ _ => rfl) fun w =>
    endBlock_unseen 0 c b.notify b.haltOnFail b.next .done _ (others w) fun _ _ _ _ => rfl

end Acts

end Sys2Proof.Machine

namespace Sys2Proof.Proofs

open Sys2Proof Sys2Proof.Machine Sys2Proof.Safety

-- The proofs are elaborated in order: side by side, each would hold a thread of its own, and its memory.
set_option Elab.async false

/-- Settles O51: the checks in their order, the tiles of a body by the first record out of range or by all in range, then the slot
or the selection. -/
theorem layoutBlocksChangeTheTable : Obligations.LayoutBlocksChangeTheTable := by
  unfold Obligations.LayoutBlocksChangeTheTable
  intro s c b n
  refine ⟨fun hb => ⟨fun ht => loadLayout_onlyEnds hb (actLoadLayout_badTarget ht), fun y ht =>
      ⟨fun hn => loadLayout_onlyEnds hb (actLoadLayout_badLength ht ?_), fun h0 h256 h32 => ?_⟩⟩,
    fun hb => ⟨fun ht => clearLayout_onlyEnds hb (actClearLayout_badTarget ht), fun y ht =>
      ⟨fun hn => clearLayout_onlyEnds hb (actClearLayout_badLength ht hn),
        fun hn => layoutBlock_done (fun _ => rfl) hb (actClearLayout_done ht hn)⟩⟩,
    fun hb => ⟨fun ht => selectLayout_onlyEnds hb (actSelectLayout_badTarget ht), fun d ht =>
      ⟨fun hn => selectLayout_onlyEnds hb (actSelectLayout_badLength ht hn),
        fun hn hslot => selectLayout_onlyEnds hb (actSelectLayout_badSlot ht hn hslot),
        fun y hn hslot => displayBlock_done (fun _ => rfl) hb (actSelectLayout_done ht hn hslot)⟩⟩⟩
  · rw [Ne, layoutLengthOk_iff]
    omega
  · have hl : layoutLengthOk b.body.length = true := (layoutLengthOk_iff _).mpr ⟨h0, h256, h32⟩
    refine ⟨fun i hi hbad hgood => ?_, fun hgood => ?_⟩
    · have htiles := tilesFrom_eq_error (start := 0) hi (by rwa [Nat.zero_add]) (by simpa only [Nat.zero_add] using hgood)
      rw [Nat.zero_add] at htiles
      exact loadLayout_onlyEnds hb (actLoadLayout_badTile ht hl htiles)
    · obtain ⟨ts, htiles, hlength, hgiven⟩ := exists_tilesFrom (start := 0) (by simpa only [Nat.zero_add] using hgood)
      obtain ⟨t, hexec, hshape, hlayouts, hdone⟩ :=
        layoutBlock_done (i := .loadLayout) (fun _ => rfl) hb (actLoadLayout_done ht hl htiles)
      refine ⟨t, ts, hexec, hshape, hlength, fun i u hu => ?_, hlayouts, hdone⟩
      simpa only [Nat.zero_add] using hgiven i u hu

end Sys2Proof.Proofs
end

section
/-! The doors, the stored vectors, the calling set and the overrides as one invariant of the part (R101, R116 to R122, R130 to R137,
R140), and how the operations that reach them keep it. -/

namespace Sys2Proof.Machine

open Safety

-- The proofs are elaborated in order: side by side, each would hold a thread of its own, and its memory.
set_option Elab.async false

/-! ## One door, one display -/

/-- A door under a cab: SHUT exactly while its level is inactive, viewed or assured only where a cab is active (R130, R135). -/
def DoorSound (cab : Option AB) (r : Door) : Prop :=
  (r.state = .shut ↔ r.level = false) ∧ ((∃ t, r.state = .viewing t ∨ r.state = .assured t) → cab ≠ none)

/-- A display under a cab and a calling set: an override display follows the set, any other has both sides IDLE, and an unconfigured
one has its door-screen flag clear (R89, R117, R121). -/
def PipeFollows (cab : Option AB) (calls : Sides) (d : DisplayId) (p : Display) : Prop :=
  let overrides := p.configured && p.settings.doorScreen && decide (cab = some (cabOf d))
  (overrides = true → StatusFollows calls.left p.left ∧ StatusFollows calls.right p.right) ∧
  (overrides = false → p.left = .idle ∧ p.right = .idle) ∧ (p.configured = false → p.settings.doorScreen = false)

section Door
variable {cab : Option AB} {r : Door}

/-- A door whose level and state stand. -/
theorem DoorSound.congr (h : DoorSound cab r) {r' : Door} (hs : r'.state = r.state := by rfl) (hl : r'.level = r.level := by rfl) :
    DoorSound cab r' := by
  unfold DoorSound
  rw [hs, hl]
  exact h

/-- A SHUT door, its level inactive. -/
theorem doorSound_shut (hs : r.state = .shut) (hl : r.level = false) : DoorSound cab r :=
  ⟨iff_of_true hs hl, fun ⟨t, ht⟩ => by rw [hs] at ht; rcases ht with ht | ht <;> cases ht⟩

/-- An OPENED door, its level active. -/
theorem doorSound_opened (hs : r.state = .opened) (hl : r.level = true) : DoorSound cab r :=
  ⟨by rw [hs, hl]; decide, fun ⟨t, ht⟩ => by rw [hs] at ht; rcases ht with ht | ht <;> cases ht⟩

/-- A door under an active cab, its level active, that is not SHUT. -/
theorem doorSound_of_cab (hc : cab ≠ none) (hs : r.state ≠ .shut) (hl : r.level = true) : DoorSound cab r :=
  ⟨iff_of_false hs (by rw [hl]; decide), fun _ => hc⟩

/-- The level of a door that is not SHUT. -/
theorem DoorSound.level_of_open (h : DoorSound cab r) (hs : r.state ≠ .shut) : r.level = true :=
  eq_true_of_ne_false fun hl => hs (h.1.2 hl)

theorem doorSound_changeLevel (r : Door) (level : Bool) (clock : Stamp) : DoorSound cab (r.changeLevel level clock) := by
  cases level with
  | true => exact doorSound_opened rfl rfl
  | false => exact doorSound_shut rfl rfl

theorem DoorSound.frameStep (h : DoorSound cab r) (hc : cab ≠ none) (stamp : Stamp) (view : Option (DisplayId × Nat)) :
    DoorSound cab (r.frameStep stamp view) := by
  have opens (hs : r.state ≠ .shut) := h.level_of_open hs
  unfold Door.frameStep
  cases hs : r.state with
  | shut => exact h
  | opened =>
    cases view with
    | some v => exact doorSound_of_cab hc nofun (opens (by rw [hs]; nofun))
    | none => exact h
  | viewing t =>
    cases view with
    | some v =>
      dsimp only
      split
      · exact doorSound_of_cab hc nofun (opens (by rw [hs]; nofun))
      · exact h
    | none => exact doorSound_opened rfl (opens (by rw [hs]; nofun))
  | assured t =>
    cases view with
    | some v => exact h
    | none => exact doorSound_opened rfl (opens (by rw [hs]; nofun))

theorem DoorSound.policy (h : DoorSound cab r) (isolated : Bool) (dwell : Nat) (clock : Stamp) :
    DoorSound cab (r.policy isolated dwell clock) := by
  unfold Door.policy
  dsimp only
  split
  · rename_i t hs
    split
    · exact doorSound_of_cab (h.2 ⟨t, .inr hs⟩) nofun (h.level_of_open (by rw [hs]; nofun))
    · exact h.congr
  · exact h.congr
  · exact h.congr
  · exact h.congr

/-- After the handover step a door is SHUT or OPENED, under any cab (R140). -/
theorem DoorSound.handover (h : DoorSound cab r) (cab' : Option AB) : DoorSound cab' r.handover := by
  unfold Door.handover
  split
  · rename_i hs
    exact doorSound_shut hs (h.1.1 hs)
  · rename_i hs
    exact doorSound_opened hs (h.level_of_open (by rw [hs]; nofun))
  · rename_i hs
    exact doorSound_opened rfl (h.level_of_open (by rw [hs]; nofun))
  · rename_i hs
    exact doorSound_opened rfl (h.level_of_open (by rw [hs]; nofun))

end Door

section Pipe
variable {cab : Option AB} {calls : Sides} {d : DisplayId} {p : Display}

/-- A display whose configuration, door-screen flag and sides stand. -/
theorem PipeFollows.congr (h : PipeFollows cab calls d p) {p' : Display} (hc : p'.configured = p.configured := by rfl)
    (hs : p'.settings.doorScreen = p.settings.doorScreen := by rfl) (hl : p'.left = p.left := by rfl)
    (hr : p'.right = p.right := by rfl) : PipeFollows cab calls d p' := by
  unfold PipeFollows
  rw [hc, hs, hl, hr]
  exact h

/-- A side that starts or stops calling is followed (R118, R119). -/
theorem statusFollows_step {was : Bool} {t : SideStatus} (h : StatusFollows was t) (now : Bool) (clock : Stamp) (hold : Nat) :
    StatusFollows now (SideStatus.step was now clock hold t) := by
  unfold SideStatus.step
  by_cases hw : was = now
  · rw [if_pos hw, ← hw]
    exact h
  · rw [if_neg hw]
    cases now with
    | true => exact iff_of_true rfl rfl
    | false =>
      obtain rfl : t = .called := h.2 (eq_true_of_ne_false hw)
      rw [if_neg Bool.false_ne_true]
      dsimp only
      split <;> exact iff_of_false nofun Bool.false_ne_true

/-- A hold that expires is that of a side that does not call (R120). -/
theorem statusFollows_expire {calls : Bool} {t : SideStatus} (h : StatusFollows calls t) (clock : Stamp) :
    StatusFollows calls (t.expire clock) := by
  cases t with
  | idle => exact h
  | called => exact h
  | held e =>
    have hc : ¬ calls = true := fun hc => nomatch h.2 hc
    unfold SideStatus.expire
    dsimp only
    split <;> exact iff_of_false nofun hc

theorem statusFollows_recomputed (calls : Bool) : StatusFollows calls (if calls then .called else .idle) := by
  cases calls with
  | true => exact iff_of_true rfl rfl
  | false => exact iff_of_false nofun Bool.false_ne_true

/-- The side statuses of a display recomputed without hold follow any calling set (R122). -/
theorem pipeFollows_recomputed {s : State} (hcab : s.cab = cab) (calls : Sides)
    (hu : s.displays[d].configured = false → s.displays[d].settings.doorScreen = false) :
    PipeFollows cab calls d (recomputedDisplay s calls d) := by
  subst hcab
  unfold recomputedDisplay
  dsimp only
  split
  · rename_i hover
    exact ⟨fun _ => ⟨statusFollows_recomputed _, statusFollows_recomputed _⟩, fun hn => absurd (hover.symm.trans hn) nofun, hu⟩
  · rename_i hover
    exact ⟨fun hn => absurd hn hover, fun _ => ⟨rfl, rfl⟩, hu⟩

/-- A hold of one display expires. -/
theorem PipeFollows.expireLeft (h : PipeFollows cab calls d p) (clock : Stamp) :
    PipeFollows cab calls d { p with left := p.left.expire clock } := by
  obtain ⟨hover, hidle, hu⟩ := h
  refine ⟨fun ho => ⟨statusFollows_expire (hover ho).1 clock, (hover ho).2⟩, fun ho => ⟨?_, (hidle ho).2⟩, hu⟩
  dsimp only
  rw [(hidle ho).1]
  rfl

theorem PipeFollows.expireRight (h : PipeFollows cab calls d p) (clock : Stamp) :
    PipeFollows cab calls d { p with right := p.right.expire clock } := by
  obtain ⟨hover, hidle, hu⟩ := h
  refine ⟨fun ho => ⟨(hover ho).1, statusFollows_expire (hover ho).2 clock⟩, fun ho => ⟨(hidle ho).1, ?_⟩, hu⟩
  dsimp only
  rw [(hidle ho).2]
  rfl

end Pipe

/-! ## The invariant of the part -/

/-- Doors, stored vectors and displays are sound with the calling set last handed, whether or not the doors have moved on since. -/
structure PipesFollow (s : State) : Prop where
  doors : ∀ k : DoorId, DoorSound s.cab s.doors[k]
  stored : VerdictsOfCab s
  pipes : ∀ d : DisplayId, PipeFollows s.cab s.calling d s.displays[d]

/-- Between two events the calling set last handed is that of the doors (R116). -/
structure ScreensFollow (s : State) : Prop extends PipesFollow s where
  calling : s.calling = callingSet s

theorem screensFollow_iff (s : State) : ScreensFollow s ↔ ViewsNeedCab s ∧ VerdictsOfCab s ∧ OverridesFollow s := by
  constructor
  · rintro ⟨⟨hdoors, hstored, hpipes⟩, hcalling⟩
    exact ⟨⟨fun k => (hdoors k).1, fun k => (hdoors k).2⟩, hstored, hcalling, hpipes⟩
  · rintro ⟨⟨hlevels, hviews⟩, hstored, hcalling, hpipes⟩
    exact ⟨⟨fun k => ⟨hlevels k, hviews k⟩, hstored, hpipes⟩, hcalling⟩

/-- The cab, the doors, the stored vectors, the calling set and the displays stand. -/
structure SameScreens (s t : State) : Prop where
  cab : t.cab = s.cab := by simp
  doors : t.doors = s.doors := by simp
  stored : t.stored = s.stored := by simp
  calling : t.calling = s.calling := by simp
  displays : t.displays = s.displays := by simp

section Frame
variable {s t : State}

theorem SameScreens.refl (s : State) : SameScreens s s := ⟨rfl, rfl, rfl, rfl, rfl⟩

theorem SameScreens.trans {u : State} (h : SameScreens s t) (hu : SameScreens t u) : SameScreens s u :=
  ⟨hu.cab.trans h.cab, hu.doors.trans h.doors, hu.stored.trans h.stored, hu.calling.trans h.calling, hu.displays.trans h.displays⟩

/-- The calling set reads the cab, and which doors are isolated or SHUT. -/
theorem callingSet_congr (hc : t.cab = s.cab) (hd : ∀ k : DoorId, t.doors[k].isolated = s.doors[k].isolated ∧
    t.doors[k].state.isShut = s.doors[k].state.isShut) : callingSet t = callingSet s := by
  have sides (cab : AB) (side : CabSide) : sideCalls t cab side = sideCalls s cab side := by
    unfold sideCalls
    simp only [hd]
  unfold callingSet
  rw [hc]
  cases s.cab with
  | none => rfl
  | some cab => simp only [sides]

theorem PipesFollow.same (h : PipesFollow s) (hs : SameScreens s t) : PipesFollow t := by
  obtain ⟨hdoors, hstored, hpipes⟩ := h
  obtain ⟨cab, doors, stored, calling, displays⟩ := hs
  refine ⟨?_, ?_, ?_⟩
  · rw [cab, doors]
    exact hdoors
  · unfold VerdictsOfCab
    rw [cab, stored]
    exact hstored
  · rw [cab, calling, displays]
    exact hpipes

theorem ScreensFollow.same (h : ScreensFollow s) (hs : SameScreens s t) : ScreensFollow t := by
  refine ⟨h.toPipesFollow.same hs, ?_⟩
  rw [hs.calling, callingSet_congr hs.cab fun k => by rw [hs.doors]; exact ⟨rfl, rfl⟩]
  exact h.calling

/-- One display takes another value that follows. -/
theorem ScreensFollow.pipe (h : ScreensFollow s) (d : DisplayId) {p : Display} (hp : PipeFollows s.cab s.calling d p) :
    ScreensFollow (s.setDisplay d p) := by
  refine ⟨⟨h.doors, h.stored, fun e => ?_⟩, h.calling⟩
  show PipeFollows s.cab s.calling e (s.displays.set d p)[e]
  rw [getElem_set_fin]
  split
  · rename_i he
    exact he ▸ hp
  · exact h.pipes e

/-- The doors take other values that are sound. -/
theorem PipesFollow.moveDoors (h : PipesFollow s) {doors : Vector Door 8} (hd : ∀ k : DoorId, DoorSound s.cab doors[k]) :
    PipesFollow { s with doors } := ⟨hd, h.stored, h.pipes⟩

/-- One door's line or timer changes. -/
theorem ScreensFollow.sameDoor (h : ScreensFollow s) (k : DoorId) {r : Door} (hs : r.state = s.doors[k].state := by rfl)
    (hl : r.level = s.doors[k].level := by rfl) (hi : r.isolated = s.doors[k].isolated := by rfl) :
    ScreensFollow (s.setDoor k r) := by
  refine ⟨h.toPipesFollow.moveDoors fun j => ?_, h.calling.trans (callingSet_congr (s := s) (t := s.setDoor k r) rfl fun j => ?_).symm⟩
  · rw [getElem_set_fin]
    split
    · rename_i hj
      exact (h.doors j).congr (hj ▸ hs) (hj ▸ hl)
    · exact h.doors j
  · rw [State.setDoor_doors, getElem_set_fin]
    split
    · rename_i hj
      subst hj
      rw [hs, hi]
      exact ⟨rfl, rfl⟩
    · exact ⟨rfl, rfl⟩

end Frame

variable {s : State}

/-! ## Doors (chapters 6 and 7) -/

theorem recomputeCalling_calling (s : State) : (recomputeCalling s).calling = callingSet s := by
  unfold recomputeCalling
  dsimp only
  split
  · rename_i h
    exact h.symm
  · rfl

theorem recomputeCalling_of_eq (h : callingSet s = s.calling) : recomputeCalling s = s := if_pos h

/-- The calling set is that of the doors again, and every override display follows it (R116, R118, R119). -/
theorem PipesFollow.recomputeCalling (h : PipesFollow s) : ScreensFollow (recomputeCalling s) := by
  by_cases hc : callingSet s = s.calling
  · rw [recomputeCalling_of_eq hc]
    exact ⟨h, hc.symm⟩
  · unfold Machine.recomputeCalling
    rw [if_neg hc]
    refine ⟨⟨h.doors, h.stored, fun d => ?_⟩, rfl⟩
    obtain ⟨hover, hidle, hu⟩ := h.pipes d
    dsimp only
    rw [getElem_ofFn_fin]
    split
    · rename_i ho
      obtain ⟨hl, hr⟩ := hover ho
      exact ⟨fun _ => ⟨statusFollows_step hl _ _ _, statusFollows_step hr _ _ _⟩, fun hn => absurd (ho.symm.trans hn) nofun, hu⟩
    · rename_i ho
      exact ⟨fun hn => absurd hn ho, hidle, hu⟩

theorem PipesFollow.doorsChanged (h : PipesFollow s) (before : Vector Door 8) : ScreensFollow (doorsChanged before s) :=
  h.recomputeCalling.same (t := Machine.doorsChanged before s)
    ⟨by simp, by simp, by simp, by simp [Machine.doorsChanged], by simp [Machine.doorsChanged]⟩

theorem PipesFollow.changeDoor (h : PipesFollow s) (k : DoorId) (level : Bool) : ScreensFollow (changeDoor k level s) := by
  refine PipesFollow.doorsChanged (h.moveDoors fun j => ?_) _
  rw [getElem_set_fin]
  split
  · exact doorSound_changeLevel _ _ _
  · exact h.doors j

/-- A door changes in RUN, or wakes the part (R133, R137, R184). -/
theorem ScreensFollow.doorLevel (h : ScreensFollow s) (k : DoorId) (level : Bool) : ScreensFollow (doorLevel k level s) := by
  unfold Machine.doorLevel
  split
  · exact h.toPipesFollow.changeDoor k level
  · exact (PipesFollow.changeDoor (h.toPipesFollow.same (t := leaveStabling (.door k) s) {}) k level).same {}

theorem ScreensFollow.setDoorPolicy (h : ScreensFollow s) (body : List Byte) : ScreensFollow (setDoorPolicy body s) := by
  have hd : PipesFollow { s with debounce := policyDebounce body s.debounce } := h.toPipesFollow.same {}
  refine PipesFollow.doorsChanged (hd.moveDoors fun k => ?_) _
  rw [getElem_ofFn_fin]
  exact (h.doors k).policy _ _ _

/-- The handover empties the stored vectors, leaves no door viewed, and recomputes every override (R122, R140). -/
theorem ScreensFollow.handover (h : ScreensFollow s) (cab : Option AB) : ScreensFollow (handover cab s) := by
  have hover : ScreensFollow (recomputeOverrides (handoverDoors { s with cab })) := by
    refine ⟨⟨fun k => ?_, fun d k _ => ?_, fun d => ?_⟩, rfl⟩
    · show DoorSound cab (Vector.ofFn fun d : DoorId => (s.doors[d]).handover)[k]
      rw [getElem_ofFn_fin]
      exact (h.doors k).handover cab
    · show (Vector.replicate 4 (Vector.replicate 8 (none : Option Nat)))[d][k] = none
      rw [getElem_replicate_fin, getElem_replicate_fin]
    · obtain ⟨-, -, hu⟩ := h.pipes d
      show PipeFollows cab _ d (Vector.ofFn _)[d]
      rw [getElem_ofFn_fin]
      exact pipeFollows_recomputed rfl _ hu
  unfold Machine.handover
  exact hover.same {}

/-! ## The frame start (R88, R92, R101, R132) -/

/-- A DARK frame hands an all-false vector to the Door Monitor (R101). -/
theorem verdicts_of_dark {d : DisplayId} (h : s.cab ≠ some (cabOf d)) (settings : DisplaySettings) (k : DoorId) :
    (verdictVector s settings (startTiles s d))[k] = none := by
  have hdark : startTiles s d = [] := if_neg fun hg => h (of_decide_eq_true hg).1
  rw [hdark]
  exact getElem_ofFn_fin _ k

theorem ScreensFollow.pipeStarted (h : ScreensFollow s) (d : DisplayId) : ScreensFollow (pipeStarted d s) := by
  have hlocked : ScreensFollow ((startTiles s d).foldl (lockTile d) s) := h.same {}
  have hstarted : ScreensFollow (((startTiles s d).foldl (lockTile d) s).setDisplay d
      (startedDisplay s d (startTiles s d) (verdictVector s s.displays[d].settings (startTiles s d)))) :=
    hlocked.pipe d (by simpa using PipeFollows.congr (h.pipes d))
  refine ⟨⟨hstarted.doors, fun e k he => ?_, hstarted.pipes⟩, hstarted.calling⟩
  have hcab : s.cab ≠ some (cabOf e) := by simpa [Machine.pipeStarted] using he
  have hstored : (Machine.pipeStarted d s).stored =
      s.stored.set d (verdictVector s s.displays[d].settings (startTiles s d)) := by simp [Machine.pipeStarted]
  rw [hstored, getElem_set_fin]
  split
  · rename_i hde
    subst hde
    exact verdicts_of_dark hcab _ k
  · exact h.stored e k hcab

theorem ScreensFollow.doorSteps (h : ScreensFollow s) (d : DisplayId) : ScreensFollow (doorSteps d s) := by
  unfold Machine.doorSteps
  split
  · rename_i hcab
    refine PipesFollow.doorsChanged (h.toPipesFollow.moveDoors fun k => ?_) _
    rw [getElem_ofFn_fin]
    exact (h.doors k).frameStep (by rw [hcab]; nofun) _ _
  · exact h

theorem ScreensFollow.takeFrameStart (h : ScreensFollow s) (d : DisplayId) : ScreensFollow (takeFrameStart d s) := by
  have hexport : ScreensFollow (exportAtStart d (Machine.pipeStarted d s)) := (h.pipeStarted d).same {}
  rw [takeFrameStart_eq]
  split
  · exact (hexport.doorSteps d).same {}
  · exact hexport.doorSteps d

/-! ## SET DISPLAY (R90, R122) -/

theorem setDisplay_setDisplay (s : State) (d : DisplayId) (p q : Display) :
    (s.setDisplay d p).setDisplay d q = s.setDisplay d q := by
  unfold State.setDisplay
  rw [Vector.set_set]

/-- A display of an unchanged door-screen flag keeps its sides; a changed one has them recomputed (R90, R122). -/
theorem ScreensFollow.overrideAfter (h : ScreensFollow s) (d : DisplayId) (settings : DisplaySettings) :
    ScreensFollow (overrideAfter s.displays[d].settings.doorScreen settings.doorScreen d
      (s.setDisplay d { s.displays[d] with settings, configured := true })) := by
  obtain ⟨hover, hidle, hu⟩ := h.pipes d
  unfold Machine.overrideAfter
  split
  · rename_i hflag
    have hsame : (true && settings.doorScreen && decide (s.cab = some (cabOf d))) =
        (s.displays[d].configured && s.displays[d].settings.doorScreen && decide (s.cab = some (cabOf d))) := by
      rw [← hflag]
      cases hc : s.displays[d].configured with
      | true => rfl
      | false => rw [hu hc]; rfl
    exact h.pipe d ⟨fun ho => hover (hsame ▸ ho), fun ho => hidle (hsame ▸ ho), nofun⟩
  · have hcalls : callingSet (s.setDisplay d { s.displays[d] with settings, configured := true }) = s.calling :=
      (callingSet_congr rfl fun _ => ⟨rfl, rfl⟩).trans h.calling.symm
    rw [setDisplay_setDisplay, hcalls]
    exact h.pipe d (pipeFollows_recomputed rfl _ (by simp))

theorem ScreensFollow.setDisplay (h : ScreensFollow s) (d : DisplayId) (settings : DisplaySettings) :
    ScreensFollow (setDisplay d settings s) := by
  have hset := h.overrideAfter d settings
  unfold Machine.setDisplay
  dsimp only
  split
  · exact hset
  · exact hset.takeFrameStart d

end Sys2Proof.Machine
end

section
/-! Every command keeps the doors, the stored vectors, the calling set and the overrides in step. -/

namespace Sys2Proof.Machine

open Safety

-- The proofs are elaborated in order: side by side, each would hold a thread of its own, and its memory.
set_option Elab.async false

/-- Whatever state an outcome goes on to has the screens of `s`. -/
def LeavesScreens (s : State) (o : Host.Outcome State Fault Refusal) : Prop := ∀ t, o = .next t → SameScreens s t

/-- In every state that an outcome can go on to, the screens follow the doors. -/
def KeepsScreens (o : Host.Outcome State Fault Refusal) : Prop := ∀ t, o = .next t → ScreensFollow t

variable {s : State}

theorem SameScreens.leaves {t : State} (h : SameScreens s t := by exact {}) : LeavesScreens s (.next t) := by
  rintro _ ⟨⟩; exact h

theorem SameScreens.finish {t : State} (h : SameScreens s t) : SameScreens s (finishEvent t) := h.trans {}

theorem leavesScreens_fault (f : Fault) : LeavesScreens s (.fault f) := by
  intro t h
  cases h

theorem ScreensFollow.keeps (h : ScreensFollow s) : KeepsScreens (.next s) := by
  rintro _ ⟨⟩; exact h

theorem ScreensFollow.finish (h : ScreensFollow s) : ScreensFollow (finishEvent s) := h.same {}

theorem ScreensFollow.keeps_of_leaves (h : ScreensFollow s) {o : Host.Outcome State Fault Refusal} (hl : LeavesScreens s o) :
    KeepsScreens o := fun t ht => h.same (hl t ht)

/-! ## The commands that leave the screens -/

theorem frameOpen_leaves (p : PortId) (count width height : Half) : LeavesScreens s (execFrameOpen p count width height s) := by
  unfold execFrameOpen
  split <;> exact SameScreens.leaves

theorem line_leaves (p : PortId) (n : Half) (payload : List Byte) (check : Half) :
    LeavesScreens s (execLine p n payload check s) := by
  unfold execLine
  split
  · exact SameScreens.leaves
  · split
    · exact SameScreens.leaves
    · split
      · exact SameScreens.leaves
      · exact leavesScreens_fault _

theorem frameClose_leaves (p : PortId) (count : Half) : LeavesScreens s (execFrameClose p count s) := by
  unfold execFrameClose
  split
  · exact SameScreens.leaves
  · split
    · exact SameScreens.leaves
    · split
      · exact SameScreens.leaves
      · exact leavesScreens_fault _

theorem silenceTimerExpiry_leaves (p : PortId) : LeavesScreens s (execSilenceTimerExpiry p s) := by
  unfold execSilenceTimerExpiry
  split <;> exact SameScreens.leaves

theorem evaluationService_leaves : LeavesScreens s (execEvaluationService s) := by
  unfold execEvaluationService
  split <;> exact SameScreens.leaves

/-- A write of a register reaches the window and the reports only. -/
theorem writeRegister_same (value : Word) (r : HostRegister) : SameScreens s (writeRegister value s r) := by
  cases r with
  | ident => exact .refl s
  | areaLo =>
    show SameScreens s (writeAreaLo value s)
    unfold writeAreaLo
    split <;> exact {}
  | areaHi =>
    show SameScreens s (writeAreaHi value s)
    unfold writeAreaHi
    split <;> exact {}
  | areaSize =>
    show SameScreens s (writeAreaSize value s)
    unfold writeAreaSize
    split
    · exact {}
    · dsimp only
      split <;> exact {}
  | command => exact { cab := rfl, doors := rfl, stored := rfl, calling := rfl, displays := rfl }
  | attention =>
    show SameScreens s (writeAttention value s)
    unfold writeAttention
    split <;> exact {}
  | status => exact .refl s
  | resetCause => exact { cab := rfl, doors := rfl, stored := rfl, calling := rfl, displays := rfl }

/-- The take of a captured word reaches the screens by its effect alone. -/
theorem takeWord_leaves (code : Nat) (effect : Word → Word → State → State)
    (he : ∀ w head, SameScreens s (finishEvent (effect w head (clearBusy s)))) : LeavesScreens s (takeWord code effect s) := by
  unfold takeWord
  split
  · exact SameScreens.leaves
  · split
    · exact (he _ _).leaves
    · exact SameScreens.leaves

theorem badCode_leaves : LeavesScreens s (execBadCode s) := by
  unfold execBadCode
  split
  · exact SameScreens.leaves
  · split <;> exact SameScreens.leaves

/-- A lane's walk reaches the lanes, the link and the reports. -/
theorem reachBlock_same (l : LaneId) (c : Chain) (rest : Chain → Header → State → State)
    (hr : ∀ c g u, SameScreens u (rest c g u)) : SameScreens s (reachBlock l c rest s) := by
  unfold reachBlock
  split
  · split
    · exact {}
    · exact SameScreens.trans {} (hr _ _ _)
  · exact {}

theorem headerRead_leaves (l : LaneId) : LeavesScreens s (execHeaderRead l s) := by
  unfold execHeaderRead
  split
  · exact SameScreens.leaves
  · exact (reachBlock_same l _ _ fun _ _ _ => {}).finish.leaves

theorem skipWalk_leaves (l : LaneId) : LeavesScreens s (execSkipWalk l s) := by
  unfold execSkipWalk
  split
  · exact SameScreens.leaves
  · exact (reachBlock_same l _ _ fun _ _ _ => {}).finish.leaves

theorem exportFrame_leaves : LeavesScreens s (execExportFrame s) := by
  unfold execExportFrame
  split
  · exact SameScreens.leaves
  · split
    · exact SameScreens.leaves
    · split <;> exact SameScreens.leaves

theorem exportScreen_leaves : LeavesScreens s (execExportScreen s) := by
  unfold execExportScreen
  split
  · exact SameScreens.leaves
  · split
    · exact SameScreens.leaves
    · split <;> exact SameScreens.leaves

theorem exportFrameRow_leaves : LeavesScreens s (execExportFrameRow s) := by
  unfold execExportFrameRow
  split
  · split
    · split
      · split
        · exact SameScreens.leaves
        · dsimp only
          split <;> exact SameScreens.leaves
      · exact SameScreens.leaves
    · exact leavesScreens_fault _
  · exact SameScreens.leaves
  · exact SameScreens.leaves
  · exact SameScreens.leaves

theorem exportScreenRow_leaves : LeavesScreens s (execExportScreenRow s) := by
  unfold execExportScreenRow
  split
  · split
    · split
      · split <;> exact SameScreens.leaves
      · exact SameScreens.leaves
    · exact leavesScreens_fault _
  · exact SameScreens.leaves
  · exact SameScreens.leaves
  · exact SameScreens.leaves

/-! ## The lane 0 blocks -/

/-- A lane 0 block acts, and its end reaches the lane, the link and the reports. -/
theorem ScreensFollow.lane0Block (h : ScreensFollow s) (kind : Kind) (act : InHand → State → State × Ending)
    (ha : ∀ b, ScreensFollow (act b s).1) : KeepsScreens (lane0Block kind act s) := by
  unfold Machine.lane0Block
  split
  · exact h.keeps
  · rename_i c b _
    split
    · have hb := ha b
      generalize act b s = r at hb
      obtain ⟨u, e⟩ := r
      exact ScreensFollow.keeps (hb.same {})
    · exact h.keeps

theorem actDefineCamera_same (b : InHand) : SameScreens s (actDefineCamera b s).1 := by
  unfold actDefineCamera
  split
  · exact .refl s
  · split
    · exact .refl s
    · split
      · exact .refl s
      · split <;> exact {}

theorem actParkCamera_same (b : InHand) : SameScreens s (actParkCamera b s).1 := by
  unfold actParkCamera
  split
  · exact .refl s
  · split
    · exact .refl s
    · split <;> exact {}

theorem actUnparkCamera_same (b : InHand) : SameScreens s (actUnparkCamera b s).1 := by
  unfold actUnparkCamera
  split
  · exact .refl s
  · split
    · exact .refl s
    · split
      · exact .refl s
      · split <;> exact {}

theorem actLoadLayout_same (b : InHand) : SameScreens s (actLoadLayout b s).1 := by
  unfold actLoadLayout
  split
  · exact .refl s
  · split
    · split <;> exact {}
    · exact .refl s

theorem actClearLayout_same (b : InHand) : SameScreens s (actClearLayout b s).1 := by
  unfold actClearLayout
  split
  · exact .refl s
  · split <;> exact {}

theorem actLearnReference_same (b : InHand) : SameScreens s (actLearnReference b s).1 := by
  unfold actLearnReference
  split
  · exact .refl s
  · dsimp only
    split
    · exact .refl s
    · split
      · exact .refl s
      · split <;> exact {}

theorem actSetReference_same (b : InHand) : SameScreens s (actSetReference b s).1 := by
  unfold actSetReference
  split
  · exact .refl s
  · split
    · exact .refl s
    · split <;> exact {}

theorem actMeasureOnce_same (b : InHand) : SameScreens s (actMeasureOnce b s).1 := by
  unfold actMeasureOnce
  split
  · exact .refl s
  · split
    · exact .refl s
    · split <;> exact {}

theorem actSetSoilLimits_same (b : InHand) : SameScreens s (actSetSoilLimits b s).1 := by
  unfold actSetSoilLimits
  split
  · exact .refl s
  · split
    · exact .refl s
    · split <;> exact {}

theorem actEnterStabling_same (b : InHand) : SameScreens s (actEnterStabling b s).1 := by
  unfold actEnterStabling
  split
  · exact .refl s
  · split
    · exact .refl s
    · split <;> exact {}

/-- SELECT LAYOUT changes a display's selection only. -/
theorem ScreensFollow.actSelectLayout (h : ScreensFollow s) (b : InHand) : ScreensFollow (actSelectLayout b s).1 := by
  unfold Machine.actSelectLayout
  split
  · exact h
  · split
    · exact h
    · split
      · exact h
      · exact h.pipe _ (h.pipes _).congr

theorem ScreensFollow.actSetDisplay (h : ScreensFollow s) (b : InHand) : ScreensFollow (actSetDisplay b s).1 := by
  unfold Machine.actSetDisplay
  split
  · exact h
  · split
    · exact h
    · split
      · exact h
      · split
        · exact h
        · dsimp only
          exact h.setDisplay _ _

theorem ScreensFollow.actSetCab (h : ScreensFollow s) (b : InHand) : ScreensFollow (actSetCab b s).1 := by
  unfold Machine.actSetCab
  split
  · exact h
  · split
    · exact h
    · split
      · exact h
      · dsimp only
        exact h.handover _

theorem ScreensFollow.actSetDoorPolicy (h : ScreensFollow s) (b : InHand) : ScreensFollow (actSetDoorPolicy b s).1 := by
  unfold Machine.actSetDoorPolicy
  split
  · exact h
  · split
    · dsimp only
      exact h.setDoorPolicy _
    · exact h

/-! ## Frames, holds and door lines -/

theorem ScreensFollow.frameStart (h : ScreensFollow s) (d : DisplayId) : KeepsScreens (execFrameStart d s) := by
  unfold execFrameStart
  split
  · exact (h.takeFrameStart d).finish.keeps
  · exact h.keeps

/-- A frame end changes a display's timing only. -/
theorem ScreensFollow.frameEnd (h : ScreensFollow s) (d : DisplayId) : KeepsScreens (execFrameEnd d s) := by
  have hreleased : ScreensFollow (releaseHolder (.display d) s) := h.same {}
  have hended := hreleased.pipe d (p := s.displays[d].endFrame) (by simpa using PipeFollows.congr (h.pipes d))
  unfold execFrameEnd
  split
  · exact ScreensFollow.keeps (hended.same {})
  · exact h.keeps

theorem ScreensFollow.holdExpiry (h : ScreensFollow s) (d : DisplayId) (side : CabSide) : KeepsScreens (execHoldExpiry d side s) := by
  unfold execHoldExpiry
  cases side with
  | left => exact (h.pipe d ((h.pipes d).expireLeft _)).keeps
  | right => exact (h.pipe d ((h.pipes d).expireRight _)).keeps

theorem ScreensFollow.doorLineEdge (h : ScreensFollow s) (k : DoorId) (level : Bool) : KeepsScreens (execDoorLineEdge k level s) := by
  unfold execDoorLineEdge
  dsimp only
  split
  · exact h.keeps
  · split
    · exact (h.sameDoor k).keeps
    · split
      · exact (ScreensFollow.doorLevel (h.sameDoor k) k level).finish.keeps
      · exact (h.sameDoor k).keeps

theorem ScreensFollow.debounceExpiry (h : ScreensFollow s) (k : DoorId) : KeepsScreens (execDebounceExpiry k s) := by
  have hd : ScreensFollow (s.setDoor k { s.doors[k] with timer := none }) := h.sameDoor k
  unfold execDebounceExpiry
  dsimp only
  split
  · exact h.keeps
  · split
    · split
      · exact hd.keeps
      · exact (hd.doorLevel k _).finish.keeps
    · exact h.keeps

/-! ## Every command -/

/-- At power-on no cab is active, every door is SHUT and every display is unconfigured (R86, R110, R125, R144). -/
theorem screensFollow_powerOn (s : State) : ScreensFollow (powerOn s) := by
  refine ⟨⟨fun k => ?_, fun d k _ => ?_, fun d => ?_⟩, rfl⟩
  · show DoorSound none (Vector.ofFn fun k : DoorId => Door.powerOn s.doors[k].raw)[k]
    rw [getElem_ofFn_fin]
    exact doorSound_shut rfl rfl
  · show (Vector.replicate 4 (Vector.replicate 8 (none : Option Nat)))[d][k] = none
    rw [getElem_replicate_fin, getElem_replicate_fin]
  · show PipeFollows none {} d (Vector.replicate 4 ({} : Display))[d]
    rw [getElem_replicate_fin]
    exact ⟨nofun, fun _ => ⟨rfl, rfl⟩, fun _ => rfl⟩

theorem linkReset_same (s : State) : SameScreens s (linkReset s) := by
  unfold linkReset
  exact {}

/-- Every command keeps the doors, the stored vectors, the calling set and the overrides in step. -/
theorem ScreensFollow.exec (h : ScreensFollow s) (i : Instr) : KeepsScreens (exec i s) := by
  cases i with
  | powerOn => exact (screensFollow_powerOn s).keeps
  | linkReset => exact (h.same (linkReset_same s)).keeps
  | frameOpen p count width height => exact h.keeps_of_leaves (frameOpen_leaves p count width height)
  | line p n payload check => exact h.keeps_of_leaves (line_leaves p n payload check)
  | frameClose p count => exact h.keeps_of_leaves (frameClose_leaves p count)
  | unknownPacket p => exact h.keeps
  | silenceTimerExpiry p => exact h.keeps_of_leaves (silenceTimerExpiry_leaves p)
  | evaluationService => exact h.keeps_of_leaves evaluationService_leaves
  | frameStart d => exact h.frameStart d
  | frameEnd d => exact h.frameEnd d
  | holdExpiry d side => exact h.holdExpiry d side
  | doorLineEdge k level => exact h.doorLineEdge k level
  | debounceExpiry k => exact h.debounceExpiry k
  | areaLoWrite v => exact (h.same (writeRegister_same v .areaLo)).keeps
  | areaHiWrite v => exact (h.same (writeRegister_same v .areaHi)).keeps
  | areaSizeWrite v => exact (h.same (writeRegister_same v .areaSize)).keeps
  | statusRead => exact h.keeps_of_leaves SameScreens.leaves
  | resetCauseWrite v => exact (h.same (writeRegister_same v .resetCause)).keeps
  | registerWrite r v => exact (h.same (writeRegister_same v r)).keeps
  | attentionWrite v => exact (h.same (writeRegister_same v .attention)).keeps
  | runChain => exact h.keeps_of_leaves (takeWord_leaves 1 _ fun _ _ => {})
  | haltLane => exact h.keeps_of_leaves (takeWord_leaves 2 _ fun _ _ => {})
  | acknowledge => exact h.keeps_of_leaves (takeWord_leaves 3 _ fun _ _ => {})
  | restart => exact h.keeps_of_leaves (takeWord_leaves 4 _ fun _ _ => {})
  | wake => exact h.keeps_of_leaves (takeWord_leaves 5 _ fun _ _ => {})
  | badCode => exact h.keeps_of_leaves badCode_leaves
  | headerRead l => exact h.keeps_of_leaves (headerRead_leaves l)
  | skipWalk l => exact h.keeps_of_leaves (skipWalk_leaves l)
  | defineCamera => exact h.lane0Block .defineCamera Machine.actDefineCamera fun b => h.same (actDefineCamera_same b)
  | parkCamera => exact h.lane0Block .parkCamera Machine.actParkCamera fun b => h.same (actParkCamera_same b)
  | unparkCamera => exact h.lane0Block .unparkCamera Machine.actUnparkCamera fun b => h.same (actUnparkCamera_same b)
  | loadLayout => exact h.lane0Block .loadLayout Machine.actLoadLayout fun b => h.same (actLoadLayout_same b)
  | clearLayout => exact h.lane0Block .clearLayout Machine.actClearLayout fun b => h.same (actClearLayout_same b)
  | selectLayout => exact h.lane0Block .selectLayout Machine.actSelectLayout h.actSelectLayout
  | setDisplay => exact h.lane0Block .setDisplay Machine.actSetDisplay h.actSetDisplay
  | setCab => exact h.lane0Block .setCab Machine.actSetCab h.actSetCab
  | learnReference => exact h.lane0Block .learnReference Machine.actLearnReference fun b => h.same (actLearnReference_same b)
  | setReference => exact h.lane0Block .setReference Machine.actSetReference fun b => h.same (actSetReference_same b)
  | measureOnce => exact h.lane0Block .measureOnce Machine.actMeasureOnce fun b => h.same (actMeasureOnce_same b)
  | setSoilLimits => exact h.lane0Block .setSoilLimits Machine.actSetSoilLimits fun b => h.same (actSetSoilLimits_same b)
  | setDoorPolicy => exact h.lane0Block .setDoorPolicy Machine.actSetDoorPolicy h.actSetDoorPolicy
  | enterStabling => exact h.lane0Block .enterStabling Machine.actEnterStabling fun b => h.same (actEnterStabling_same b)
  | exportFrame => exact h.keeps_of_leaves exportFrame_leaves
  | exportScreen => exact h.keeps_of_leaves exportScreen_leaves
  | exportFrameRow => exact h.keeps_of_leaves exportFrameRow_leaves
  | exportScreenRow => exact h.keeps_of_leaves exportScreenRow_leaves

/-- Every step keeps the doors, the stored vectors, the calling set and the overrides in step. -/
theorem ScreensFollow.step {t : State} (h : ScreensFollow s) (hs : step s = .next t) : ScreensFollow t := by
  unfold Machine.step at hs
  split at hs
  · cases hs
    exact h.same (t := tick s) ⟨rfl, rfl, rfl, rfl, rfl⟩
  · rename_i i rest _
    have hrest : ScreensFollow { s with pending := rest } := h.same {}
    exact hrest.exec i t hs

end Sys2Proof.Machine
end

section
namespace Sys2Proof.Proofs

open Sys2Proof Sys2Proof.Machine Sys2Proof.Safety

/-- Settles O10: what the statement asks is one invariant, `ScreensFollow`, which every command keeps. -/
theorem doorsAndOverridesStayCoherent : Obligations.DoorsAndOverridesStayCoherent := by
  unfold Obligations.DoorsAndOverridesStayCoherent
  intro s t h hs
  exact (screensFollow_iff t).1 (ScreensFollow.step ((screensFollow_iff s).2 h) hs)

end Sys2Proof.Proofs
end

section
/-! A change of doors within an event, and the doors' steps at a frame start (R132 to R136, R139, R141 to R143). -/

namespace Sys2Proof.Machine

open Safety

-- The proofs are elaborated in order: side by side, each would hold a thread of its own, and its memory.
set_option Elab.async false

/-! ## The qualifying view of a door (R139) -/

theorem cabOf_eq_iff (e : DisplayId) (cab : AB) : cabOf e = cab ↔ (e.val < 2 ↔ cab = .a) := by
  unfold cabOf
  cases cab <;> split <;> simp_all

/-- The displays of a cab, one after the other. -/
theorem qualifyingView_eq (s : State) (cab : AB) (k : DoorId) :
    ∃ lo hi : DisplayId, lo < hi ∧ (∀ e, cabOf e = cab ↔ e = lo ∨ e = hi) ∧
      qualifyingView s cab k = (s.stored[lo][k].map fun i => (lo, i)).or (s.stored[hi][k].map fun i => (hi, i)) := by
  have pair (lo hi : DisplayId) : [lo, hi].findSome? (fun d => (s.stored[d][k]).map fun i => (d, i)) =
      (s.stored[lo][k].map fun i => (lo, i)).or (s.stored[hi][k].map fun i => (hi, i)) := by
    rw [List.findSome?_cons, List.findSome?_cons, List.findSome?_nil]
    cases s.stored[lo][k] <;> cases s.stored[hi][k] <;> rfl
  cases cab with
  | a => exact ⟨0, 1, by decide, by decide, pair 0 1⟩
  | b => exact ⟨2, 3, by decide, by decide, pair 2 3⟩

theorem qualifyingView_eq_none (s : State) (cab : AB) (k : DoorId) :
    qualifyingView s cab k = none ↔ ∀ e, cabOf e = cab → s.stored[e][k] = none := by
  obtain ⟨lo, hi, -, hof, hview⟩ := qualifyingView_eq s cab k
  simp only [hview, hof, Option.or_eq_none_iff, Option.map_eq_none_iff, forall_eq_or_imp, forall_eq]

theorem qualifyingView_eq_some (s : State) (cab : AB) (k : DoorId) (e : DisplayId) (i : Nat) :
    qualifyingView s cab k = some (e, i) ↔
      (cabOf e = cab ∧ s.stored[e][k] = some i) ∧ ∀ x < e, cabOf x = cab → s.stored[x][k] = none := by
  obtain ⟨lo, hi, hlt, hof, hview⟩ := qualifyingView_eq s cab k
  rw [hview]
  simp only [hof]
  constructor
  · intro h
    rcases Option.or_eq_some_iff.1 h with h | ⟨hn, h⟩
    · obtain ⟨j, hj, hej⟩ := Option.map_eq_some_iff.1 h
      cases hej
      refine ⟨⟨.inl rfl, hj⟩, fun x hx hxe => ?_⟩
      rcases hxe with rfl | rfl
      · exact absurd hx (lt_irrefl _)
      · exact absurd hx (lt_asymm hlt)
    · obtain ⟨j, hj, hej⟩ := Option.map_eq_some_iff.1 h
      cases hej
      refine ⟨⟨.inr rfl, hj⟩, fun x hx hxe => ?_⟩
      rcases hxe with rfl | rfl
      · exact Option.map_eq_none_iff.1 hn
      · exact absurd hx (lt_irrefl _)
  · rintro ⟨⟨rfl | rfl, hi⟩, hlow⟩
    · rw [hi]; rfl
    · rw [hlow lo hlt (.inl rfl), hi]; rfl

/-! ## What an event reports of a change of doors (R141, R143) -/

section Raised
variable {m s u : State} {ns : List Notice} {rs : List Record}

theorem recomputeLines_clear (u : State) : (recomputeLines u).clear = clearLines u := by
  unfold recomputeLines
  split
  · rename_i h
    exact h.symm
  · simp

/-- The lines are recomputed (R141). -/
theorem Raised.recomputeLines (h : Raised m u ns rs) :
    Raised m (recomputeLines u) (ns ++ clearNotices u (recomputeLines u)) (rs ++ clearRecords u (recomputeLines u)) := by
  unfold clearNotices clearRecords
  rw [recomputeLines_clear]
  unfold Machine.recomputeLines
  split
  · simpa only [List.append_nil] using h
  · have hmarked : Raised m (Machine.mark .part { u with clear := clearLines u }) ns (.part :: rs) :=
      Raised.mark (h.step rfl rfl rfl) .part
    exact (hmarked.raise .clear).congr (fun _ => Iff.rfl) fun r => by simp [or_comm]

theorem doorCode_eq (t : DoorState) : t.code = doorNumber t := by cases t <;> rfl

/-- A door whose line and timer stand is reported where it changed at all (R143). -/
theorem reported_eq_iff {r r' : Door} (hraw : r'.raw = r.raw) (htimer : r'.timer = r.timer) :
    r'.reported = r.reported ↔ r' = r := by
  cases r
  cases r'
  cases hraw
  cases htimer
  simp [Door.reported]

/-- The report of some doors' changes, door by door. -/
theorem Raised.reportDoorList (ks : List DoorId) (before : Vector Door 8) {u : State} {ns : List Notice} {rs : List Record}
    (h : Raised m u ns rs) :
    Raised m (ks.foldl (reportDoor before) u)
      (ns ++ ks.flatMap fun k => if u.doors[k].state.code = before[k].state.code then [] else [.door])
      (rs ++ ks.flatMap fun k => if u.doors[k].reported = before[k].reported then [] else [.door k]) := by
  induction ks generalizing u ns rs with
  | nil => simpa using h
  | cons k ks ih =>
    have hmarked : Raised m (if u.doors[k].reported = before[k].reported then u else Machine.mark (.door k) u) ns
        (rs ++ if u.doors[k].reported = before[k].reported then [] else [.door k]) := by
      split
      · simpa using h
      · exact (h.mark (.door k)).congr (fun _ => Iff.rfl) fun r => by simp [or_comm]
    have hone : Raised m (reportDoor before u k)
        (ns ++ if u.doors[k].state.code = before[k].state.code then [] else [.door])
        (rs ++ if u.doors[k].reported = before[k].reported then [] else [.door k]) := by
      unfold reportDoor
      dsimp only
      split
      · simpa using hmarked
      · exact hmarked.raise .door
    have hdoors : (reportDoor before u k).doors = u.doors := by simp
    have hrest := ih hone
    rwa [hdoors, List.append_assoc, List.append_assoc] at hrest

/-- The report of a change of doors that leaves every line and timer (R143). -/
theorem Raised.reportDoors (h : Raised m u ns rs)
    (hlines : ∀ k : DoorId, u.doors[k].raw = s.doors[k].raw ∧ u.doors[k].timer = s.doors[k].timer) :
    Raised m (reportDoors s.doors u) (ns ++ doorNotices s u) (rs ++ doorRecords s u) := by
  refine (h.reportDoorList (List.finRange 8) s.doors).congr (fun n => ?_) fun r => ?_
  · have hraised : n ∈ doorNotices s u ↔ n = .door ∧ ∃ k : DoorId, doorNumber u.doors[k].state ≠ doorNumber s.doors[k].state := by
      unfold doorNotices
      split
      · rename_i hk
        rw [List.mem_singleton, and_iff_left hk]
      · rename_i hk
        exact iff_of_false List.not_mem_nil fun hn => hk hn.2
    rw [List.mem_append, List.mem_append, hraised, List.mem_flatMap]
    simp only [List.mem_finRange, true_and, doorCode_eq, List.mem_ite_nil_left, List.mem_singleton, and_comm,
      exists_and_left, ne_eq]
  · have hchanged (k : DoorId) : u.doors[k].reported = s.doors[k].reported ↔ u.doors[k] = s.doors[k] :=
      reported_eq_iff (hlines k).1 (hlines k).2
    simp only [doorRecords, hchanged, List.mem_append, List.mem_flatMap, List.mem_map, List.mem_filter, List.mem_finRange,
      true_and, decide_eq_true_eq, List.mem_ite_nil_left, List.mem_singleton, eq_comm (a := r)]

/-- Lines and doors are reported where the doors have changed and the calling set has been recomputed (R141 to R143). -/
theorem Raised.doorsReported (h : Raised m u ns rs) (hclear : u.clear = s.clear)
    (hlines : ∀ k : DoorId, u.doors[k].raw = s.doors[k].raw ∧ u.doors[k].timer = s.doors[k].timer) :
    let t := Machine.reportDoors s.doors (Machine.recomputeLines u)
    Raised m t (ns ++ doorNotices s t ++ clearNotices s t) (rs ++ doorRecords s t ++ clearRecords s t) := by
  have hdoors : (Machine.recomputeLines u).doors = u.doors := by simp
  have hall := h.recomputeLines.reportDoors (s := s) (by rw [hdoors]; exact hlines)
  have hsame : (Machine.reportDoors s.doors (Machine.recomputeLines u)).doors = (Machine.recomputeLines u).doors ∧
      (Machine.reportDoors s.doors (Machine.recomputeLines u)).clear = (Machine.recomputeLines u).clear := by simp
  intro t
  have hnotices : doorNotices s t = doorNotices s (Machine.recomputeLines u) := by unfold doorNotices; rw [hsame.1]
  have hrecords : doorRecords s t = doorRecords s (Machine.recomputeLines u) := by unfold doorRecords; rw [hsame.1]
  have hlit : clearNotices s t = clearNotices u (Machine.recomputeLines u) := by unfold clearNotices; rw [hsame.2, hclear]
  have hpart : clearRecords s t = clearRecords u (Machine.recomputeLines u) := by unfold clearRecords; rw [hsame.2, hclear]
  rw [hnotices, hrecords, hlit, hpart]
  exact hall.congr (fun _ => by simp only [List.mem_append, or_right_comm]) fun _ => by simp only [List.mem_append, or_right_comm]

end Raised

/-! ## The doors' steps (R132 to R136) -/

theorem doorStepped_frameStep (r : Door) (stamp : Stamp) (view : Option (DisplayId × Nat)) :
    DoorStepped stamp view r (r.frameStep stamp view) := by
  unfold DoorStepped Door.frameStep
  cases hs : r.state with
  | shut => rfl
  | opened => cases view <;> rfl
  | viewing t =>
    cases view with
    | none => rfl
    | some v =>
      dsimp only
      split <;> rfl
  | assured t => cases view <;> rfl

theorem frameStep_line (r : Door) (stamp : Stamp) (view : Option (DisplayId × Nat)) :
    (r.frameStep stamp view).raw = r.raw ∧ (r.frameStep stamp view).timer = r.timer ∧
    (r.frameStep stamp view).isolated = r.isolated := by
  unfold Door.frameStep
  split
  all_goals first | exact ⟨rfl, rfl, rfl⟩ | (split <;> exact ⟨rfl, rfl, rfl⟩)

/-- A frame start opens and shuts no door. -/
theorem frameStep_isShut (r : Door) (stamp : Stamp) (view : Option (DisplayId × Nat)) :
    (r.frameStep stamp view).state.isShut = r.state.isShut := by
  unfold Door.frameStep
  cases hs : r.state with
  | shut => exact congrArg DoorState.isShut hs
  | opened =>
    cases view with
    | none => exact congrArg DoorState.isShut hs
    | some v => rfl
  | viewing t =>
    cases view with
    | none => rfl
    | some v =>
      dsimp only
      split
      · rfl
      · exact congrArg DoorState.isShut hs
  | assured t =>
    cases view with
    | none => rfl
    | some v => exact congrArg DoorState.isShut hs

section Steps
variable {s m : State} {d : DisplayId} {ns : List Notice} {rs : List Record}

/-- The doors after the frame-start steps of a display of the active cab (R132). -/
def steppedDoors (d : DisplayId) (s : State) : Vector Door 8 :=
  Vector.ofFn fun k => (s.doors[k]).frameStep s.clock (qualifyingView s (cabOf d) k)

theorem steppedDoors_getElem (d : DisplayId) (s : State) (k : DoorId) :
    (steppedDoors d s)[k] = (s.doors[k]).frameStep s.clock (qualifyingView s (cabOf d) k) := getElem_ofFn_fin _ k

theorem doorSteps_of_other (hc : s.cab ≠ some (cabOf d)) : doorSteps d s = s := if_neg hc

/-- The steps change neither which doors are SHUT nor the calling set, so only lines and reports follow (R142). -/
theorem doorSteps_of_cab (hc : s.cab = some (cabOf d)) (hcalls : s.calling = callingSet s) :
    doorSteps d s = reportDoors s.doors (recomputeLines { s with doors := steppedDoors d s }) := by
  have hsame : callingSet { s with doors := steppedDoors d s } = s.calling := by
    refine (callingSet_congr (s := s) (t := { s with doors := steppedDoors d s }) rfl fun k => ?_).trans hcalls.symm
    dsimp only
    rw [steppedDoors_getElem]
    exact ⟨(frameStep_line _ _ _).2.2, frameStep_isShut _ _ _⟩
  unfold doorSteps
  rw [if_pos hc]
  exact congrArg (fun u => reportDoors s.doors (recomputeLines u)) (recomputeCalling_of_eq hsame)

/-- The steps of the doors reach the doors, the lines and the reports. -/
theorem doorSteps_others (hcalls : s.calling = callingSet s) :
    doorSteps d s = { s with doors := (doorSteps d s).doors, clear := (doorSteps d s).clear, reports := (doorSteps d s).reports } := by
  by_cases hc : s.cab = some (cabOf d)
  · let others (v x : State) : State := { x with doors := v.doors, clear := v.clear, reports := v.reports }
    have hu (v : State) : others v (doorSteps d s) = others v s := by
      rw [doorSteps_of_cab hc hcalls]
      exact (reportDoors_unseen _ _ (others v) fun _ _ => rfl).trans (recomputeLines_unseen _ (others v) fun _ _ _ => rfl)
    exact hu (doorSteps d s)
  · rw [doorSteps_of_other hc]

/-- The doors of a display that is not of the active cab stand; of one that is, each takes its step (R132, R141). -/
theorem doorSteps_taken (hcalls : s.calling = callingSet s) :
    (s.cab ≠ some (cabOf d) → (doorSteps d s).doors = s.doors ∧ (doorSteps d s).clear = s.clear) ∧
    (s.cab = some (cabOf d) → (doorSteps d s).clear = clearLines (doorSteps d s) ∧
      ∀ k : DoorId, DoorStepped s.clock (qualifyingView s (cabOf d) k) s.doors[k] (doorSteps d s).doors[k]) := by
  refine ⟨fun hc => by rw [doorSteps_of_other hc]; exact ⟨rfl, rfl⟩, fun hc => ⟨?_, fun k => ?_⟩⟩
  · rw [doorSteps_of_cab hc hcalls]
    simp [recomputeLines_clear, clearLines, sideClear]
  · have hdoors : (doorSteps d s).doors = steppedDoors d s := by
      rw [doorSteps_of_cab hc hcalls]
      simp
    rw [hdoors, steppedDoors_getElem]
    exact doorStepped_frameStep _ _ _

theorem Raised.doorSteps (h : Raised m s ns rs) (hcalls : s.calling = callingSet s) :
    Raised m (doorSteps d s) (ns ++ doorNotices s (doorSteps d s) ++ clearNotices s (doorSteps d s))
      (rs ++ doorRecords s (doorSteps d s) ++ clearRecords s (doorSteps d s)) := by
  by_cases hc : s.cab = some (cabOf d)
  · rw [doorSteps_of_cab hc hcalls]
    have hstepped : Raised m { s with doors := steppedDoors d s } ns rs := h.step rfl rfl rfl
    refine hstepped.doorsReported rfl fun k => ?_
    dsimp only
    rw [steppedDoors_getElem]
    obtain ⟨hraw, htimer, -⟩ := frameStep_line s.doors[k] s.clock (qualifyingView s (cabOf d) k)
    exact ⟨hraw, htimer⟩
  · rw [doorSteps_of_other hc]
    have hdoors : doorNotices s s = [] := if_neg fun ⟨_, hk⟩ => hk rfl
    have hrecords : doorRecords s s = [] := by simp [doorRecords]
    rw [hdoors, hrecords, show clearNotices s s = [] from if_pos rfl, show clearRecords s s = [] from if_pos rfl]
    simpa using h

end Steps

end Sys2Proof.Machine
end

section
/-! The frame start of a display, taken whole (R87, R88, R92, R93, R95, R98, R100, R101, R109, R150). -/

namespace Sys2Proof.Machine

open Safety

-- The proofs are elaborated in order: side by side, each would hold a thread of its own, and its memory.
set_option Elab.async false

/-! ## The locks of a frame (R30, R95) -/

theorem LockSet.add_add (l : LockSet) (h : Holder) : (l.add h).add h = l.add h := by
  cases h with
  | mover => rfl
  | display d =>
    unfold LockSet.add
    simp only [Vector.set_set]

/-- The tiles of a list show a slot. -/
abbrev ShowSlot (tiles : List FrameTile) (q : PortId) (i : SlotId) : Prop :=
  ∃ f ∈ tiles, ∃ v, f.shown = some v ∧ v.port = q ∧ v.slot = i

theorem lockTile_slot (d : DisplayId) (s : State) (t : FrameTile) (q : PortId) :
    (lockTile d s t).store[q].order = s.store[q].order ∧ ∀ i : SlotId, (lockTile d s t).store[q].slots[i] =
      if ∃ v, t.shown = some v ∧ v.port = q ∧ v.slot = i then
        { s.store[q].slots[i] with locks := s.store[q].slots[i].locks.add (.display d) }
      else s.store[q].slots[i] := by
  unfold lockTile
  cases ht : t.shown with
  | none => exact ⟨rfl, fun i => (if_neg fun ⟨_, hv, _⟩ => nomatch hv).symm⟩
  | some v =>
    simp only [Option.some.injEq, exists_eq_left']
    rw [State.setStore_store, getElem_set_fin]
    by_cases hq : v.port = q
    · subst hq
      rw [if_pos rfl]
      refine ⟨rfl, fun i => ?_⟩
      unfold StorePort.lock
      rw [getElem_set_fin]
      by_cases hi : v.slot = i
      · subst hi
        rw [if_pos rfl, if_pos ⟨rfl, rfl⟩]
      · rw [if_neg hi, if_neg fun h => hi h.2]
    · rw [if_neg hq]
      exact ⟨rfl, fun i => (if_neg fun h => hq h.1).symm⟩

/-- Every slot that a tile shows takes the display into its lock set, and no other slot changes (R95). -/
theorem lockTiles_slot (d : DisplayId) (tiles : List FrameTile) (s : State) (q : PortId) :
    (tiles.foldl (lockTile d) s).store[q].order = s.store[q].order ∧
    ∀ i : SlotId, (tiles.foldl (lockTile d) s).store[q].slots[i] =
      if ShowSlot tiles q i then { s.store[q].slots[i] with locks := s.store[q].slots[i].locks.add (.display d) }
      else s.store[q].slots[i] := by
  induction tiles generalizing s with
  | nil => exact ⟨rfl, fun i => (if_neg fun ⟨_, hf, _⟩ => nomatch hf).symm⟩
  | cons t ts ih =>
    obtain ⟨horder, hslots⟩ := ih (lockTile d s t)
    obtain ⟨horder1, hslots1⟩ := lockTile_slot d s t q
    refine ⟨horder.trans horder1, fun i => ?_⟩
    have hcons : ShowSlot (t :: ts) q i ↔ (∃ v, t.shown = some v ∧ v.port = q ∧ v.slot = i) ∨ ShowSlot ts q i := by
      simp [ShowSlot]
    rw [List.foldl_cons, hslots i, hslots1 i]
    by_cases h1 : ∃ v, t.shown = some v ∧ v.port = q ∧ v.slot = i
    · rw [if_pos h1, if_pos (hcons.2 (.inl h1))]
      split
      · rw [LockSet.add_add]
      · rfl
    · rw [if_neg h1]
      refine if_congr ?_ rfl rfl
      rw [hcons, or_iff_right h1]

/-! ## The pipe (R87, R92, R93, R100, R101) -/

section Pipe
variable {s : State} {d : DisplayId}

theorem goesLive_iff : goesLive s d = true ↔ startsLive s d := decide_eq_true_iff

theorem layoutTiles_eq (s : State) (y : LayoutId) : layoutTiles s y = s.layouts[y].getD [] := by
  unfold layoutTiles
  cases s.layouts[y] <;> rfl

theorem effectiveLayout_eq (p : Display) : p.effectiveLayout = shownLayout p := rfl

/-- The tiles of a frame start: those of the effective layout, or none in a DARK frame (R92, R93). -/
theorem startTiles_eq (s : State) (d : DisplayId) :
    startTiles s d =
      if goesLive s d then
        composeTiles s s.displays[d].settings.width s.displays[d].settings.height
          (s.layouts[shownLayout s.displays[d]].getD [])
      else [] := by
  unfold startTiles
  dsimp only
  rw [layoutTiles_eq, effectiveLayout_eq]

theorem pipeStarted_displays : (pipeStarted d s).displays =
    s.displays.set d (startedDisplay s d (startTiles s d) (verdictVector s s.displays[d].settings (startTiles s d))) := by
  simp [pipeStarted]

theorem pipeStarted_stored :
    (pipeStarted d s).stored = s.stored.set d (verdictVector s s.displays[d].settings (startTiles s d)) := by
  simp [pipeStarted]

theorem pipeStarted_store : (pipeStarted d s).store = ((startTiles s d).foldl (lockTile d) s).store := rfl

/-- The pipe reaches the frame store, its display and its stored vector. -/
theorem pipeStarted_others (d : DisplayId) (s : State) :
    pipeStarted d s = { s with
      store := (pipeStarted d s).store, displays := (pipeStarted d s).displays, stored := (pipeStarted d s).stored } :=
  lockTiles_unseen d (startTiles s d) s (fun x => { x with
    store := (pipeStarted d s).store, displays := (pipeStarted d s).displays, stored := (pipeStarted d s).stored }) fun _ _ => rfl

theorem pipeStarted_desk : SameDesk s (pipeStarted d s) := by
  rw [pipeStarted_others]
  exact ⟨rfl, rfl, rfl, rfl⟩

theorem pipeStarted_bus : (pipeStarted d s).bus = s.bus := by rw [pipeStarted_others]

theorem pipeStarted_mover : (pipeStarted d s).mover = s.mover := by rw [pipeStarted_others]

end Pipe

/-! ## A screen Export that waits for the frame (R150) -/

/-- From `s` to `v` the pipe of a display has started its frame, and what waited for the frame has been dealt with: `m` is `s` with
the lanes, the Export record and the link as that left them, and `ns` and `rs` what it gave to the reports. -/
structure ExportMet (d : DisplayId) (s m v : State) (ns : List Notice) (rs : List Record) : Prop where
  others : v = { m with
    store := (pipeStarted d s).store, displays := (pipeStarted d s).displays, stored := (pipeStarted d s).stored
    reports := v.reports, bus := v.bus }
  base : m = { s with lanes := m.lanes, mover := m.mover, bus := m.bus }
  raised : Raised m v ns rs

section Wait
variable {s : State} {d : DisplayId} {o : ExportOperands} {c : Chain} {b : InHand}

theorem pipeStarted_raised (hcalm : Calm s) : Raised s (pipeStarted d s) [] [] :=
  (Raised.calm hcalm).step pipeStarted_desk.2.1 pipeStarted_bus pipeStarted_desk.2.2.2

theorem exportAtStart_of_not_waiting (hm : ∀ o, s.mover ≠ .waiting d o) : exportAtStart d (pipeStarted d s) = pipeStarted d s := by
  unfold exportAtStart
  rw [pipeStarted_mover]
  split
  · rename_i e ops he
    refine if_neg ?_
    rintro rfl
    exact hm ops he
  · rfl
  · rfl
  · rfl

/-- No Export waits for the frame. -/
theorem exportMet_none (hcalm : Calm s) (hm : ∀ o, s.mover ≠ .waiting d o) :
    ExportMet d s s (exportAtStart d (pipeStarted d s)) [] [] := by
  rw [exportAtStart_of_not_waiting hm]
  refine ⟨?_, rfl, pipeStarted_raised hcalm⟩
  rw [pipeStarted_others]

/-- The frame that a waiting Export finds (R150). -/
theorem exportAtStart_waiting (hm : s.mover = .waiting d o) :
    exportAtStart d (pipeStarted d s) =
      if goesLive s d then
        match screenMisfit o s.displays[d].settings.width s.displays[d].settings.height with
        | some r => endExport (.failed r 0) (pipeStarted d s)
        | none => { pipeStarted d s with
            mover := .copying d o s.displays[d].settings.width s.displays[d].settings.height s.clock
              (s.displays[d].frameCount + 1) 0 }
      else endExport (.failed .displayStopped 0) (pipeStarted d s) := by
  have hpipe : (pipeStarted d s).displays[d] =
      startedDisplay s d (startTiles s d) (verdictVector s s.displays[d].settings (startTiles s d)) := by
    rw [pipeStarted_displays, getElem_set_same]
  have hclock : (pipeStarted d s).clock = s.clock := pipeStarted_desk.1
  unfold exportAtStart
  rw [pipeStarted_mover, hm]
  dsimp only
  rw [if_pos rfl, hpipe, hclock]
  rfl

/-- A LIVE frame that the Export's stride and room meet is copied. -/
theorem exportMet_copies (hcalm : Calm s) (hm : s.mover = .waiting d o) (hlive : startsLive s d)
    (hstride : 4 * s.displays[d].settings.width ≤ o.stride) (hroom : s.displays[d].settings.height * o.stride ≤ o.room) :
    ExportMet d s
      { s with mover := .copying d o s.displays[d].settings.width s.displays[d].settings.height s.clock
                 (s.displays[d].frameCount + 1) 0 }
      (exportAtStart d (pipeStarted d s)) [] [] := by
  rw [exportAtStart_waiting hm, if_pos (goesLive_iff.2 hlive), screenMisfit, if_neg (Nat.not_lt.2 hstride),
    if_neg (Nat.not_lt.2 hroom)]
  refine ⟨?_, rfl, Raised.step (pipeStarted_raised hcalm |>.base rfl rfl rfl) rfl rfl rfl⟩
  rw [pipeStarted_others]

theorem exportAtStart_dark (hm : s.mover = .waiting d o) (hdark : ¬ startsLive s d) :
    exportAtStart d (pipeStarted d s) = endExport (.failed .displayStopped 0) (pipeStarted d s) := by
  rw [exportAtStart_waiting hm, if_neg fun hg => hdark (goesLive_iff.1 hg)]

theorem exportAtStart_narrow (hm : s.mover = .waiting d o) (hlive : startsLive s d)
    (hstride : o.stride < 4 * s.displays[d].settings.width) :
    exportAtStart d (pipeStarted d s) = endExport (.failed .badValue 0) (pipeStarted d s) := by
  rw [exportAtStart_waiting hm, if_pos (goesLive_iff.2 hlive), screenMisfit, if_pos hstride]

theorem exportAtStart_short (hm : s.mover = .waiting d o) (hlive : startsLive s d)
    (hstride : 4 * s.displays[d].settings.width ≤ o.stride) (hroom : o.room < s.displays[d].settings.height * o.stride) :
    exportAtStart d (pipeStarted d s) = endExport (.failed .roomShort 0) (pipeStarted d s) := by
  rw [exportAtStart_waiting hm, if_pos (goesLive_iff.2 hlive), screenMisfit, if_neg (Nat.not_lt.2 hstride), if_pos hroom]

/-- While an Export waits for a frame, the Export Mover holds no slot, so none is let go (R32, R145). -/
theorem pipeStarted_store_released (hb : HoldersBounded s) (hm : s.mover = .waiting d o) :
    (releaseHolder .mover (pipeStarted d s)).store = (pipeStarted d s).store := by
  obtain ⟨-, -, -, hmover⟩ := hb
  refine releaseHolder_store_of_free fun p i => ?_
  have hfree : s.store[p].slots[i].locks.mem .mover = false := by
    by_contra hheld
    obtain ⟨ops, w, h, c, t, n, hmoving⟩ := hmover p i (eq_true_of_ne_false hheld)
    rw [hm] at hmoving
    cases hmoving
  rw [pipeStarted_store, (lockTiles_slot d (startTiles s d) s p).2 i]
  split
  · exact hfree
  · exact hfree

theorem exportEnded_eq (s : State) (c : Chain) (b : InHand) (e : Ending) :
    exportEnded s c b e = { s with
      lanes := s.lanes.set 1 (laneLeft s.lanes[(1 : LaneId)] c b.haltOnFail b.next e), mover := .idle
      bus := (endingWritten s c.block e).bus } := by
  unfold exportEnded endingWritten
  rw [allWritten_eq]

/-- The end of an Export reaches the frame store, the lanes, the Export record, the link and the reports. -/
theorem endExport_others (e : Ending) (u : State) :
    endExport e u = { u with
      store := (endExport e u).store, lanes := (endExport e u).lanes, mover := (endExport e u).mover
      reports := (endExport e u).reports, bus := (endExport e u).bus } :=
  endExport_unseen e u (fun x => { x with
    store := (endExport e u).store, lanes := (endExport e u).lanes, mover := (endExport e u).mover
    reports := (endExport e u).reports, bus := (endExport e u).bus }) fun _ _ _ _ _ _ => rfl

/-- An Export that the frame does not serve ends (R150, R152). -/
theorem exportMet_ends (hcalm : Calm s) (hb : HoldersBounded s) (hm : s.mover = .waiting d o) (hin : inHand s 1 = some (c, b))
    {e : Ending} (he : exportAtStart d (pipeStarted d s) = endExport e (pipeStarted d s)) :
    ExportMet d s (exportEnded s c b e) (exportAtStart d (pipeStarted d s)) (exportNotices s b) [.lane 1] := by
  have hdesk : SameDesk s (pipeStarted d s) := pipeStarted_desk
  obtain ⟨hclock, -, hlanes, -⟩ := hdesk.dropExport
  have hdropped : Raised s (dropExport (pipeStarted d s)) [] [] := (pipeStarted_raised hcalm).step rfl rfl rfl
  obtain ⟨hraised, hleft⟩ := endBlock_quiet hdropped hcalm.2 hclock 1 c b.notify b.haltOnFail b.next e
  rw [hlanes, ← endExport_eq ((hdesk.inHand 1).trans hin) e] at hraised hleft
  have hstore := (endExport_store e (pipeStarted d s)).trans (pipeStarted_store_released hb hm)
  have hothers := endExport_others e (pipeStarted d s)
  rw [hstore, endExport_mover, hleft] at hothers
  rw [he, exportEnded_eq]
  refine ⟨hothers.trans ?_, rfl, hraised.base ?_ rfl ?_⟩
  · rw [pipeStarted_others]
    rfl
  · exact (congrArg State.window (allWritten_eq s _)).symm
  · exact (congrArg State.reports (allWritten_eq s _)).symm

end Wait

/-! ## The frame start as a whole -/

section Taken
variable {s m : State} {d : DisplayId} {ns : List Notice} {rs : List Record}

/-- `FrameTaken` reads of the state after the frame start what the frame start reaches, the cab and the mode. -/
theorem FrameTaken.congr {t u : State} {live : Bool} {tiles : List FrameTile} (h : FrameTaken s t d live tiles)
    (store : u.store = t.store := by simp) (displays : u.displays = t.displays := by simp)
    (stored : u.stored = t.stored := by simp) (doors : u.doors = t.doors := by simp) (clear : u.clear = t.clear := by simp)
    (cab : u.cab = t.cab := by simp) (mode : u.mode = t.mode := by simp) : FrameTaken s u d live tiles := by
  have hview (k : DoorId) : qualifyingView u (cabOf d) k = qualifyingView t (cabOf d) k := by
    unfold qualifyingView
    rw [stored]
  have hlines : clearLines u = clearLines t := by
    unfold clearLines sideClear
    rw [mode, cab, doors]
  unfold FrameTaken at h ⊢
  simp only [store, displays, stored, doors, clear, hview, hlines]
  exact h

theorem Raised.lastOverride {u : State} (h : Raised m u ns rs) : u.reports.lastOverride = m.reports.lastOverride := by
  obtain ⟨-, -, hreports, -⟩ := h
  rw [hreports]

/-- The display record is due as R109 says. -/
theorem displayRecords_eq {u : State} (hlast : u.reports.lastOverride = s.reports.lastOverride) :
    displayRecords s u d = if recordDue u d s.displays[d] then [.display d] else [] := by
  refine if_congr ?_ rfl rfl
  unfold recordDue
  rw [hlast]
  simp only [Bool.or_eq_true, decide_eq_true_eq, Option.isNone_iff_eq_none, or_assoc]

/-- The part once the record of a frame start is due (R109). -/
def recordMarked (d : DisplayId) (was : Display) (u : State) : State := if recordDue u d was then mark (.display d) u else u

theorem recordMarked_others (d : DisplayId) (was : Display) (u : State) :
    recordMarked d was u = { u with reports := (recordMarked d was u).reports } := by
  unfold recordMarked
  split <;> rfl

theorem Raised.recordMarked {u : State} (h : Raised m u ns rs) (hlast : m.reports.lastOverride = s.reports.lastOverride) :
    Raised m (recordMarked d s.displays[d] u) ns (rs ++ displayRecords s u d) := by
  rw [displayRecords_eq (h.lastOverride.trans hlast)]
  unfold Machine.recordMarked
  split
  · exact (h.mark (.display d)).congr (fun _ => Iff.rfl) fun r => by simp [or_comm]
  · simpa using h

/-- A frame start, once what waited for it has been dealt with: the pipe, the locks, the vector and the doors' steps, with their
reports (R92, R101, R109). -/
theorem takeFrameStart_taken (h : ExportMet d s m (exportAtStart d (pipeStarted d s)) ns rs) (hcalls : s.calling = callingSet s) :
    let w := takeFrameStart d s
    w = { m with
      store := w.store, displays := w.displays, stored := w.stored, doors := w.doors, clear := w.clear
      reports := w.reports, bus := w.bus } ∧
    FrameTaken s w d (goesLive s d) (startTiles s d) ∧
    Raised m w (ns ++ doorNotices s w ++ clearNotices s w)
      (rs ++ doorRecords s w ++ clearRecords s w ++ displayRecords s w d) := by
  obtain ⟨hothers, hbase, hraised⟩ := h
  have hw : takeFrameStart d s =
      recordMarked d s.displays[d] (doorSteps d (exportAtStart d (pipeStarted d s))) := takeFrameStart_eq d s
  rw [hw]
  generalize exportAtStart d (pipeStarted d s) = v at hothers hraised
  have hmet : v = { s with
      store := (pipeStarted d s).store, displays := (pipeStarted d s).displays, stored := (pipeStarted d s).stored
      lanes := m.lanes, mover := m.mover, reports := v.reports, bus := v.bus } := by
    rw [hbase] at hothers
    exact hothers
  have hcallsv : v.calling = callingSet v := by rw [hmet]; exact hcalls
  have hsteps := doorSteps_others (d := d) hcallsv
  obtain ⟨hstand, hstep⟩ := doorSteps_taken (d := d) hcallsv
  have hdoors := hraised.doorSteps (d := d) hcallsv
  generalize doorSteps d v = x at hsteps hstand hstep hdoors ⊢
  obtain ⟨lanes, mover, link, rfl⟩ : ∃ a b c, m = { s with lanes := a, mover := b, bus := c } := ⟨_, _, _, hbase⟩
  have hrecord := hdoors.recordMarked (d := d) (s := s) rfl
  have hmarked := recordMarked_others d s.displays[d] x
  generalize recordMarked d s.displays[d] x = w at hrecord hmarked ⊢
  obtain ⟨reports, bus, rfl⟩ : ∃ a b, v = { s with
      store := (pipeStarted d s).store, displays := (pipeStarted d s).displays, stored := (pipeStarted d s).stored
      lanes, mover, reports := a, bus := b } := ⟨_, _, hmet⟩
  obtain ⟨doors, clear, reports', rfl⟩ : ∃ a b c, x = { s with
      store := (pipeStarted d s).store, displays := (pipeStarted d s).displays, stored := (pipeStarted d s).stored
      lanes, mover, doors := a, clear := b, reports := c, bus } := ⟨_, _, _, hsteps⟩
  obtain ⟨reports'', rfl⟩ : ∃ a, w = { s with
      store := (pipeStarted d s).store, displays := (pipeStarted d s).displays, stored := (pipeStarted d s).stored
      lanes, mover, doors, clear, reports := a, bus } := ⟨_, hmarked⟩
  exact ⟨rfl, ⟨pipeStarted_displays, pipeStarted_stored, lockTiles_slot d (startTiles s d) s, hstand, hstep⟩, hrecord⟩

/-! ## The command (R87) -/

theorem startDue_iff : startDue s d = true ↔ s.displays[d].configured = true ∧
    ∃ g, s.displays[d].timing = some g ∧ g.ended = true ∧ reached s.clock (stampAfter g.start g.period) = true := by
  unfold startDue
  cases s.displays[d].timing <;> simp [and_assoc]

theorem exec_frameStart (h : startDue s d = true) : exec (.frameStart d) s = .next (finishEvent (takeFrameStart d s)) := if_pos h

theorem exec_frameStart_early (h : ¬ startDue s d = true) : exec (.frameStart d) s = .next s := if_neg h

/-- A frame start that has come, on a quiet link, once what waited for it has been dealt with. -/
theorem frameStart_taken (hdue : startDue s d = true) (h : ExportMet d s m (exportAtStart d (pipeStarted d s)) ns rs)
    (hq : m.bus.fate = []) (hcalls : s.calling = callingSet s) {live : Bool} (hlive : goesLive s d = live) :
    ∃ t, exec (.frameStart d) s = .next t ∧
      t = { m with
        store := t.store, displays := t.displays, stored := t.stored, doors := t.doors, clear := t.clear
        reports := t.reports, bus := t.bus } ∧
      FrameTaken s t d live
        (if live then
          composeTiles s s.displays[d].settings.width s.displays[d].settings.height
            (s.layouts[shownLayout s.displays[d]].getD [])
        else []) ∧
      Reported m t (ns ++ doorNotices s t ++ clearNotices s t)
        (rs ++ doorRecords s t ++ clearRecords s t ++ displayRecords s t d) := by
  subst hlive
  rw [← startTiles_eq]
  obtain ⟨hothers, htaken, hraised⟩ := takeFrameStart_taken h hcalls
  refine ⟨_, exec_frameStart hdue, ?_, FrameTaken.congr htaken, ?_⟩
  · let others (v x : State) : State := { x with
      store := v.store, displays := v.displays, stored := v.stored, doors := v.doors, clear := v.clear
      reports := v.reports, bus := v.bus }
    exact finishEvent_others others (fun _ => rfl) (fun _ _ _ _ => rfl) fun v => (congrArg (others v) hothers).trans rfl
  · have hdoors : (finishEvent (takeFrameStart d s)).doors = (takeFrameStart d s).doors := by simp
    have hclear : (finishEvent (takeFrameStart d s)).clear = (takeFrameStart d s).clear := by simp
    have hdisplays : (finishEvent (takeFrameStart d s)).displays = (takeFrameStart d s).displays := by simp
    unfold doorNotices clearNotices doorRecords clearRecords displayRecords
    rw [hdoors, hclear, hdisplays]
    exact hraised.finish hq

end Taken

end Sys2Proof.Machine

namespace Sys2Proof.Proofs

open Sys2Proof Sys2Proof.Machine Sys2Proof.Safety

-- The proofs are elaborated in order: side by side, each would hold a thread of its own, and its memory.
set_option Elab.async false

/-- Settles O27: a frame start is `takeFrameStart_taken`, by what waits for it, and the qualifying view is the lower of the cab's two
displays that has one. -/
theorem frameStartTakesFrame : Obligations.FrameStartTakesFrame := by
  unfold Obligations.FrameStartTakesFrame
  refine ⟨fun s cab k => ⟨fun e => cabOf_eq_iff e cab, fun e i => ?_, ?_⟩, fun s d => ⟨fun hn => ?_, fun hdue hcalm hcalls => ?_⟩⟩
  · simp only [← cabOf_eq_iff]
    exact qualifyingView_eq_some s cab k e i
  · simp only [← cabOf_eq_iff]
    exact qualifyingView_eq_none s cab k
  · exact exec_frameStart_early (mt startDue_iff.1 hn)
  · have hdue := startDue_iff.2 hdue
    have hlit (hl : startsLive s d) : goesLive s d = true := goesLive_iff.2 hl
    have hdark (hl : ¬ startsLive s d) : goesLive s d = false := eq_false_of_ne_true (mt goesLive_iff.1 hl)
    have hended (c : Chain) (b : InHand) (e : Ending) : (exportEnded s c b e).bus.fate = [] :=
      (allWritten_fate _ s).trans hcalm.2
    refine ⟨fun hm => ⟨fun hl => ?_, fun hl => ?_⟩, fun o hm hb => ⟨fun hl hstride hroom => ?_, fun c b hin =>
      ⟨fun hl => ?_, fun hl hstride => ?_, fun hl hstride hroom => ?_⟩⟩⟩
    · exact frameStart_taken hdue (exportMet_none hcalm hm) hcalm.2 hcalls (hlit hl)
    · exact frameStart_taken hdue (exportMet_none hcalm hm) hcalm.2 hcalls (hdark hl)
    · exact frameStart_taken hdue (exportMet_copies hcalm hm hl hstride hroom) hcalm.2 hcalls (hlit hl)
    · exact frameStart_taken hdue (exportMet_ends hcalm hb hm hin (exportAtStart_dark hm hl)) (hended c b _) hcalls (hdark hl)
    · exact frameStart_taken hdue (exportMet_ends hcalm hb hm hin (exportAtStart_narrow hm hl hstride)) (hended c b _) hcalls
        (hlit hl)
    · exact frameStart_taken hdue (exportMet_ends hcalm hb hm hin (exportAtStart_short hm hl hstride hroom)) (hended c b _) hcalls
        (hlit hl)

end Sys2Proof.Proofs
end

section
/-! SET DISPLAY: the settings a body gives, the override after them, and the first frame start (R87, R89, R90, R122, R150). -/

namespace Sys2Proof.Machine

open Safety

-- The proofs are elaborated in order: side by side, each would hold a thread of its own, and its memory.
set_option Elab.async false

/-! ## The settings of a body (R89) -/

/-- A presence bit of a SET DISPLAY body (section 12.3). -/
abbrev displayHas (body : List Byte) (bit : Nat) : Bool := given (number body 0 2) bit

/-- The settings a body gives over the kept ones. -/
def settingsGiven (body : List Byte) (kept : DisplaySettings) : DisplaySettings :=
  let n := number body
  let has := displayHas body
  { width := orKept (has 0) (n 2 2) kept.width
    height := orKept (has 1) (n 4 2) kept.height
    period := orKept (has 2) (n 8 4) kept.period
    doorScreen := orKept (has 3) (decide (n 12 1 = 1)) kept.doorScreen
    doorLeft := orKept (has 4) (layoutOf (n 13 1)) kept.doorLeft
    doorRight := orKept (has 5) (layoutOf (n 14 1)) kept.doorRight
    doorBoth := orKept (has 6) (layoutOf (n 15 1)) kept.doorBoth
    hold := orKept (has 7) (1000 * n 16 2) kept.hold
    blinkN := orKept (has 8) (n 18 1) kept.blinkN
    blinkD := orKept (has 9) (n 19 1) kept.blinkD
    minWidth := orKept (has 10) (n 20 2) kept.minWidth
    minHeight := orKept (has 10) (n 22 2) kept.minHeight }

/-- A given door layout is a slot number or 255. -/
abbrev DoorLayoutInRange (present : Bool) (n : Nat) : Prop := present = true → n ≤ 15 ∨ n = 255

/-- Each setting that a body gives lies in its range. -/
def SettingsInRange (body : List Byte) : Prop :=
  let n := number body
  let has := displayHas body
  (has 0 = true → 640 ≤ n 2 2 ∧ n 2 2 ≤ 1920 ∧ n 2 2 % 16 = 0) ∧ (has 1 = true → 480 ≤ n 4 2 ∧ n 4 2 ≤ 1200) ∧
  (has 2 = true → 12000 ≤ n 8 4 ∧ n 8 4 ≤ 40000) ∧ (has 3 = true → n 12 1 ≤ 1) ∧ DoorLayoutInRange (has 4) (n 13 1) ∧
  DoorLayoutInRange (has 5) (n 14 1) ∧ DoorLayoutInRange (has 6) (n 15 1) ∧ (has 7 = true → n 16 2 ≤ 10000) ∧
  (has 8 = true → 2 ≤ n 18 1 ∧ n 18 1 ≤ 6) ∧ (has 9 = true → 1 ≤ n 19 1 ∧ n 19 1 ≤ 63) ∧
  (has 10 = true → 16 ≤ n 20 2 ∧ n 20 2 ≤ 1920 ∧ 16 ≤ n 22 2 ∧ n 22 2 ≤ 1200)

/-- The blink on-count lies within its exponent. -/
abbrev BlinkFits (new : DisplaySettings) : Prop := new.blinkD ≤ 2 ^ new.blinkN - 1

section Settings
variable {body : List Byte} {kept : DisplaySettings}

theorem doorLayoutGiven_eq_some {present : Bool} {n : Nat} (kept : Option LayoutId) (h : DoorLayoutInRange present n) :
    doorLayoutGiven present n kept = some (orKept present (layoutOf n) kept) := by
  cases present with
  | false => rfl
  | true =>
    show doorLayoutOf n = some (layoutOf n)
    unfold doorLayoutOf
    rcases h rfl with hn | rfl
    · rw [if_neg (by omega), layoutOf, dif_pos (by omega)]
      rfl
    · rfl

theorem doorLayoutGiven_eq_none {present : Bool} {n : Nat} (kept : Option LayoutId) (h : ¬ DoorLayoutInRange present n) :
    doorLayoutGiven present n kept = none := by
  obtain ⟨rfl, hn⟩ := Classical.not_imp.1 h
  show doorLayoutOf n = none
  rw [doorLayoutOf, if_neg fun h255 => hn (.inr h255), layoutOf_eq_none (by omega)]
  rfl

theorem settingsInRange_iff : SettingsInRange body ↔ displayRanges body = true ∧
    DoorLayoutInRange (displayHas body 4) (number body 13 1) ∧ DoorLayoutInRange (displayHas body 5) (number body 14 1) ∧
    DoorLayoutInRange (displayHas body 6) (number body 15 1) := by
  have himp (p : Bool) (q : Prop) [Decidable q] : (!p || decide q) = true ↔ (p = true → q) := by cases p <;> simp
  unfold SettingsInRange displayRanges
  simp only [field_eq_number, Bool.and_eq_true, himp]
  tauto

theorem settingsOf_eq_some (hrange : SettingsInRange body) (hblink : BlinkFits (settingsGiven body kept)) :
    settingsOf body kept = some (settingsGiven body kept) := by
  obtain ⟨hranges, hleft, hright, hboth⟩ := settingsInRange_iff.1 hrange
  unfold settingsOf
  simp only [field_eq_number, doorLayoutGiven_eq_some _ hleft, doorLayoutGiven_eq_some _ hright, doorLayoutGiven_eq_some _ hboth,
    Nat.mul_comm (number body 16 2)]
  exact if_pos (Bool.and_eq_true_iff.2 ⟨hranges, decide_eq_true hblink⟩)

theorem settingsOf_eq_none (h : ¬ (SettingsInRange body ∧ BlinkFits (settingsGiven body kept))) : settingsOf body kept = none := by
  unfold settingsOf
  simp only [field_eq_number]
  by_cases hleft : DoorLayoutInRange (displayHas body 4) (number body 13 1)
  · by_cases hright : DoorLayoutInRange (displayHas body 5) (number body 14 1)
    · by_cases hboth : DoorLayoutInRange (displayHas body 6) (number body 15 1)
      · simp only [doorLayoutGiven_eq_some _ hleft, doorLayoutGiven_eq_some _ hright, doorLayoutGiven_eq_some _ hboth,
          Nat.mul_comm (number body 16 2)]
        refine if_neg fun hc => h ?_
        obtain ⟨hranges, hblink⟩ := Bool.and_eq_true_iff.1 hc
        exact ⟨settingsInRange_iff.2 ⟨hranges, hleft, hright, hboth⟩, of_decide_eq_true hblink⟩
      · simp only [doorLayoutGiven_eq_some _ hleft, doorLayoutGiven_eq_some _ hright, doorLayoutGiven_eq_none _ hboth]
    · simp only [doorLayoutGiven_eq_some _ hleft, doorLayoutGiven_eq_none _ hright]
  · simp only [doorLayoutGiven_eq_none _ hleft]

theorem givesFrame_iff :
    givesFrame body = true ↔ displayHas body 0 = true ∧ displayHas body 1 = true ∧ displayHas body 2 = true := by
  unfold givesFrame
  simp only [field_eq_number, Bool.and_eq_true, and_assoc]

end Settings

/-! ## The display after its settings (R90, R122) -/

/-- The status of a side once new settings stand: kept where the door-screen flag is, else recomputed without hold. -/
def sideGiven (s : State) (d : DisplayId) (new : DisplaySettings) (calls : Bool) (kept : SideStatus) : SideStatus :=
  if new.doorScreen = s.displays[d].settings.doorScreen then kept
  else if new.doorScreen = true ∧ s.cab = some (cabOf d) ∧ calls = true then .called
  else .idle

/-- The display with new settings, and its override after them. -/
def displayGiven (s : State) (d : DisplayId) (new : DisplaySettings) : Display :=
  { s.displays[d] with
    settings := new, configured := true
    left := sideGiven s d new (callingSet s).left s.displays[d].left
    right := sideGiven s d new (callingSet s).right s.displays[d].right }

section Given
variable {s : State} {d : DisplayId} {new : DisplaySettings} {b : InHand} {c : Chain}

theorem isOverrideDisplay_setDisplay (s : State) (d : DisplayId) (p : Display) :
    isOverrideDisplay (s.setDisplay d p) d = (p.configured && p.settings.doorScreen && decide (s.cab = some (cabOf d))) := by
  unfold isOverrideDisplay
  rw [State.setDisplay_displays, getElem_set_same]
  rfl

theorem overrideAfter_setDisplay (s : State) (d : DisplayId) (new : DisplaySettings) :
    overrideAfter s.displays[d].settings.doorScreen new.doorScreen d
      (s.setDisplay d { s.displays[d] with settings := new, configured := true }) = s.setDisplay d (displayGiven s d new) := by
  unfold overrideAfter displayGiven
  by_cases hflag : new.doorScreen = s.displays[d].settings.doorScreen
  · rw [if_pos hflag.symm]
    simp only [sideGiven, if_pos hflag]
  · rw [if_neg fun h => hflag h.symm, setDisplay_setDisplay]
    congr 1
    unfold recomputedDisplay
    rw [isOverrideDisplay_setDisplay, State.setDisplay_displays, getElem_set_same]
    simp only [sideGiven, if_neg hflag, callingSet_congr (s := s) (t := s.setDisplay d _) rfl fun _ => ⟨rfl, rfl⟩]
    by_cases hover : new.doorScreen = true ∧ s.cab = some (cabOf d)
    · obtain ⟨hscreen, hcab⟩ := hover
      simp [hscreen, hcab]
    · rw [if_neg (by simpa using hover)]
      have hidle (calls : Bool) : ¬ (new.doorScreen = true ∧ s.cab = some (cabOf d) ∧ calls = true) :=
        fun ⟨hscreen, hcab, _⟩ => hover ⟨hscreen, hcab⟩
      simp only [if_neg (hidle _)]

/-! ## The checks (R89) -/

theorem actSetDisplay_badTarget (ht : 4 ≤ b.target) : actSetDisplay b s = (s, .failed .badTarget 0) := by
  rw [actSetDisplay, displayOf_eq_none ht]

theorem actSetDisplay_badLength (ht : b.target = d.val) (hl : b.body.length ≠ 24) :
    actSetDisplay b s = (s, .failed .badValue 255) := by
  rw [actSetDisplay, displayOf_of_eq ht]
  exact if_pos hl

/-- What a SET DISPLAY must meet: the ranges, width, height and period the first time, and the blink on-count (R89). -/
def SettingsAllowed (s : State) (d : DisplayId) (body : List Byte) : Prop :=
  SettingsInRange body ∧
  (s.displays[d].configured = false →
    displayHas body 0 = true ∧ displayHas body 1 = true ∧ displayHas body 2 = true) ∧
  BlinkFits (settingsGiven body s.displays[d].settings)

theorem actSetDisplay_refused (ht : b.target = d.val) (hl : b.body.length = 24) (h : ¬ SettingsAllowed s d b.body) :
    actSetDisplay b s = (s, .failed .badValue 0) := by
  rw [actSetDisplay, displayOf_of_eq ht]
  dsimp only
  rw [if_neg (not_not.mpr hl)]
  by_cases hgood : SettingsInRange b.body ∧ BlinkFits (settingsGiven b.body s.displays[d].settings)
  · obtain ⟨hrange, hblink⟩ := hgood
    rw [settingsOf_eq_some hrange hblink]
    refine if_pos ?_
    obtain ⟨hunconfigured, hframe⟩ := Classical.not_imp.1 fun hwhole => h ⟨hrange, hwhole, hblink⟩
    rw [← givesFrame_iff, Bool.not_eq_true] at hframe
    rw [hunconfigured, hframe]
    rfl
  · rw [settingsOf_eq_none hgood]

theorem actSetDisplay_allowed (ht : b.target = d.val) (hl : b.body.length = 24) (h : SettingsAllowed s d b.body) :
    actSetDisplay b s =
      (if s.displays[d].configured then s.setDisplay d (displayGiven s d (settingsGiven b.body s.displays[d].settings))
       else takeFrameStart d (s.setDisplay d (displayGiven s d (settingsGiven b.body s.displays[d].settings))), .done) := by
  obtain ⟨hrange, hwhole, hblink⟩ := h
  rw [actSetDisplay, displayOf_of_eq ht]
  dsimp only
  rw [if_neg (not_not.mpr hl), settingsOf_eq_some hrange hblink]
  dsimp only
  rw [if_neg, setDisplay, overrideAfter_setDisplay]
  · rw [Bool.and_eq_true, Bool.not_eq_true', Bool.not_eq_true']
    rintro ⟨hunconfigured, hframe⟩
    rw [givesFrame_iff.2 (hwhole hunconfigured)] at hframe
    exact nomatch hframe

end Given

/-! ## The first frame start (R87, R90, R150) -/

section First
variable {s s2 m : State} {d : DisplayId} {q : Display} {b : InHand} {c : Chain} {ns : List Notice} {rs : List Record}

theorem exec_lane0Block {k : Kind} {act : InHand → State → State × Ending} {i : Instr} {u : State} {e : Ending}
    (hi : ∀ s, exec i s = lane0Block k act s) (hb : BlockInHand s 0 k c b) (ha : act b s = (u, e)) :
    exec i s = .next (finishEvent (endBlock 0 c b.notify b.haltOnFail b.next e u)) := by
  obtain ⟨hin, hkind, -⟩ := hb
  rw [hi]
  unfold lane0Block
  rw [hin]
  dsimp only
  rw [if_pos hkind, ha]

theorem callingSet_setDisplay (s : State) (d : DisplayId) (q : Display) : callingSet (s.setDisplay d q) = callingSet s :=
  callingSet_congr (s := s) (t := s.setDisplay d q) rfl fun _ => ⟨rfl, rfl⟩

/-- The display record of a first frame start is always due (R109). -/
theorem displayRecords_first (h : s.displays[d].timing = none) (u : State) : displayRecords s u d = [.display d] :=
  if_pos (.inr (.inl h))

/-- A SET DISPLAY whose display takes its first frame start, once what waited for it has been dealt with. -/
theorem setDisplay_first (hb : BlockInHand s 0 .setDisplay c b)
    (ha : actSetDisplay b s = (takeFrameStart d (s.setDisplay d q), .done)) (htiming : q.timing = none)
    (hcalls : s.calling = callingSet s)
    (h : ExportMet d (s.setDisplay d q) m (exportAtStart d (pipeStarted d (s.setDisplay d q))) ns rs)
    (hm : m = { s2 with displays := m.displays }) (hq : s2.bus.fate = []) {live : Bool} (hlive : goesLive s d = live) :
    ∃ t, exec .setDisplay s = .next t ∧
      t = { s2 with
        store := t.store, displays := t.displays, stored := t.stored, doors := t.doors, clear := t.clear
        lanes := t.lanes, reports := t.reports, bus := t.bus } ∧
      FrameTaken (s.setDisplay d q) t d live
        (if live then
          composeTiles (s.setDisplay d q) q.settings.width q.settings.height
            (s.layouts[shownLayout (s.setDisplay d q).displays[d]].getD [])
        else []) ∧
      BlockDone s2 t c b .done (ns ++ doorNotices s t ++ clearNotices s t)
        (rs ++ doorRecords s t ++ clearRecords s t ++ [.display d]) := by
  have hself : (s.setDisplay d q).displays[d] = q := by rw [State.setDisplay_displays, getElem_set_same]
  have htiles : startTiles (s.setDisplay d q) d = if live then
      composeTiles (s.setDisplay d q) q.settings.width q.settings.height
        (s.layouts[shownLayout (s.setDisplay d q).displays[d]].getD []) else [] := by
    rw [startTiles_eq, ← hlive]
    simp only [hself]
    rfl
  obtain ⟨hothers, htaken, hraised⟩ := takeFrameStart_taken h (hcalls.trans (callingSet_setDisplay s d q).symm)
  rw [displayRecords_first ((congrArg Display.timing hself).trans htiming)] at hraised
  rw [show goesLive (s.setDisplay d q) d = live from hlive, htiles] at htaken
  have hexec := exec_lane0Block (i := .setDisplay) (fun _ => rfl) hb ha
  generalize takeFrameStart d (s.setDisplay d q) = w at hothers htaken hraised hexec
  obtain ⟨displays, rfl⟩ : ∃ a, m = { s2 with displays := a } := ⟨_, hm⟩
  have hlanes : w.lanes = s2.lanes := (congrArg State.lanes hothers).trans rfl
  obtain ⟨hended, hleft⟩ := endBlock_quiet (hraised.base (m' := s2) rfl rfl rfl) hq ((congrArg State.clock hothers).trans rfl)
    0 c b.notify b.haltOnFail b.next .done
  rw [hlanes] at hended hleft
  refine ⟨_, hexec, ?_, FrameTaken.congr htaken, (finishEvent_lanes _).trans hleft, ?_⟩
  · let others (v x : State) : State := { x with
      store := v.store, displays := v.displays, stored := v.stored, doors := v.doors, clear := v.clear
      lanes := v.lanes, reports := v.reports, bus := v.bus }
    exact finishEvent_others others (fun _ => rfl) (fun _ _ _ _ => rfl) fun v =>
      (endBlock_unseen 0 c b.notify b.haltOnFail b.next .done w (others v) fun _ _ _ _ => rfl).trans
        ((congrArg (others v) hothers).trans rfl)
  · have hdoors : (finishEvent (endBlock 0 c b.notify b.haltOnFail b.next .done w)).doors = w.doors := by simp
    have hclear : (finishEvent (endBlock 0 c b.notify b.haltOnFail b.next .done w)).clear = w.clear := by simp
    unfold doorNotices clearNotices doorRecords clearRecords
    rw [hdoors, hclear]
    exact hended.finish ((allWritten_fate _ s2).trans hq)

theorem exportEnded_setDisplay (s : State) (d : DisplayId) (q : Display) (c : Chain) (b : InHand) (e : Ending) :
    exportEnded (s.setDisplay d q) c b e = { exportEnded s c b e with displays := (s.setDisplay d q).displays } := by
  rw [exportEnded_eq, exportEnded_eq]
  simp only [endingWritten, allWritten_eq]
  rfl

/-- The holders of slot locks are bounded still where an unconfigured display takes its settings. -/
theorem HoldersBounded.setDisplay (h : HoldersBounded s) (htiming : s.displays[d].timing = none) (hq : q.timing = none) :
    HoldersBounded (s.setDisplay d q) := by
  obtain ⟨hconfigured, hframe, hone, hmover⟩ := h
  refine ⟨fun e he => ?_, fun e p i hheld => ?_, hone, hmover⟩
  · rw [State.setDisplay_displays, getElem_set_fin] at he ⊢
    split
    · exact hq
    · rename_i hne
      exact hconfigured e (by rwa [if_neg hne] at he)
  · rw [State.setDisplay_displays, getElem_set_fin]
    split
    · rename_i he
      subst he
      obtain ⟨g, hg, -⟩ := hframe d p i hheld
      exact nomatch htiming.symm.trans hg
    · exact hframe e p i hheld

end First

end Sys2Proof.Machine

namespace Sys2Proof.Proofs

open Sys2Proof Sys2Proof.Machine Sys2Proof.Safety

-- The proofs are elaborated in order: side by side, each would hold a thread of its own, and its memory.
set_option Elab.async false

/-- Settles O52: the checks in their order, then the settings with their override (`overrideAfter_setDisplay`), and the first frame
start (`setDisplay_first`) by what waits for it. -/
theorem setDisplayTakesSettings : Obligations.SetDisplayTakesSettings := by
  unfold Obligations.SetDisplayTakesSettings
  intro s c b n has hb
  refine ⟨fun ht => onlyEnds_of_act (fun _ => rfl) hb (actSetDisplay_badTarget ht), fun d ht => ?_⟩
  intro p layout inRange new whole allowed side s1 taken
  have hself : s1.displays[d].settings = new ∧ s1.displays[d].frameCount = p.frameCount := by
    rw [show s1.displays[d] = displayGiven s d new from getElem_set_same _ _ _]
    exact ⟨rfl, rfl⟩
  obtain ⟨hnew, hcount⟩ := hself
  refine ⟨fun hl => onlyEnds_of_act (fun _ => rfl) hb (actSetDisplay_badLength ht hl),
    fun hl hbad => onlyEnds_of_act (fun _ => rfl) hb (actSetDisplay_refused ht hl hbad), fun hl hok hconf => ?_,
    fun hl hok hconf htiming hcalls => ?_⟩
  · have ha := actSetDisplay_allowed ht hl hok
    rw [if_pos hconf] at ha
    obtain ⟨t, hexec, hshape, hdisplays, hdone⟩ := displayBlock_done (i := .setDisplay) (fun _ => rfl) hb ha
    rw [hdisplays] at hshape
    exact ⟨t, hexec, hshape, hdone⟩
  · have hcalm : Calm s := calm_of_blockInHand hb
    have ha := actSetDisplay_allowed ht hl hok
    rw [if_neg (Bool.eq_false_iff.1 hconf)] at ha
    have hlit (hlive : startsLive s d) : goesLive s d = true := goesLive_iff.2 hlive
    have hdark (hlive : ¬ startsLive s d) : goesLive s d = false := eq_false_of_ne_true (mt goesLive_iff.1 hlive)
    refine ⟨fun hm => ⟨fun hlive => ?_, fun hlive => ?_⟩, fun o hm hbound => ⟨fun hlive hstride hroom => ?_, fun c1 b1 hin => ?_⟩⟩
    · exact setDisplay_first hb ha htiming hcalls (exportMet_none hcalm hm) rfl hcalm.2 (hlit hlive)
    · exact setDisplay_first hb ha htiming hcalls (exportMet_none hcalm hm) rfl hcalm.2 (hdark hlive)
    · have hmet := exportMet_copies (s := s1) hcalm hm hlive (by rwa [hnew]) (by rwa [hnew])
      rw [hnew, hcount] at hmet
      exact setDisplay_first (s2 := { s with mover := .copying d o new.width new.height s.clock (p.frameCount + 1) 0 }) hb ha
        htiming hcalls hmet rfl hcalm.2 (hlit hlive)
    · have hended {live : Bool} {e : Ending} (hlive : goesLive s d = live)
          (he : exportAtStart d (pipeStarted d s1) = endExport e (pipeStarted d s1)) :
          taken live (exportEnded s c1 b1 e) (exportNotices s b1) [.lane 1] :=
        setDisplay_first (s2 := exportEnded s c1 b1 e) hb ha htiming hcalls
          (exportMet_ends (s := s1) hcalm (HoldersBounded.setDisplay hbound htiming htiming) hm hin he)
          (exportEnded_setDisplay s d (displayGiven s d new) c1 b1 e) ((allWritten_fate _ s).trans hcalm.2) hlive
      exact ⟨fun hlive => hended (hdark hlive) (exportAtStart_dark hm hlive),
        fun hlive hstride => hended (hlit hlive) (exportAtStart_narrow hm hlive (by rwa [hnew])),
        fun hlive hstride hroom => hended (hlit hlive) (exportAtStart_short hm hlive (by rwa [hnew]) (by rwa [hnew]))⟩

end Sys2Proof.Proofs
end

section
/-! The calling sides and the clear-view lines of a cab, and the override of a display with its holds (R111, R116, R117, R120,
R141). -/

namespace Sys2Proof.Machine

open Safety

-- The proofs are elaborated in order: side by side, each would hold a thread of its own, and its memory.
set_option Elab.async false

/-! ## The sides of a cab (R111, R116, R141) -/

section Sides
variable {s : State} {cab : AB} {side : CabSide} {k : DoorId}

theorem onSide_right_iff : onSide cab .right k = true ↔ OnRight cab k := by
  unfold onSide sideOf doorSide OnRight
  cases cab <;> by_cases hk : k.val < 4 <;> simp [hk]

theorem onSide_left_iff : onSide cab .left k = true ↔ ¬ OnRight cab k := by
  rw [← onSide_right_iff]
  unfold onSide
  cases sideOf cab (doorSide k) <;> decide

theorem isShut_iff {t : DoorState} : t.isShut = true ↔ t = .shut := by cases t <;> simp [DoorState.isShut]

theorem isClear_iff {t : DoorState} : t.isClear = true ↔ t = .shut ∨ ∃ since_, t = .assured since_ := by
  cases t <;> simp [DoorState.isClear]

/-- A side calls by a door on it that counts and is not SHUT (R116). -/
theorem sideCalls_iff :
    sideCalls s cab side = true ↔ ∃ k, onSide cab side k = true ∧ s.doors[k].isolated = false ∧ s.doors[k].state ≠ .shut := by
  simp only [sideCalls, List.any_eq_true, List.mem_finRange, true_and, Bool.and_eq_true, Bool.not_eq_true', and_assoc,
    ← Bool.not_eq_true, isShut_iff, ne_eq]

/-- A side is clear when every door on it that counts is SHUT or ASSURED (R141). -/
theorem sideClear_iff :
    sideClear s cab side = true ↔ ∀ k, onSide cab side k = true → s.doors[k].isolated = false →
      (s.doors[k].state = .shut ∨ ∃ since_, s.doors[k].state = .assured since_) := by
  simp only [sideClear, List.all_eq_true, List.mem_finRange, true_imp_iff, Bool.or_eq_true, Bool.not_eq_true', isClear_iff,
    or_assoc]
  refine forall_congr' fun k => ?_
  cases onSide cab side k <;> cases s.doors[k].isolated <;> simp

/-- Under an active cab the calling set is that of its two sides (R116). -/
theorem callingSet_of_cab (h : s.cab = some cab) :
    callingSet s = { left := sideCalls s cab .left, right := sideCalls s cab .right } := by rw [callingSet, h]

/-- In RUN under an active cab the lines are those of its two sides (R141). -/
theorem clearLines_of_cab (hm : s.mode = .run) (h : s.cab = some cab) :
    clearLines s = { left := sideClear s cab .left, right := sideClear s cab .right } := by rw [clearLines, hm, h]

/-- Outside RUN, and under cab NONE, both lines are inactive (R141). -/
theorem clearLines_of_off (h : s.mode ≠ .run ∨ s.cab = none) : clearLines s = {} := by
  unfold clearLines
  split
  · rename_i hm hc
    rcases h with h | h
    · exact absurd hm h
    · exact nomatch hc.symm.trans h
  · rfl

/-- The lines a state recomputes are exact (R141). -/
theorem linesExact_clearLines (s : State) : LinesExact { s with clear := clearLines s } := by
  unfold LinesExact
  dsimp only
  by_cases hoff : s.mode ≠ .run ∨ s.cab = none
  · have hno (P : AB → Prop) : ¬ (s.mode = .run ∧ ∃ cab, s.cab = some cab ∧ P cab) := by
      rintro ⟨hm, cab, hc, -⟩
      rcases hoff with h | h
      · exact h hm
      · exact nomatch hc.symm.trans h
    rw [clearLines_of_off hoff]
    exact ⟨iff_of_false nofun (hno _), iff_of_false nofun (hno _)⟩
  · obtain ⟨hm, hnone⟩ := not_or.1 hoff
    have hm : s.mode = .run := not_not.1 hm
    obtain ⟨cab, hc⟩ := Option.ne_none_iff_exists'.1 hnone
    rw [clearLines_of_cab hm hc]
    simp only [hm, hc, true_and, Option.some.injEq, exists_eq_left', sideClear_iff, onSide_left_iff, onSide_right_iff]

end Sides

/-! ## The override of a display (R117, R120) -/

theorem isOverrideDisplay_iff (s : State) (d : DisplayId) : isOverrideDisplay s d = true ↔
    s.displays[d].configured = true ∧ s.displays[d].settings.doorScreen = true ∧ s.cab = some (cabOf d) := by
  simp only [isOverrideDisplay, Bool.and_eq_true, decide_eq_true_eq, and_assoc]

/-- The override by which of the two sides are IDLE (R117). -/
theorem override_eq (p : Display) : p.override =
    if p.left = .idle then if p.right = .idle then .none else .right
    else if p.right = .idle then .left else .both := by
  unfold Display.override
  cases p.left <;> cases p.right <;> rfl

theorem override_iff (p : Display) :
    (p.override = .none ↔ p.left = .idle ∧ p.right = .idle) ∧ (p.override = .left ↔ p.left ≠ .idle ∧ p.right = .idle) ∧
    (p.override = .right ↔ p.left = .idle ∧ p.right ≠ .idle) ∧ (p.override = .both ↔ p.left ≠ .idle ∧ p.right ≠ .idle) := by
  rw [override_eq]
  by_cases hl : p.left = .idle <;> by_cases hr : p.right = .idle <;> simp [hl, hr]

theorem expire_of_reached {clock e : Stamp} (h : reached clock e = true) : (SideStatus.held e).expire clock = .idle := by
  rw [SideStatus.expire, h]
  rfl

/-- A side without a hold whose expiry has been reached stands (R120). -/
theorem expire_of_not_reached {clock : Stamp} {t : SideStatus} (h : ∀ e, t = .held e → reached clock e = false) :
    t.expire clock = t := by
  cases t with
  | idle => rfl
  | called => rfl
  | held e => rw [SideStatus.expire, h e rfl]; rfl

theorem setDisplay_self (s : State) (d : DisplayId) : s.setDisplay d s.displays[d] = s := by
  unfold State.setDisplay
  rw [Fin.getElem_fin, Vector.set_getElem_self]

theorem exec_holdExpiry_left (s : State) (d : DisplayId) :
    exec (.holdExpiry d .left) s = .next (s.setDisplay d { s.displays[d] with left := s.displays[d].left.expire s.clock }) := rfl

theorem exec_holdExpiry_right (s : State) (d : DisplayId) :
    exec (.holdExpiry d .right) s = .next (s.setDisplay d { s.displays[d] with right := s.displays[d].right.expire s.clock }) := rfl

end Sys2Proof.Machine

namespace Sys2Proof.Proofs

open Sys2Proof Sys2Proof.Machine Sys2Proof.Safety

-- The proofs are elaborated in order: side by side, each would hold a thread of its own, and its memory.
set_option Elab.async false

/-- Settles O29: the override by its two sides (`override_eq`), and a hold that expires where its stamp is reached
(`expire_of_reached`), or else stands (`expire_of_not_reached`). -/
theorem holdExpiryIdlesSide : Obligations.HoldExpiryIdlesSide := by
  unfold Obligations.HoldExpiryIdlesSide
  refine ⟨isOverrideDisplay_iff, fun s d => ?_⟩
  intro p
  obtain ⟨hnone, hleft, hright, hboth⟩ := override_iff p
  refine ⟨hnone, hleft, hright, hboth, fun e he hr => ⟨?_, ?_⟩, fun e he hr => ⟨?_, ?_⟩, fun h => ?_, fun h => ?_⟩
  · rw [exec_holdExpiry_left, show s.displays[d].left = _ from he, expire_of_reached hr]
    rfl
  · rw [override_eq, if_pos rfl]
  · rw [exec_holdExpiry_right, show s.displays[d].right = _ from he, expire_of_reached hr]
    rfl
  · rw [override_eq, if_pos rfl, if_pos rfl]
  · rw [exec_holdExpiry_left, expire_of_not_reached h]
    exact congrArg _ (setDisplay_self s d)
  · rw [exec_holdExpiry_right, expire_of_not_reached h]
    exact congrArg _ (setDisplay_self s d)

end Sys2Proof.Proofs
end

section
/-! A change of doors outside a handover: the sides that follow it, and a door whose debounced level has changed (R116, R118, R119,
R127, R133, R137, R141 to R143). -/

namespace Sys2Proof.Machine

open Safety

-- The proofs are elaborated in order: side by side, each would hold a thread of its own, and its memory.
set_option Elab.async false

/-! ## The sides after a change of doors (R116, R118, R119, R142) -/

theorem sideStepped_eq (was now : Bool) (clock : Stamp) (hold : Nat) (t : SideStatus) :
    SideStatus.step was now clock hold t = sideStepped was now clock hold t := by
  unfold SideStatus.step sideStepped
  cases t <;> rfl

section Follow
variable {s t u m : State} {ns : List Notice} {rs : List Record}

/-- The lines read the mode, the cab and the doors. -/
theorem clearLines_congr (hm : t.mode = s.mode) (hc : t.cab = s.cab) (hd : t.doors = s.doors) : clearLines t = clearLines s := by
  unfold clearLines sideClear
  rw [hm, hc, hd]

/-- Every override display handles the sides whose calling has changed (R118, R119). -/
theorem recomputeCalling_display (s : State) (d : DisplayId) :
    (recomputeCalling s).displays[d] =
      if isOverrideDisplay s d then
        { s.displays[d] with
          left := sideStepped s.calling.left (callingSet s).left s.clock s.displays[d].settings.hold s.displays[d].left
          right := sideStepped s.calling.right (callingSet s).right s.clock s.displays[d].settings.hold s.displays[d].right }
      else s.displays[d] := by
  by_cases h : callingSet s = s.calling
  · rw [recomputeCalling_of_eq h, h]
    simp only [sideStepped, if_true, ite_self]
  · unfold recomputeCalling
    rw [if_neg h]
    simp only [getElem_ofFn_fin, sideStepped_eq]

/-- What the sides read of the state after a change of doors. -/
theorem sidesFollow_congr (h : SidesFollow s t) (mode : u.mode = t.mode := by simp) (cab : u.cab = t.cab := by simp)
    (doors : u.doors = t.doors := by simp) (calling : u.calling = t.calling := by simp) (clear : u.clear = t.clear := by simp)
    (displays : u.displays = t.displays := by simp) : SidesFollow s u := by
  have hset : callingSet u = callingSet t := callingSet_congr cab fun k => by rw [doors]; exact ⟨rfl, rfl⟩
  unfold SidesFollow at h ⊢
  rw [calling, clear, displays, hset, clearLines_congr mode cab doors]
  exact h

/-- The sides follow a change of doors that finds the cab, the clock, the calling set and the displays as they were (R142). -/
theorem sidesFollow_doorsChanged (before : Vector Door 8) (hcab : u.cab = s.cab) (hclock : u.clock = s.clock)
    (hcalling : u.calling = s.calling) (hdisplays : u.displays = s.displays) : SidesFollow s (doorsChanged before u) := by
  have hover (d : DisplayId) : isOverrideDisplay u d = isOverrideDisplay s d := by
    unfold isOverrideDisplay
    rw [hdisplays, hcab]
  have hlines : SidesFollow s (recomputeLines (recomputeCalling u)) := by
    refine ⟨?_, ?_, fun d => ?_⟩
    · rw [callingSet_congr (s := u) (by simp) fun k => by simp]
      simp [recomputeCalling_calling]
    · rw [recomputeLines_clear]
      exact (clearLines_congr (by simp) (by simp) (by simp)).symm
    · have hnow : (recomputeLines (recomputeCalling u)).calling = callingSet u := by simp [recomputeCalling_calling]
      have hpipes : (recomputeLines (recomputeCalling u)).displays = (recomputeCalling u).displays := by simp
      rw [hnow, hpipes, recomputeCalling_display, hover, hclock, hcalling, hdisplays]
  exact sidesFollow_congr (u := doorsChanged before u) hlines (by simp) (by simp) (by simp) (by simp [doorsChanged])
    (by simp [doorsChanged]) (by simp [doorsChanged])

/-- What an event reports of a change of doors that leaves every line and timer (R141 to R143). -/
theorem Raised.doorsChanged (h : Raised m u ns rs) (hclear : u.clear = s.clear)
    (hlines : ∀ k : DoorId, u.doors[k].raw = s.doors[k].raw ∧ u.doors[k].timer = s.doors[k].timer) :
    let t := Machine.doorsChanged s.doors u
    Raised m t (ns ++ doorNotices s t ++ clearNotices s t) (rs ++ doorRecords s t ++ clearRecords s t) := by
  have hcalls : Raised m (recomputeCalling u) ns rs := h.step (by simp) (by simp) (by simp)
  refine hcalls.doorsReported (by simpa using hclear) fun k => ?_
  rw [show (recomputeCalling u).doors = u.doors by simp]
  exact hlines k

end Follow

/-! ## A debounced level that changes (R127, R133, R137) -/

section Level
variable {s m : State} {k : DoorId} {level : Bool} {i : Instr} {ns : List Notice} {rs : List Record}

/-- The door whose debounced level takes its raw level: the timer is stopped, the door does not follow yet. -/
def lineTaken (k : DoorId) (level : Bool) (s : State) : State := s.setDoor k { s.doors[k] with raw := level, timer := none }

theorem lineTaken_door (k : DoorId) (level : Bool) (s : State) :
    (lineTaken k level s).doors[k] = { s.doors[k] with raw := level, timer := none } := getElem_set_same _ _ _

/-- An edge with debounce time 0, or an expiry, hands over the raw level of the line (R127). -/
theorem exec_doorLevel
    (h : i = .doorLineEdge k level ∧ level ≠ s.doors[k].raw ∧ s.debounce = 0 ∨
      i = .debounceExpiry k ∧ level = s.doors[k].raw ∧ ∃ e, s.doors[k].timer = some e ∧ reached s.clock e = true)
    (hlevel : level ≠ s.doors[k].level) : exec i s = .next (finishEvent (doorLevel k level (lineTaken k level s))) := by
  rcases h with ⟨rfl, hraw, hzero⟩ | ⟨rfl, rfl, e, htimer, hreached⟩
  · show execDoorLineEdge k level s = _
    unfold execDoorLineEdge
    dsimp only
    rw [if_neg hraw, if_neg hlevel, if_pos hzero]
    rfl
  · show execDebounceExpiry k s = _
    unfold execDebounceExpiry
    dsimp only
    rw [htimer]
    dsimp only
    rw [if_pos hreached, if_neg hlevel]
    rfl

/-- The doors once the change has been taken (R133, R137). -/
theorem changeDoor_doors (k : DoorId) (level : Bool) (s : State) :
    (changeDoor k level s).doors = s.doors.set k (s.doors[k].changeLevel level s.clock) := by
  simp [changeDoor]

theorem changeLevel_eq (r : Door) (level : Bool) (clock : Stamp) :
    r.changeLevel level clock =
      { r with
        level
        state := if level then .opened else .shut
        opened := if level then some clock else r.opened } := by cases level <;> rfl

theorem changeLevel_line (r : Door) (level : Bool) (clock : Stamp) :
    (r.changeLevel level clock).raw = r.raw ∧ (r.changeLevel level clock).timer = r.timer := by
  rw [changeLevel_eq]
  exact ⟨rfl, rfl⟩

/-- A door SHUT exactly while its level is inactive changes the number of its state with the level (R133, R137). -/
theorem doorNumber_changeLevel {r : Door} (hfollow : r.state = .shut ↔ r.level = false) (hlevel : level ≠ r.level)
    (clock : Stamp) : doorNumber (r.changeLevel level clock).state ≠ doorNumber r.state := by
  rw [changeLevel_eq]
  cases level with
  | true =>
    rw [hfollow.2 (eq_false_of_ne_true hlevel.symm)]
    exact Nat.one_ne_zero
  | false =>
    intro hn
    refine hlevel (hfollow.1 ?_).symm
    cases hs : r.state with
    | shut => rfl
    | opened => rw [hs] at hn; cases hn
    | viewing t => rw [hs] at hn; cases hn
    | assured t => rw [hs] at hn; cases hn

/-- The door is OPENED or SHUT, and the sides follow (R133, R137, R142). -/
theorem doorTaken_changeDoor (k : DoorId) (level : Bool) (s : State) :
    DoorTaken s (changeDoor k level (lineTaken k level s)) k level := by
  refine ⟨?_, sidesFollow_doorsChanged _ rfl rfl rfl rfl⟩
  rw [changeDoor_doors, lineTaken_door, changeLevel_eq]
  exact Vector.set_set ..

/-- A door SHUT exactly while its level is inactive changes its state with the level, and no other door changes (R143). -/
theorem Raised.changeDoor (h : Raised m s ns rs) (hfollow : s.doors[k].state = .shut ↔ s.doors[k].level = false)
    (hlevel : level ≠ s.doors[k].level) :
    Raised m (changeDoor k level s) (ns ++ .door :: clearNotices s (Machine.changeDoor k level s))
      (rs ++ .door k :: clearRecords s (Machine.changeDoor k level s)) := by
  have hset (j : DoorId) : (Machine.changeDoor k level s).doors[j] =
      if k = j then s.doors[k].changeLevel level s.clock else s.doors[j] := by rw [changeDoor_doors, getElem_set_fin]
  have hnumber := doorNumber_changeLevel hfollow hlevel s.clock
  have hnotices : doorNotices s (Machine.changeDoor k level s) = [.door] :=
    if_pos ⟨k, by rw [hset, if_pos rfl]; exact hnumber⟩
  have hchanged (j : DoorId) : (Machine.changeDoor k level s).doors[j] ≠ s.doors[j] ↔ j = k := by
    rw [hset]
    by_cases hj : k = j
    · subst hj
      rw [if_pos rfl]
      exact iff_of_true (fun he => hnumber (congrArg (fun r => doorNumber r.state) he)) rfl
    · rw [if_neg hj]
      exact iff_of_false (fun hn => hn rfl) fun he => hj he.symm
  have hlines (j : DoorId) : (s.setDoor k (s.doors[k].changeLevel level s.clock)).doors[j].raw = s.doors[j].raw ∧
      (s.setDoor k (s.doors[k].changeLevel level s.clock)).doors[j].timer = s.doors[j].timer := by
    rw [State.setDoor_doors, getElem_set_fin]
    split
    · rename_i hj
      exact hj ▸ changeLevel_line _ _ _
    · exact ⟨rfl, rfl⟩
  have hmoved : Raised m (s.setDoor k (s.doors[k].changeLevel level s.clock)) ns rs := h.step rfl rfl rfl
  refine (hmoved.doorsChanged (s := s) rfl hlines).congr (fun n => ?_) fun r => ?_
  · show n ∈ ns ++ doorNotices s (Machine.changeDoor k level s) ++ clearNotices s (Machine.changeDoor k level s) ↔ _
    rw [hnotices]
    simp
  · show r ∈ rs ++ doorRecords s (Machine.changeDoor k level s) ++ clearRecords s (Machine.changeDoor k level s) ↔ _
    simp only [doorRecords, hchanged, List.mem_append, List.mem_cons, List.mem_map, List.mem_filter, List.mem_finRange, true_and,
      decide_eq_true_eq, exists_eq_left, eq_comm (a := r), or_assoc]

end Level

end Sys2Proof.Machine

namespace Sys2Proof.Proofs

open Sys2Proof Sys2Proof.Machine Sys2Proof.Safety

-- The proofs are elaborated in order: side by side, each would hold a thread of its own, and its memory.
set_option Elab.async false

/-- Settles O31: the calling set and the lines side by side (`sideCalls_iff`, `linesExact_clearLines`), and a change of level in RUN
as `changeDoor` takes and reports it. -/
theorem doorLevelChangesDoor : Obligations.DoorLevelChangesDoor := by
  unfold Obligations.DoorLevelChangesDoor
  refine ⟨fun s => ⟨linesExact_clearLines s, fun hn => ?_, fun cab hc => ?_⟩, fun s k level i => ?_⟩
  · rw [callingSet, hn]
    exact ⟨rfl, rfl⟩
  · rw [callingSet_of_cab hc]
    simp only [sideCalls_iff, onSide_left_iff, onSide_right_iff, true_and]
  · intro r hcause hlevel hcalm hrun hfollow
    have hexec := exec_doorLevel hcause hlevel
    rw [show doorLevel k level (lineTaken k level s) = changeDoor k level (lineTaken k level s) by
      rw [doorLevel, show (lineTaken k level s).mode = .run from hrun]] at hexec
    have htaken := doorTaken_changeDoor k level s
    have hline := lineTaken_door k level s
    have hraised := ((Raised.calm hcalm).step (v := lineTaken k level s) rfl rfl rfl).changeDoor (k := k) (level := level)
      (by rw [hline]; exact hfollow k) (by rw [hline]; exact hlevel)
    refine ⟨_, hexec, ?_, ⟨?_, ?_⟩, ?_⟩
    · let others (v x : State) : State := { x with
        doors := v.doors, calling := v.calling, displays := v.displays, clear := v.clear, reports := v.reports, bus := v.bus }
      exact finishEvent_others others (fun _ => rfl) (fun _ _ _ _ => rfl) fun v =>
        changeDoor_unseen k level (lineTaken k level s) (others v) fun _ _ _ _ _ _ => rfl
    · obtain ⟨hdoors, -⟩ := htaken
      simpa using hdoors
    · obtain ⟨-, hsides⟩ := htaken
      exact sidesFollow_congr hsides
    · have hclear : (finishEvent (changeDoor k level (lineTaken k level s))).clear =
          (changeDoor k level (lineTaken k level s)).clear := by simp
      unfold clearNotices clearRecords
      rw [hclear]
      exact hraised.finish hcalm.2

end Sys2Proof.Proofs
end

section
/-! SET CAB: the handover of doors, vectors, overrides and lines, and the end of a screen Export of another cab (R113, R114, R122,
R140, R152). -/

namespace Sys2Proof.Machine

open Safety

-- The proofs are elaborated in order: side by side, each would hold a thread of its own, and its memory.
set_option Elab.async false

/-! ## Doors and overrides at a handover (R122, R140) -/

theorem handover_eq (r : Door) : r.handover = if r.state = .shut then r else { r with state := .opened } := by
  unfold Door.handover
  obtain ⟨raw, timer, level, state, isolated, dwell, opened, lapses, lastView⟩ := r
  cases state <;> rfl

theorem handover_line (r : Door) : r.handover.raw = r.raw ∧ r.handover.timer = r.timer := by
  rw [handover_eq]
  split <;> exact ⟨rfl, rfl⟩

theorem recomputedDisplay_eq (s : State) (now : Sides) (d : DisplayId) :
    recomputedDisplay s now d =
      { s.displays[d] with
        left := if isOverrideDisplay s d = true ∧ now.left = true then .called else .idle
        right := if isOverrideDisplay s d = true ∧ now.right = true then .called else .idle } := by
  unfold recomputedDisplay
  cases isOverrideDisplay s d <;> simp

/-- The cab, and of a display its configuration and its door-screen flag, say whether it is an override display (R117). -/
theorem isOverrideDisplay_congr {s t : State} {d : DisplayId} (hcab : t.cab = s.cab)
    (hc : t.displays[d].configured = s.displays[d].configured)
    (hs : t.displays[d].settings.doorScreen = s.displays[d].settings.doorScreen) :
    isOverrideDisplay t d = isOverrideDisplay s d := by
  unfold isOverrideDisplay
  rw [hcab, hc, hs]

/-- From `s` to `t` another cab has taken over: no door is viewed, the stored vectors are all false, the calling set and the lines
are those of the doors, and the overrides have been recomputed without hold (R114, R122, R140, R141). -/
def HandsOver (s t : State) : Prop :=
  (∀ k : DoorId, t.doors[k] = if s.doors[k].state = .shut then s.doors[k] else { s.doors[k] with state := .opened }) ∧
  (∀ (d : DisplayId) (k : DoorId), t.stored[d][k] = none) ∧
  t.calling = callingSet t ∧ t.clear = clearLines t ∧
  ∀ d : DisplayId, t.displays[d] =
    { s.displays[d] with
      left := if isOverrideDisplay t d = true ∧ t.calling.left = true then .called else .idle
      right := if isOverrideDisplay t d = true ∧ t.calling.right = true then .called else .idle }

/-- The part handed over, but for its screen Export and the notice CAB (R114). -/
def handedOver (cab : Option AB) (s : State) : State :=
  reportDoors s.doors (recomputeLines (recomputeOverrides (handoverDoors { s with cab })))

section Handed
variable {s t u m : State} {cab : Option AB} {ns : List Notice} {rs : List Record}

theorem HandsOver.congr (h : HandsOver s t) (mode : u.mode = t.mode := by simp) (hcab : u.cab = t.cab := by simp)
    (doors : u.doors = t.doors := by simp) (stored : u.stored = t.stored := by simp)
    (calling : u.calling = t.calling := by simp) (clear : u.clear = t.clear := by simp)
    (displays : u.displays = t.displays := by simp) : HandsOver s u := by
  have hset : callingSet u = callingSet t := callingSet_congr hcab fun k => by rw [doors]; exact ⟨rfl, rfl⟩
  have hover (d : DisplayId) : isOverrideDisplay u d = isOverrideDisplay t d :=
    isOverrideDisplay_congr hcab (by rw [displays]) (by rw [displays])
  unfold HandsOver at h ⊢
  simp only [doors, stored, calling, clear, displays, hset, hover, clearLines_congr mode hcab doors]
  exact h

theorem handover_eq_raise (cab : Option AB) (s : State) :
    handover cab s = raise .cab (mark .part (stopForeignExport (handedOver cab s))) := rfl

/-- The handover reaches the cab, the doors, the stored vectors, the calling set, the displays, the lines and the reports. -/
theorem handedOver_others (cab : Option AB) (s : State) :
    handedOver cab s = { s with
      cab, doors := (handedOver cab s).doors, stored := (handedOver cab s).stored, calling := (handedOver cab s).calling
      displays := (handedOver cab s).displays, clear := (handedOver cab s).clear, reports := (handedOver cab s).reports } := by
  let others (v x : State) : State := { x with
    doors := v.doors, stored := v.stored, calling := v.calling, displays := v.displays, clear := v.clear, reports := v.reports }
  have hu (v : State) : others v (handedOver cab s) = others v { s with cab } := by
    unfold handedOver
    rw [reportDoors_unseen _ _ (others v) fun _ _ => rfl, recomputeLines_unseen _ (others v) fun _ _ _ => rfl]
    rfl
  have hself := hu (handedOver cab s)
  generalize handedOver cab s = t at hself ⊢
  exact hself

/-- The doors and the vectors handed over, the overrides and the lines recomputed. -/
theorem handsOver_recomputed (hdoors : ∀ k : DoorId, m.doors[k] = s.doors[k].handover)
    (hstored : ∀ (d : DisplayId) (k : DoorId), m.stored[d][k] = none) (hdisplays : m.displays = s.displays) :
    HandsOver s (recomputeLines (recomputeOverrides m)) := by
  have hpipe (d : DisplayId) :
      (recomputeLines (recomputeOverrides m)).displays[d] = recomputedDisplay m (callingSet m) d := by
    rw [show (recomputeLines (recomputeOverrides m)).displays = (recomputeOverrides m).displays by simp]
    exact getElem_ofFn_fin _ _
  have hcalls : (recomputeLines (recomputeOverrides m)).calling = callingSet m := by
    rw [show (recomputeLines (recomputeOverrides m)).calling = (recomputeOverrides m).calling by simp]
    rfl
  refine ⟨fun k => ?_, fun d k => ?_, ?_, ?_, fun d => ?_⟩
  · simp [hdoors, handover_eq]
  · rw [show (recomputeLines (recomputeOverrides m)).stored = m.stored by simp]
    exact hstored d k
  · rw [hcalls]
    exact (callingSet_congr (by simp) fun k => by simp).symm
  · rw [recomputeLines_clear]
    exact (clearLines_congr (by simp) (by simp) (by simp)).symm
  · have hsame := recomputedDisplay_eq m (callingSet m) d
    rw [isOverrideDisplay_congr (s := m) (by simp) (by rw [hpipe, hsame]) (by rw [hpipe, hsame]), hpipe, hcalls, hsame,
      hdisplays]

theorem handsOver_handedOver (cab : Option AB) (s : State) : HandsOver s (handedOver cab s) := by
  have hover : HandsOver s (recomputeLines (recomputeOverrides (handoverDoors { s with cab }))) := by
    refine handsOver_recomputed (fun k => getElem_ofFn_fin _ _) (fun d k => ?_) rfl
    show (Vector.replicate 4 (Vector.replicate 8 (none : Option Nat)))[d][k] = none
    rw [getElem_replicate_fin, getElem_replicate_fin]
  unfold handedOver
  generalize recomputeLines (recomputeOverrides (handoverDoors { s with cab })) = m at hover
  exact hover.congr

theorem Raised.handedOver (h : Raised m s ns rs) (cab : Option AB) :
    let w := handedOver cab s
    Raised m w (ns ++ doorNotices s w ++ clearNotices s w) (rs ++ doorRecords s w ++ clearRecords s w) := by
  have hmoved : Raised m (recomputeOverrides (handoverDoors { s with cab })) ns rs := h.step rfl rfl rfl
  refine hmoved.doorsReported rfl fun k => ?_
  rw [show (recomputeOverrides (handoverDoors { s with cab })).doors[k] = s.doors[k].handover from getElem_ofFn_fin _ _]
  exact handover_line _

/-- From `s` to `w`, within one event, the part has been handed over to a cab, but for its screen Export and the notice CAB: what
has changed, and what has been reported. -/
structure Handed (cab : Option AB) (s w : State) : Prop where
  others : w = { s with
    cab, doors := w.doors, stored := w.stored, calling := w.calling, displays := w.displays, clear := w.clear
    reports := w.reports }
  hands : HandsOver s w
  raised : Calm s → Raised s w ([] ++ doorNotices s w ++ clearNotices s w) ([] ++ doorRecords s w ++ clearRecords s w)

theorem handed_handedOver (cab : Option AB) (s : State) : Handed cab s (handedOver cab s) :=
  ⟨handedOver_others cab s, handsOver_handedOver cab s, fun hcalm => (Raised.calm hcalm).handedOver cab⟩

end Handed

/-! ## The screen Export of another cab (R152) -/

section Export
variable {s u : State} {d : DisplayId} {c : Chain} {b : InHand} {ns : List Notice} {rs : List Record}

theorem stopForeignExport_of_own (h : ∀ d, screenOf s.mover = some d → s.cab = some (cabOf d)) : stopForeignExport s = s := by
  unfold stopForeignExport
  cases hm : s.mover with
  | idle => rfl
  | moving => rfl
  | waiting d o => exact if_pos (h d (by rw [hm]; rfl))
  | copying d => exact if_pos (h d (by rw [hm]; rfl))

theorem stopForeignExport_of_foreign (hd : screenOf s.mover = some d) (hc : s.cab ≠ some (cabOf d)) :
    stopForeignExport s = endExport (.failed .displayStopped 0) s := by
  unfold stopForeignExport
  cases hm : s.mover with
  | idle => rw [hm] at hd; cases hd
  | moving => rw [hm] at hd; cases hd
  | waiting e o => rw [hm] at hd; cases hd; exact if_neg hc
  | copying e => rw [hm] at hd; cases hd; exact if_neg hc

/-- While the Export is one of a screen, no slot is held for the Export Mover, so none is let go (R32, R145). -/
theorem releaseHolder_store_of_screen (hb : HoldersBounded s) (hd : screenOf s.mover = some d) (hstore : u.store = s.store) :
    (releaseHolder .mover u).store = s.store := by
  obtain ⟨-, -, -, hmover⟩ := hb
  refine (releaseHolder_store_of_free fun p i => ?_).trans hstore
  by_contra hheld
  obtain ⟨ops, w, h, c, t, n, hmoving⟩ := hmover p i (by rw [← hstore]; exact eq_true_of_ne_false hheld)
  rw [hmoving] at hd
  cases hd

/-- An Export that ends within an event, its notices and its record with those given so far (R145, R167). -/
theorem Raised.endExport (h : Raised s u ns rs) (hclock : u.clock = s.clock) (hlanes : u.lanes = s.lanes) (hq : s.bus.fate = [])
    (hin : inHand s 1 = some (c, b)) (e : Ending) :
    Raised (exportEnded s c b e) (endExport e u) (ns ++ exportNotices s b) (.lane 1 :: rs) ∧
    (Machine.endExport e u).lanes = (exportEnded s c b e).lanes := by
  have hinu : inHand u 1 = some (c, b) := by
    unfold inHand at hin ⊢
    rw [hlanes]
    exact hin
  have hdropped : Raised s (dropExport u) ns rs := h.step rfl rfl rfl
  obtain ⟨hraised, hleft⟩ := endBlock_quiet hdropped hq hclock 1 c b.notify b.haltOnFail b.next e
  rw [show (dropExport u).lanes = s.lanes from hlanes, ← endExport_eq hinu e] at hraised hleft
  rw [List.append_assoc] at hraised
  rw [exportEnded_eq]
  exact ⟨hraised.base (congrArg State.window (allWritten_eq s _)).symm rfl (congrArg State.reports (allWritten_eq s _)).symm,
    hleft⟩

end Export

/-- From `s`, over the part `w` handed over, to `v` a screen Export of another cab has been stopped: `m` is `s` with the lanes, the
Export record and the link as that left them, and `ns` and `rs` what it gave to the reports. -/
structure ExportStopped (s w m v : State) (ns : List Notice) (rs : List Record) : Prop where
  others : v = { m with
    cab := w.cab, doors := w.doors, stored := w.stored, calling := w.calling, displays := w.displays, clear := w.clear
    reports := v.reports, bus := v.bus }
  mode : m.mode = w.mode
  raised : Raised m v (ns ++ doorNotices s w ++ clearNotices s w) (rs ++ doorRecords s w ++ clearRecords s w)

section Stop
variable {s w : State} {cab : Option AB} {d : DisplayId} {c : Chain} {b : InHand}

theorem Handed.same_mover (hw : Handed cab s w) : w.mover = s.mover := (congrArg State.mover hw.others).trans rfl

theorem Handed.new_cab (hw : Handed cab s w) : w.cab = cab := (congrArg State.cab hw.others).trans rfl

theorem Handed.same_mode (hw : Handed cab s w) : w.mode = s.mode := (congrArg State.mode hw.others).trans rfl

/-- No screen Export of another cab stands. -/
theorem exportStopped_none (hw : Handed cab s w) (hcalm : Calm s) (h : ∀ d, screenOf s.mover = some d → cab = some (cabOf d)) :
    ExportStopped s w s (stopForeignExport w) [] [] := by
  rw [stopForeignExport_of_own (by rwa [hw.same_mover, hw.new_cab])]
  refine ⟨?_, hw.same_mode.symm, hw.raised hcalm⟩
  have hbus : w.bus = s.bus := (congrArg State.bus hw.others).trans rfl
  rw [hw.new_cab, hbus]
  exact hw.others

/-- The screen Export of another cab ends DISPLAY_STOPPED (R152). -/
theorem exportStopped_ends (hw : Handed cab s w) (hcalm : Calm s) (hd : screenOf s.mover = some d) (hc : cab ≠ some (cabOf d))
    (hin : inHand s 1 = some (c, b)) (hb : HoldersBounded s) :
    ExportStopped s w (exportEnded s c b (.failed .displayStopped 0)) (stopForeignExport w) (exportNotices s b) [.lane 1] := by
  rw [stopForeignExport_of_foreign (by rwa [hw.same_mover]) (by rwa [hw.new_cab])]
  obtain ⟨hended, hlanes⟩ := (hw.raised hcalm).endExport ((congrArg State.clock hw.others).trans rfl)
    ((congrArg State.lanes hw.others).trans rfl) hcalm.2 hin (.failed .displayStopped 0)
  have hstore : (releaseHolder .mover w).store = s.store :=
    releaseHolder_store_of_screen hb hd ((congrArg State.store hw.others).trans rfl)
  have hleft := endExport_others (.failed .displayStopped 0) w
  rw [endExport_store, hstore, endExport_mover, hlanes] at hleft
  refine ⟨?_, ?_, hended.congr (fun n => ?_) fun r => ?_⟩
  · generalize endExport (.failed .displayStopped 0) w = v at hleft ⊢
    rw [exportEnded_eq] at hleft ⊢
    refine hleft.trans ?_
    rw [hw.others]
  · rw [exportEnded_eq]
    exact hw.same_mode.symm
  · simp only [List.mem_append, List.not_mem_nil, false_or]
    tauto
  · simp only [List.mem_cons, List.mem_append, List.not_mem_nil, or_false, false_or, or_assoc]

end Stop

/-! ## The block (R113) -/

theorem raise_others (n : Notice) (s : State) : raise n s = { s with reports := (raise n s).reports } :=
  raise_unseen n s (fun x => { x with reports := (raise n s).reports }) fun _ _ => rfl

section Acts
variable {s m u : State} {cab : Option AB} {c : Chain} {b : InHand} {e : Ending} {ns : List Notice} {rs : List Record}

/-- A lane 0 block acts and ends on a quiet link, its event's reports counted from a state the event has moved on to. -/
theorem blockDone_of_raised (hr : Raised m u ns rs) (hq : m.bus.fate = []) (hclock : u.clock = m.clock)
    (hlanes : u.lanes = m.lanes) :
    BlockDone m (finishEvent (endBlock 0 c b.notify b.haltOnFail b.next e u)) c b e ns rs := by
  obtain ⟨hraised, hleft⟩ := endBlock_quiet hr hq hclock 0 c b.notify b.haltOnFail b.next e
  rw [hlanes] at hraised hleft
  exact ⟨(finishEvent_lanes _).trans hleft, hraised.finish ((allWritten_fate _ m).trans hq)⟩

theorem actSetCab_badLength (hl : b.body.length ≠ 4) : actSetCab b s = (s, .failed .badValue 255) := if_pos hl

theorem cabOperand_eq (body : List Byte) : cabOperand body = abOf (bodyByte body 0) := by rw [cabOperand, field_one]

theorem actSetCab_badCab (hl : b.body.length = 4) (hn : 2 < bodyByte b.body 0) : actSetCab b s = (s, .failed .badValue 0) := by
  have hnone : cabOperand b.body = none := by
    rw [cabOperand_eq]
    cases h : abOf (bodyByte b.body 0) with
    | none => rfl
    | some x => exact absurd (abOf_eq_some.1 h ▸ abNumber_le x) (Nat.not_le.2 hn)
  rw [actSetCab, if_neg (not_not.mpr hl), hnone]

theorem actSetCab_eq (hl : b.body.length = 4) (hn : bodyByte b.body 0 = abNumber cab) :
    actSetCab b s = if cab = s.cab then (s, .done) else (handover cab s, .done) := by
  have hsome : cabOperand b.body = some cab := by rw [cabOperand_eq, abOf_eq_some, hn]
  rw [actSetCab, if_neg (not_not.mpr hl), hsome]

/-- SET CAB to another cab, once a screen Export of another cab has been dealt with (R114). -/
theorem setCab_hands (hb : BlockInHand s 0 .setCab c b) (ha : actSetCab b s = (handover cab s, .done))
    (h : ExportStopped s (handedOver cab s) m (stopForeignExport (handedOver cab s)) ns rs) (hq : m.bus.fate = []) :
    ∃ t, exec .setCab s = .next t ∧
      t = { m with
        cab, doors := t.doors, stored := t.stored, calling := t.calling, displays := t.displays, clear := t.clear
        lanes := t.lanes, reports := t.reports, bus := t.bus } ∧
      HandsOver s t ∧
      BlockDone m t c b .done (ns ++ doorNotices s t ++ clearNotices s t ++ [.cab]) (rs ++ doorRecords s t ++ [.part]) := by
  obtain ⟨hothers, hmode, hraised⟩ := h
  have hexec := exec_lane0Block (i := .setCab) (fun _ => rfl) hb ha
  rw [handover_eq_raise] at hexec
  obtain ⟨hmoved, hhanded, -⟩ := handed_handedOver cab s
  generalize stopForeignExport (handedOver cab s) = v at hothers hraised hexec
  generalize handedOver cab s = w at hothers hraised hmode hmoved hhanded
  obtain rfl : w.cab = cab := congrArg State.cab hmoved
  have hgiven : Raised m (raise .cab (mark .part v)) (ns ++ doorNotices s w ++ clearNotices s w ++ [.cab])
      (rs ++ doorRecords s w ++ [.part]) := by
    refine ((hraised.mark .part).raise .cab).congr (fun _ => Iff.rfl) fun r => ?_
    unfold clearRecords
    split <;> simp [or_comm, or_left_comm]
  have hu : raise .cab (mark .part v) = { m with
      cab := w.cab, doors := w.doors, stored := w.stored, calling := w.calling, displays := w.displays, clear := w.clear
      reports := (raise .cab (mark .part v)).reports, bus := v.bus } := by
    refine (raise_others .cab (mark .part v)).trans ?_
    generalize (raise .cab (mark .part v)).reports = reports
    rw [hothers]
    rfl
  generalize raise .cab (mark .part v) = u at hexec hgiven hu
  have hlast : HandsOver s u := by
    rw [hu]
    exact hhanded.congr hmode rfl rfl rfl rfl rfl rfl
  have hdone : BlockDone m _ c b .done _ _ := blockDone_of_raised hgiven hq ((congrArg State.clock hu).trans rfl)
    ((congrArg State.lanes hu).trans rfl)
  refine ⟨_, hexec, ?_, hlast.congr, ?_⟩
  · let others (v x : State) : State := { x with
      cab := v.cab, doors := v.doors, stored := v.stored, calling := v.calling, displays := v.displays, clear := v.clear
      lanes := v.lanes, reports := v.reports, bus := v.bus }
    have hcab : (finishEvent (endBlock 0 c b.notify b.haltOnFail b.next .done u)).cab = w.cab := by
      simpa using congrArg State.cab hu
    rw [← hcab]
    exact finishEvent_others others (fun _ => rfl) (fun _ _ _ _ => rfl) fun v =>
      (endBlock_unseen 0 c b.notify b.haltOnFail b.next .done u (others v) fun _ _ _ _ => rfl).trans
        ((congrArg (others v) hu).trans rfl)
  · have hdoors : (finishEvent (endBlock 0 c b.notify b.haltOnFail b.next .done u)).doors = w.doors := by
      simpa using congrArg State.doors hu
    have hclear : (finishEvent (endBlock 0 c b.notify b.haltOnFail b.next .done u)).clear = w.clear := by
      simpa using congrArg State.clear hu
    unfold doorNotices clearNotices doorRecords at hdone ⊢
    rw [hdoors, hclear]
    exact hdone

end Acts

end Sys2Proof.Machine

namespace Sys2Proof.Proofs

open Sys2Proof Sys2Proof.Machine Sys2Proof.Safety

-- The proofs are elaborated in order: side by side, each would hold a thread of its own, and its memory.
set_option Elab.async false

/-- Settles O53: the checks in their order, then the handover (`setCab_hands`), by whether a screen Export of another cab stands. -/
theorem setCabHandsOver : Obligations.SetCabHandsOver := by
  unfold Obligations.SetCabHandsOver
  intro s c b cab n handed hb
  have hcalm : Calm s := calm_of_blockInHand hb
  refine ⟨fun hl => onlyEnds_of_act (fun _ => rfl) hb (actSetCab_badLength hl),
    fun hl hn => onlyEnds_of_act (fun _ => rfl) hb (actSetCab_badCab hl hn), fun hl hn hcab => ?_, fun hl hn hcab => ?_⟩
  · exact onlyEnds_of_act (fun _ => rfl) hb ((actSetCab_eq hl hn).trans (if_pos hcab))
  · have ha : actSetCab b s = (handover cab s, .done) := (actSetCab_eq hl hn).trans (if_neg hcab)
    have hw := handed_handedOver cab s
    have hhands {m : State} {ns : List Notice} {rs : List Record}
        (h : ExportStopped s (handedOver cab s) m (stopForeignExport (handedOver cab s)) ns rs) (hq : m.bus.fate = []) :
        handed m ns rs := by
      obtain ⟨t, hexec, hothers, ⟨hdoors, hstored, hcalling, hclear, hdisplays⟩, hdone⟩ := setCab_hands hb ha h hq
      exact ⟨t, hexec, hothers, hdoors, hstored, hcalling, hclear, hdisplays, hdone⟩
    exact ⟨fun hown => hhands (exportStopped_none hw hcalm hown) hcalm.2, fun d c1 b1 hd hc hin hbound =>
      hhands (exportStopped_ends hw hcalm hd hc hin hbound) ((allWritten_fate _ s).trans hcalm.2)⟩

end Sys2Proof.Proofs
end

section
/-! The clear-view lines as one invariant of the part (R141): they are those the mode, the cab and the doors give, and how the
operations that reach any of the four keep it. -/

namespace Sys2Proof.Machine

open Safety

-- The proofs are elaborated in order: side by side, each would hold a thread of its own, and its memory.
set_option Elab.async false

/-- The lines are those R141 gives. -/
def LinesFollow (s : State) : Prop := s.clear = clearLines s

/-- Lines that are exact are the ones a state would recompute. -/
theorem linesExact_iff (s : State) : LinesExact s ↔ LinesFollow s := by
  obtain ⟨hleft, hright⟩ := linesExact_clearLines s
  constructor
  · rintro ⟨hl, hr⟩
    have hsides (x y : Sides) (h1 : x.left = true ↔ y.left = true) (h2 : x.right = true ↔ y.right = true) : x = y :=
      congrArg₂ Sides.mk (Bool.eq_iff_iff.2 h1) (Bool.eq_iff_iff.2 h2)
    exact hsides _ _ (hl.trans hleft.symm) (hr.trans hright.symm)
  · intro h
    have hself : { s with clear := clearLines s } = s := by rw [← h]
    exact hself ▸ linesExact_clearLines s

section Frame
variable {s t : State}

/-- The invariant reads the lines, the mode, the cab and the doors. -/
theorem LinesFollow.of (h : LinesFollow s) (clear : t.clear = s.clear := by simp) (mode : t.mode = s.mode := by simp)
    (cab : t.cab = s.cab := by simp) (doors : t.doors = s.doors := by simp) : LinesFollow t :=
  clear.trans (h.trans (clearLines_congr mode cab doors).symm)

/-- Of the doors the lines read which are isolated and which are clear. -/
theorem clearLines_congr_doors (mode : t.mode = s.mode) (cab : t.cab = s.cab)
    (doors : ∀ k : DoorId, t.doors[k].isolated = s.doors[k].isolated ∧ t.doors[k].state = s.doors[k].state) :
    clearLines t = clearLines s := by
  unfold clearLines sideClear
  simp only [mode, cab, doors]

/-- One door's line or timer changes. -/
theorem LinesFollow.sameDoor (h : LinesFollow s) (k : DoorId) {r : Door} (hs : r.state = s.doors[k].state := by rfl)
    (hi : r.isolated = s.doors[k].isolated := by rfl) : LinesFollow (s.setDoor k r) := by
  refine Eq.trans h (clearLines_congr_doors (s := s) (t := s.setDoor k r) rfl rfl fun j => ?_).symm
  rw [State.setDoor_doors, getElem_set_fin]
  split
  · rename_i hj
    exact hj ▸ ⟨hi, hs⟩
  · exact ⟨rfl, rfl⟩

theorem LinesFollow.finish (h : LinesFollow s) : LinesFollow (finishEvent s) := h.of

theorem LinesFollow.announceWake (h : LinesFollow s) : LinesFollow (announceWake s) := h.of

end Frame

variable {s : State}

/-! ## The operations that recompute the lines -/

theorem linesFollow_recomputeLines (s : State) : LinesFollow (recomputeLines s) :=
  (recomputeLines_clear s).trans (clearLines_congr (by simp) (by simp) (by simp)).symm

/-- A change of doors ends with the lines recomputed, whatever they were before (R142). -/
theorem linesFollow_doorsChanged (before : Vector Door 8) (s : State) : LinesFollow (doorsChanged before s) :=
  (linesFollow_recomputeLines (recomputeCalling s)).of (t := doorsChanged before s) (by simp [doorsChanged])

/-- A door changes in RUN, or wakes the part (R133, R137, R184). -/
theorem linesFollow_doorLevel (k : DoorId) (level : Bool) (s : State) : LinesFollow (doorLevel k level s) := by
  unfold doorLevel
  split
  · exact linesFollow_doorsChanged _ _
  · exact LinesFollow.announceWake (linesFollow_doorsChanged _ _)

theorem linesFollow_setDoorPolicy (body : List Byte) (s : State) : LinesFollow (setDoorPolicy body s) :=
  linesFollow_doorsChanged _ _

/-- The handover recomputes the lines; the end of a foreign Export leaves them (R114). -/
theorem linesFollow_handover (cab : Option AB) (s : State) : LinesFollow (handover cab s) := by
  have hlines := linesFollow_recomputeLines (recomputeOverrides (handoverDoors { s with cab }))
  unfold handover
  exact hlines.of

/-- Entry to stabling recomputes the lines once the part is STABLED (R182). -/
theorem linesFollow_enterStabling (s : State) : LinesFollow (enterStabling s) := by
  unfold enterStabling
  dsimp only
  generalize (List.finRange 12).foldl parkRunning _ = u
  have hlines := linesFollow_recomputeLines { u with mode := .stabled }
  exact hlines.of

theorem LinesFollow.wakePart (h : LinesFollow s) (cause : WakeCause) : LinesFollow (wakePart cause s) := by
  unfold Machine.wakePart
  split
  · exact h
  · exact (linesFollow_recomputeLines (leaveStabling cause s)).announceWake

/-- At power-on the part is in RUN under no cab, its lines inactive (R125, R144, R180). -/
theorem linesFollow_powerOn (s : State) : LinesFollow (powerOn s) :=
  (clearLines_of_off (s := powerOn s) (.inr rfl)).symm

/-! ## The frame start and SET DISPLAY -/

theorem LinesFollow.doorSteps (h : LinesFollow s) (d : DisplayId) : LinesFollow (doorSteps d s) := by
  unfold Machine.doorSteps
  split
  · exact linesFollow_doorsChanged _ _
  · exact h

theorem LinesFollow.takeFrameStart (h : LinesFollow s) (d : DisplayId) : LinesFollow (takeFrameStart d s) := by
  have hpipe : LinesFollow (pipeStarted d s) := h.of (by simp [pipeStarted]) (by simp [pipeStarted]) (by simp [pipeStarted])
    (by simp [pipeStarted])
  have hexport : LinesFollow (exportAtStart d (pipeStarted d s)) := hpipe.of
  rw [takeFrameStart_eq]
  split
  · exact (hexport.doorSteps d).of
  · exact hexport.doorSteps d

theorem LinesFollow.setDisplay (h : LinesFollow s) (d : DisplayId) (settings : DisplaySettings) :
    LinesFollow (setDisplay d settings s) := by
  unfold Machine.setDisplay
  dsimp only
  split
  · exact h.of
  · exact LinesFollow.takeFrameStart h.of d

end Sys2Proof.Machine
end

section
/-! Every command keeps the clear-view lines as R141 gives them. -/

namespace Sys2Proof.Machine

open Safety

-- The proofs are elaborated in order: side by side, each would hold a thread of its own, and its memory.
set_option Elab.async false

/-- In every state that an outcome can go on to, the lines are those R141 gives. -/
def KeepsLines (o : Host.Outcome State Fault Refusal) : Prop := ∀ t, o = .next t → LinesFollow t

variable {s : State}

theorem LinesFollow.keeps (h : LinesFollow s) : KeepsLines (.next s) := by
  rintro _ ⟨⟩
  exact h

/-- A command that leaves the lines, the mode, the cab and the doors. -/
theorem LinesFollow.left (h : LinesFollow s) {t : State} (clear : t.clear = s.clear := by simp) (mode : t.mode = s.mode := by simp)
    (cab : t.cab = s.cab := by simp) (doors : t.doors = s.doors := by simp) : KeepsLines (.next t) :=
  (h.of clear mode cab doors).keeps

theorem keepsLines_fault (f : Fault) : KeepsLines (.fault f) := by
  intro t h
  cases h

/-! ## Packets, timers and frames -/

theorem LinesFollow.frameOpen (h : LinesFollow s) (p : PortId) (count width height : Half) :
    KeepsLines (execFrameOpen p count width height s) := by
  unfold execFrameOpen
  split <;> exact h.left

theorem LinesFollow.line (h : LinesFollow s) (p : PortId) (n : Half) (payload : List Byte) (check : Half) :
    KeepsLines (execLine p n payload check s) := by
  unfold execLine
  split
  · exact h.keeps
  · split
    · exact h.keeps
    · split
      · exact h.left
      · exact keepsLines_fault _

theorem LinesFollow.frameClose (h : LinesFollow s) (p : PortId) (count : Half) : KeepsLines (execFrameClose p count s) := by
  unfold execFrameClose
  split
  · exact h.keeps
  · split
    · exact h.keeps
    · split
      · exact h.left
      · exact keepsLines_fault _

theorem LinesFollow.silenceTimerExpiry (h : LinesFollow s) (p : PortId) : KeepsLines (execSilenceTimerExpiry p s) := by
  unfold execSilenceTimerExpiry
  split <;> exact h.left

theorem LinesFollow.evaluationService (h : LinesFollow s) : KeepsLines (execEvaluationService s) := by
  unfold execEvaluationService
  split <;> exact h.left

theorem LinesFollow.frameStart (h : LinesFollow s) (d : DisplayId) : KeepsLines (execFrameStart d s) := by
  unfold execFrameStart
  split
  · exact (h.takeFrameStart d).finish.keeps
  · exact h.keeps

theorem LinesFollow.frameEnd (h : LinesFollow s) (d : DisplayId) : KeepsLines (execFrameEnd d s) := by
  unfold execFrameEnd
  split <;> exact h.left

theorem LinesFollow.holdExpiry (h : LinesFollow s) (d : DisplayId) (side : CabSide) : KeepsLines (execHoldExpiry d side s) := by
  unfold execHoldExpiry
  cases side <;> exact h.left

/-! ## Door lines -/

theorem LinesFollow.doorLineEdge (h : LinesFollow s) (k : DoorId) (level : Bool) : KeepsLines (execDoorLineEdge k level s) := by
  unfold execDoorLineEdge
  dsimp only
  split
  · exact h.keeps
  · split
    · exact (h.sameDoor k).keeps
    · split
      · exact (linesFollow_doorLevel k level _).finish.keeps
      · exact (h.sameDoor k).keeps

theorem LinesFollow.debounceExpiry (h : LinesFollow s) (k : DoorId) : KeepsLines (execDebounceExpiry k s) := by
  unfold execDebounceExpiry
  dsimp only
  split
  · exact h.keeps
  · split
    · split
      · exact (h.sameDoor k).keeps
      · exact (linesFollow_doorLevel k _ _).finish.keeps
    · exact h.keeps

/-! ## The register window and the attention words -/

/-- A write of a register reaches the window and the reports only. -/
theorem LinesFollow.writeRegister (h : LinesFollow s) (value : Word) (r : HostRegister) : LinesFollow (writeRegister value s r) := by
  cases r with
  | ident => exact h
  | areaLo =>
    show LinesFollow (writeAreaLo value s)
    unfold writeAreaLo
    split <;> exact h.of
  | areaHi =>
    show LinesFollow (writeAreaHi value s)
    unfold writeAreaHi
    split <;> exact h.of
  | areaSize =>
    show LinesFollow (writeAreaSize value s)
    unfold writeAreaSize
    split
    · exact h.of
    · dsimp only
      split <;> exact h.of
  | command => exact h
  | attention =>
    show LinesFollow (writeAttention value s)
    unfold writeAttention
    split <;> exact h.of
  | status => exact h
  | resetCause => exact h

/-- A captured word is taken. -/
theorem LinesFollow.takeWord (h : LinesFollow s) (code : Nat) (effect : Word → Word → State → State)
    (he : ∀ w head u, LinesFollow u → LinesFollow (effect w head u)) : KeepsLines (takeWord code effect s) := by
  unfold Machine.takeWord
  split
  · exact h.keeps
  · split
    · exact (he _ _ _ h.of).finish.keeps
    · exact h.keeps

/-- RUN CHAIN reaches the lines by the wake of a STABLED part alone (R184). -/
theorem LinesFollow.runChain (h : LinesFollow s) (w head : Word) : LinesFollow (runChain w head s) := by
  unfold Machine.runChain
  split
  · exact h.of
  · split
    · exact h.of
    · split
      · exact h.of
      · exact (h.wakePart .runChain).of

theorem LinesFollow.badCode (h : LinesFollow s) : KeepsLines (execBadCode s) := by
  unfold execBadCode
  split
  · exact h.keeps
  · split <;> exact h.left

/-! ## The lanes -/

/-- A lane's walk reaches the lanes, the link and the reports. -/
theorem LinesFollow.reachBlock (h : LinesFollow s) (l : LaneId) (c : Chain) (rest : Chain → Header → State → State)
    (hr : ∀ c g u, LinesFollow u → LinesFollow (rest c g u)) : LinesFollow (reachBlock l c rest s) := by
  unfold Machine.reachBlock
  split
  · split
    · exact h.of
    · exact hr _ _ _ h.of
  · exact h.of

theorem LinesFollow.headerRead (h : LinesFollow s) (l : LaneId) : KeepsLines (execHeaderRead l s) := by
  unfold execHeaderRead
  split
  · exact h.keeps
  · exact (h.reachBlock l _ _ fun _ _ _ hu => hu.of).finish.keeps

theorem LinesFollow.skipWalk (h : LinesFollow s) (l : LaneId) : KeepsLines (execSkipWalk l s) := by
  unfold execSkipWalk
  split
  · exact h.keeps
  · exact (h.reachBlock l _ _ fun _ _ _ hu => hu.of).finish.keeps

theorem LinesFollow.exportFrame (h : LinesFollow s) : KeepsLines (execExportFrame s) := by
  unfold execExportFrame
  split
  · exact h.keeps
  · split
    · exact h.left
    · split <;> exact h.left

theorem LinesFollow.exportScreen (h : LinesFollow s) : KeepsLines (execExportScreen s) := by
  unfold execExportScreen
  split
  · exact h.keeps
  · split
    · exact h.left
    · split <;> exact h.left

theorem LinesFollow.exportFrameRow (h : LinesFollow s) : KeepsLines (execExportFrameRow s) := by
  unfold execExportFrameRow
  split
  · split
    · split
      · split
        · exact h.left
        · dsimp only
          split <;> exact h.left
      · exact h.keeps
    · exact keepsLines_fault _
  · exact h.keeps
  · exact h.keeps
  · exact h.keeps

theorem LinesFollow.exportScreenRow (h : LinesFollow s) : KeepsLines (execExportScreenRow s) := by
  unfold execExportScreenRow
  split
  · split
    · split
      · split <;> exact h.left
      · exact h.keeps
    · exact keepsLines_fault _
  · exact h.keeps
  · exact h.keeps
  · exact h.keeps

/-! ## The lane 0 blocks -/

/-- A lane 0 block acts, and its end reaches the lane, the link and the reports. -/
theorem LinesFollow.lane0Block (h : LinesFollow s) (kind : Kind) (act : InHand → State → State × Ending)
    (ha : ∀ b, LinesFollow (act b s).1) : KeepsLines (lane0Block kind act s) := by
  unfold Machine.lane0Block
  split
  · exact h.keeps
  · rename_i c b _
    split
    · have hb := ha b
      generalize act b s = r at hb
      obtain ⟨u, e⟩ := r
      exact hb.left
    · exact h.keeps

theorem LinesFollow.actDefineCamera (h : LinesFollow s) (b : InHand) : LinesFollow (actDefineCamera b s).1 := by
  unfold Machine.actDefineCamera
  split
  · exact h
  · split
    · exact h
    · split
      · exact h
      · split <;> exact h.of

theorem LinesFollow.actParkCamera (h : LinesFollow s) (b : InHand) : LinesFollow (actParkCamera b s).1 := by
  unfold Machine.actParkCamera
  split
  · exact h
  · split
    · exact h
    · split <;> exact h.of

theorem LinesFollow.actUnparkCamera (h : LinesFollow s) (b : InHand) : LinesFollow (actUnparkCamera b s).1 := by
  unfold Machine.actUnparkCamera
  split
  · exact h
  · split
    · exact h
    · split
      · exact h
      · split <;> exact h.of

theorem LinesFollow.actLoadLayout (h : LinesFollow s) (b : InHand) : LinesFollow (actLoadLayout b s).1 := by
  unfold Machine.actLoadLayout
  split
  · exact h
  · split
    · split <;> exact h.of
    · exact h

theorem LinesFollow.actClearLayout (h : LinesFollow s) (b : InHand) : LinesFollow (actClearLayout b s).1 := by
  unfold Machine.actClearLayout
  split
  · exact h
  · split <;> exact h.of

theorem LinesFollow.actSelectLayout (h : LinesFollow s) (b : InHand) : LinesFollow (actSelectLayout b s).1 := by
  unfold Machine.actSelectLayout
  split
  · exact h
  · split
    · exact h
    · split <;> exact h.of

theorem LinesFollow.actSetDisplay (h : LinesFollow s) (b : InHand) : LinesFollow (actSetDisplay b s).1 := by
  unfold Machine.actSetDisplay
  split
  · exact h
  · split
    · exact h
    · split
      · exact h
      · split
        · exact h
        · dsimp only
          exact h.setDisplay _ _

theorem LinesFollow.actSetCab (h : LinesFollow s) (b : InHand) : LinesFollow (actSetCab b s).1 := by
  unfold Machine.actSetCab
  split
  · exact h
  · split
    · exact h
    · split
      · exact h
      · dsimp only
        exact linesFollow_handover _ s

theorem LinesFollow.actSetDoorPolicy (h : LinesFollow s) (b : InHand) : LinesFollow (actSetDoorPolicy b s).1 := by
  unfold Machine.actSetDoorPolicy
  split
  · exact h
  · split
    · dsimp only
      exact linesFollow_setDoorPolicy _ s
    · exact h

theorem LinesFollow.actEnterStabling (h : LinesFollow s) (b : InHand) : LinesFollow (actEnterStabling b s).1 := by
  unfold Machine.actEnterStabling
  split
  · exact h
  · split
    · exact h
    · split
      · dsimp only
        exact linesFollow_enterStabling s
      · exact h

theorem LinesFollow.actLearnReference (h : LinesFollow s) (b : InHand) : LinesFollow (actLearnReference b s).1 := by
  unfold Machine.actLearnReference
  split
  · exact h
  · dsimp only
    split
    · exact h
    · split
      · exact h
      · split <;> exact h.of

theorem LinesFollow.actSetReference (h : LinesFollow s) (b : InHand) : LinesFollow (actSetReference b s).1 := by
  unfold Machine.actSetReference
  split
  · exact h
  · split
    · exact h
    · split <;> exact h.of

theorem LinesFollow.actMeasureOnce (h : LinesFollow s) (b : InHand) : LinesFollow (actMeasureOnce b s).1 := by
  unfold Machine.actMeasureOnce
  split
  · exact h
  · split
    · exact h
    · split <;> exact h.of

theorem LinesFollow.actSetSoilLimits (h : LinesFollow s) (b : InHand) : LinesFollow (actSetSoilLimits b s).1 := by
  unfold Machine.actSetSoilLimits
  split
  · exact h
  · split
    · exact h
    · split <;> exact h.of

/-! ## Every command -/

theorem LinesFollow.linkReset (h : LinesFollow s) : LinesFollow (linkReset s) := by
  unfold Machine.linkReset
  exact h.of

/-- Every command keeps the lines as R141 gives them. -/
theorem LinesFollow.exec (h : LinesFollow s) (i : Instr) : KeepsLines (exec i s) := by
  cases i with
  | powerOn => exact (linesFollow_powerOn s).keeps
  | linkReset => exact h.linkReset.keeps
  | frameOpen p count width height => exact h.frameOpen p count width height
  | line p n payload check => exact h.line p n payload check
  | frameClose p count => exact h.frameClose p count
  | unknownPacket p => exact h.keeps
  | silenceTimerExpiry p => exact h.silenceTimerExpiry p
  | evaluationService => exact h.evaluationService
  | frameStart d => exact h.frameStart d
  | frameEnd d => exact h.frameEnd d
  | holdExpiry d side => exact h.holdExpiry d side
  | doorLineEdge k level => exact h.doorLineEdge k level
  | debounceExpiry k => exact h.debounceExpiry k
  | areaLoWrite v => exact (h.writeRegister v .areaLo).keeps
  | areaHiWrite v => exact (h.writeRegister v .areaHi).keeps
  | areaSizeWrite v => exact (h.writeRegister v .areaSize).keeps
  | statusRead => exact h.left
  | resetCauseWrite v => exact (h.writeRegister v .resetCause).keeps
  | registerWrite r v => exact (h.writeRegister v r).keeps
  | attentionWrite v => exact (h.writeRegister v .attention).keeps
  | runChain => exact h.takeWord 1 _ fun _ _ _ hu => hu.runChain _ _
  | haltLane => exact h.takeWord 2 _ fun _ _ _ hu => hu.of
  | acknowledge => exact h.takeWord 3 _ fun _ _ _ hu => hu.of
  | restart => exact h.takeWord 4 _ fun _ _ _ hu => hu.of
  | wake => exact h.takeWord 5 _ fun _ _ _ hu => hu.wakePart .wake
  | badCode => exact h.badCode
  | headerRead l => exact h.headerRead l
  | skipWalk l => exact h.skipWalk l
  | defineCamera => exact h.lane0Block .defineCamera Machine.actDefineCamera h.actDefineCamera
  | parkCamera => exact h.lane0Block .parkCamera Machine.actParkCamera h.actParkCamera
  | unparkCamera => exact h.lane0Block .unparkCamera Machine.actUnparkCamera h.actUnparkCamera
  | loadLayout => exact h.lane0Block .loadLayout Machine.actLoadLayout h.actLoadLayout
  | clearLayout => exact h.lane0Block .clearLayout Machine.actClearLayout h.actClearLayout
  | selectLayout => exact h.lane0Block .selectLayout Machine.actSelectLayout h.actSelectLayout
  | setDisplay => exact h.lane0Block .setDisplay Machine.actSetDisplay h.actSetDisplay
  | setCab => exact h.lane0Block .setCab Machine.actSetCab h.actSetCab
  | learnReference => exact h.lane0Block .learnReference Machine.actLearnReference h.actLearnReference
  | setReference => exact h.lane0Block .setReference Machine.actSetReference h.actSetReference
  | measureOnce => exact h.lane0Block .measureOnce Machine.actMeasureOnce h.actMeasureOnce
  | setSoilLimits => exact h.lane0Block .setSoilLimits Machine.actSetSoilLimits h.actSetSoilLimits
  | setDoorPolicy => exact h.lane0Block .setDoorPolicy Machine.actSetDoorPolicy h.actSetDoorPolicy
  | enterStabling => exact h.lane0Block .enterStabling Machine.actEnterStabling h.actEnterStabling
  | exportFrame => exact h.exportFrame
  | exportScreen => exact h.exportScreen
  | exportFrameRow => exact h.exportFrameRow
  | exportScreenRow => exact h.exportScreenRow

/-- Every step keeps the lines as R141 gives them. -/
theorem LinesFollow.step {t : State} (h : LinesFollow s) (hs : step s = .next t) : LinesFollow t := by
  unfold Machine.step at hs
  split at hs
  · cases hs
    exact h.of rfl rfl rfl rfl
  · exact LinesFollow.exec (h.of) _ t hs

end Sys2Proof.Machine

namespace Sys2Proof.Proofs

open Sys2Proof Sys2Proof.Machine Sys2Proof.Safety

-- The proofs are elaborated in order: side by side, each would hold a thread of its own, and its memory.
set_option Elab.async false

/-- Settles O4: exact lines are lines that follow the mode, the cab and the doors (`linesExact_iff`), which every command keeps. -/
theorem clearLinesStayExact : Obligations.ClearLinesStayExact := by
  unfold Obligations.ClearLinesStayExact
  intro s t h hs
  exact (linesExact_iff t).2 (LinesFollow.step ((linesExact_iff s).1 h) hs)

end Sys2Proof.Proofs
end

section
/-! The verdict of a display for a door: the topmost tile of its frame that qualifies (R131). -/

namespace Sys2Proof.Machine

open Safety

-- The proofs are elaborated in order: side by side, each would hold a thread of its own, and its memory.
set_option Elab.async false

/-! ## The highest index at which a list satisfies a test -/

section Topmost
variable {α : Type} (test : α → Bool) (t : α) (ts : List α)

/-- Counted from one further, every index is one higher. -/
theorem lastIndex_succ (n : Nat) : lastIndex test ts (n + 1) = (lastIndex test ts n).map (· + 1) := by
  induction ts generalizing n with
  | nil => rfl
  | cons t ts ih =>
    unfold lastIndex
    rw [ih (n + 1)]
    cases lastIndex test ts (n + 1) with
    | some j => rfl
    | none => cases test t <;> rfl

/-- An index in the tail counts before the head. -/
theorem lastIndex_cons : lastIndex test (t :: ts) 0 =
    ((lastIndex test ts 0).map (· + 1)).or (if test t then some 0 else none) := by
  rw [lastIndex, lastIndex_succ]
  cases lastIndex test ts 0 <;> rfl

theorem lastIndex_eq_none : lastIndex test ts 0 = none ↔ ∀ t ∈ ts, ¬ test t = true := by
  induction ts with
  | nil => simp [lastIndex]
  | cons t ts ih =>
    rw [lastIndex_cons, Option.or_eq_none_iff, Option.map_eq_none_iff, ih, List.forall_mem_cons, and_comm]
    simp

/-- The index of the topmost element that satisfies the test, none above it doing so. -/
theorem lastIndex_eq_some (i : Nat) : lastIndex test ts 0 = some i ↔
    (∃ t, ts[i]? = some t ∧ test t = true) ∧ ∀ j u, i < j → ts[j]? = some u → ¬ test u = true := by
  induction ts generalizing i with
  | nil => simp [lastIndex]
  | cons t ts ih =>
    rw [lastIndex_cons]
    cases i with
    | zero =>
      have habove : (∀ j u, 0 < j → (t :: ts)[j]? = some u → ¬ test u = true) ↔ lastIndex test ts 0 = none := by
        rw [lastIndex_eq_none]
        constructor
        · intro h u hu
          obtain ⟨j, hj⟩ := List.mem_iff_getElem?.1 hu
          exact h (j + 1) u j.succ_pos hj
        · intro h j u hj hu
          obtain ⟨j, rfl⟩ := Nat.exists_eq_succ_of_ne_zero hj.ne'
          exact h u (List.mem_of_getElem? hu)
      rw [habove]
      cases lastIndex test ts 0 <;> simp
    | succ i =>
      have habove : (∀ j u, i + 1 < j → (t :: ts)[j]? = some u → ¬ test u = true) ↔
          ∀ j u, i < j → ts[j]? = some u → ¬ test u = true := by
        constructor
        · intro h j u hj hu
          exact h (j + 1) u (Nat.succ_lt_succ hj) hu
        · intro h j u hj hu
          obtain ⟨j, rfl⟩ := Nat.exists_eq_succ_of_ne_zero (Nat.ne_zero_of_lt hj)
          exact h j u (Nat.lt_of_succ_lt_succ hj) hu
      rw [habove, List.getElem?_cons_succ, ← ih]
      cases lastIndex test ts 0 <;> simp

end Topmost

/-! ## The verdict (R131) -/

/-- The conditions of R131 for a tile and a door. -/
theorem tileQualifies_iff (s : State) (settings : DisplaySettings) (door : DoorId) (t : FrameTile) :
    tileQualifies s settings door t = true ↔
      t.drawn = true ∧ ∃ v, t.shown = some v ∧ s.ports[v.port].state = .live ∧ door ∈ s.ports[v.port].camera.coverage ∧
        s.soil[v.port].state ≠ .blinded ∧ v.age ≤ t.tile.maxAge ∧
        settings.minWidth ≤ (t.tile.dest.clip settings.width settings.height).w ∧
        settings.minHeight ≤ (t.tile.dest.clip settings.width settings.height).h := by
  unfold tileQualifies
  cases t.shown with
  | none => simp
  | some v =>
    simp only [portLive, Bool.and_eq_true, decide_eq_true_eq, List.contains_iff_mem, Option.some.injEq, exists_eq_left', and_assoc]

theorem verdictVector_getElem (s : State) (settings : DisplaySettings) (tiles : List FrameTile) (door : DoorId) :
    (verdictVector s settings tiles)[door] = lastIndex (tileQualifies s settings door) tiles 0 := getElem_ofFn_fin _ door

end Sys2Proof.Machine

namespace Sys2Proof.Proofs

open Sys2Proof Sys2Proof.Machine Sys2Proof.Safety

-- The proofs are elaborated in order: side by side, each would hold a thread of its own, and its memory.
set_option Elab.async false

/-- Settles O14: the verdict is the highest index at which a tile qualifies (`lastIndex_eq_some`, `lastIndex_eq_none`), and a tile
qualifies under the conditions of R131 (`tileQualifies_iff`). -/
theorem verdictIsTopmostQualifyingTile : Obligations.VerdictIsTopmostQualifyingTile := by
  unfold Obligations.VerdictIsTopmostQualifyingTile
  intro s settings tiles door qualifies
  have hqualifies (t : FrameTile) : tileQualifies s settings door t = true ↔ qualifies t := tileQualifies_iff s settings door t
  simp only [verdictVector_getElem, lastIndex_eq_some, lastIndex_eq_none, hqualifies, implies_true, and_self]

end Sys2Proof.Proofs
end

section
/-! The debounce timer of a door line (R126, R127). -/

namespace Sys2Proof.Machine

open Safety

-- The proofs are elaborated in order: side by side, each would hold a thread of its own, and its memory.
set_option Elab.async false

section Edge
variable {s : State} {k : DoorId} {level : Bool}

/-- A level that the line already has is no edge. -/
theorem exec_doorLineEdge_same (h : level = s.doors[k].raw) : exec (.doorLineEdge k level) s = .next s := if_pos h

/-- An edge back to the debounced level stops the timer. -/
theorem exec_doorLineEdge_back (h : level ≠ s.doors[k].raw) (hl : level = s.doors[k].level) :
    exec (.doorLineEdge k level) s = .next (s.setDoor k { s.doors[k] with raw := level, timer := none }) :=
  (if_neg h).trans (if_pos hl)

/-- An edge away from the debounced level starts the timer, where there is a debounce time. -/
theorem exec_doorLineEdge_away (h : level ≠ s.doors[k].raw) (hl : level ≠ s.doors[k].level) (hd : s.debounce ≠ 0) :
    exec (.doorLineEdge k level) s =
      .next (s.setDoor k { s.doors[k] with raw := level, timer := some (stampAfter s.clock s.debounce) }) :=
  (if_neg h).trans ((if_neg hl).trans (if_neg hd))

/-- A timer that is stopped, or that the clock has not reached, does not expire. -/
theorem exec_debounceExpiry_running (h : ∀ e, s.doors[k].timer = some e → reached s.clock e = false) :
    exec (.debounceExpiry k) s = .next s := by
  show execDebounceExpiry k s = _
  unfold execDebounceExpiry
  dsimp only
  split
  · rfl
  · rename_i e he
    rw [h e he]
    rfl

/-- A timer that expires with the raw level back at the debounced one only stops. -/
theorem exec_debounceExpiry_back {e : Stamp} (he : s.doors[k].timer = some e) (hr : reached s.clock e = true)
    (hl : s.doors[k].raw = s.doors[k].level) :
    exec (.debounceExpiry k) s = .next (s.setDoor k { s.doors[k] with timer := none }) := by
  show execDebounceExpiry k s = _
  unfold execDebounceExpiry
  dsimp only
  rw [he]
  exact (if_pos hr).trans (if_pos hl)

end Edge

end Sys2Proof.Machine

namespace Sys2Proof.Proofs

open Sys2Proof Sys2Proof.Machine Sys2Proof.Safety

/-- Settles O30: an edge by its level, and an expiry by its stamp and the level it finds. -/
theorem doorEdgesRunTheTimer : Obligations.DoorEdgesRunTheTimer := by
  unfold Obligations.DoorEdgesRunTheTimer
  intro s k level r
  exact ⟨exec_doorLineEdge_same, exec_doorLineEdge_back, exec_doorLineEdge_away, exec_debounceExpiry_running,
    fun _ => exec_debounceExpiry_back⟩

end Sys2Proof.Proofs
end

section
/-! The wake of a STABLED part (R184), and the door whose debounced level wakes it (R127, R133, R137). -/

namespace Sys2Proof.Machine

open Safety

-- The proofs are elaborated in order: side by side, each would hold a thread of its own, and its memory.
set_option Elab.async false

/-! ## The ports a wake brings back (R184, step 1) -/

section Ports
variable {m s t : State} {ns : List Notice} {rs : List Record}

/-- A port back in SEEKING after a wake. -/
def awoken (q : CapturePort) : CapturePort := { q with state := .seeking, frame := none, silence := none }

theorem wakePort_eq (s : State) (p : PortId) : wakePort s p = if wakes s p then seekPort p s else s := rfl

theorem wakePort_ports (s : State) (p : PortId) :
    (wakePort s p).ports = if wakes s p then s.ports.set p (awoken s.ports[p]) else s.ports := by
  rw [wakePort_eq]
  split
  · exact seekPort_ports p s
  · rfl

theorem wakePort_port (s : State) (p q : PortId) :
    (wakePort s p).ports[q] = if p = q ∧ wakes s q = true then awoken s.ports[q] else s.ports[q] := by
  rw [wakePort_ports]
  by_cases hp : p = q
  · subst hp
    cases wakes s p <;> simp
  · simp only [hp, false_and, if_false]
    split
    · exact getElem_set_other _ _ hp
    · rfl

/-- The wake of one port leaves what the others await. -/
theorem wakes_wakePort {p q : PortId} (h : p ≠ q) : wakes (wakePort s p) q = wakes s q := by
  have hrecord : (wakePort s p).wakeRecord = s.wakeRecord := by simp
  unfold wakes
  rw [wakePort_port, if_neg fun hp => h hp.1, hrecord]

/-- The recorded ports wake one after another, each as it stood. -/
theorem wakePorts_ports {ps : List PortId} (hnodup : ps.Nodup) (s : State) (q : PortId) :
    (ps.foldl wakePort s).ports[q] = if q ∈ ps ∧ wakes s q = true then awoken s.ports[q] else s.ports[q] := by
  induction ps generalizing s with
  | nil => simp
  | cons p ps ih =>
    obtain ⟨hp, hnodup⟩ := List.nodup_cons.1 hnodup
    rw [List.foldl_cons, ih hnodup, wakePort_port]
    by_cases hq : p = q
    · subst hq
      simp [hp]
    · simp [hq, Ne.symm hq, wakes_wakePort hq]

theorem Raised.wakePorts {ps : List PortId} (hnodup : ps.Nodup) (h : Raised m s ns rs) :
    Raised m (ps.foldl wakePort s) (ns ++ (ps.filter (wakes s)).map fun _ => .camera) (rs ++ (ps.filter (wakes s)).map .camera) := by
  induction ps generalizing s ns rs with
  | nil => simpa using h
  | cons p ps ih =>
    obtain ⟨hp, hnodup⟩ := List.nodup_cons.1 hnodup
    have hrest : ps.filter (wakes (wakePort s p)) = ps.filter (wakes s) :=
      List.filter_congr fun q hq => wakes_wakePort fun he => hp (he ▸ hq)
    have hone : Raised m (wakePort s p) (ns ++ if wakes s p then [.camera] else []) (rs ++ if wakes s p then [.camera p] else []) := by
      rw [wakePort_eq]
      split
      · exact (h.seekPort p).congr (fun _ => Iff.rfl) fun r => by simp [or_comm]
      · simpa using h
    have hall := ih hnodup hone
    rw [hrest] at hall
    rw [List.filter_cons]
    split
    · rename_i hw
      simpa [hw] using hall
    · rename_i hw
      simpa [hw] using hall

/-! ## The wake (R184) -/

/-- What `Woken` reads of the state after a wake. -/
theorem woken_congr {u : State} {cause : WakeCause} (h : Woken s t cause) (ports : u.ports = t.ports := by simp)
    (mode : u.mode = t.mode := by simp) (wakeCause : u.wakeCause = t.wakeCause := by simp)
    (wakeRecord : u.wakeRecord = t.wakeRecord := by simp) : Woken s u cause := by
  unfold Woken at h ⊢
  rw [ports, mode, wakeCause, wakeRecord]
  exact h

/-- Beside the ports a wake reaches the mode, the wake record, the cause and the reports. -/
theorem leaveStabling_eq (cause : WakeCause) (s : State) :
    ∃ u, u = (List.finRange 12).foldl wakePort s ∧
      leaveStabling cause s = { u with wakeRecord := Vector.replicate 12 false, mode := .run, wakeCause := cause } := ⟨_, rfl, rfl⟩

/-- Steps 1 to 3 of a wake. -/
theorem woken_leaveStabling (cause : WakeCause) (s : State) : Woken s (leaveStabling cause s) cause := by
  obtain ⟨u, hu, hleft⟩ := leaveStabling_eq cause s
  rw [hleft]
  refine ⟨rfl, rfl, rfl, fun q => ?_⟩
  have hport := wakePorts_ports (List.nodup_finRange 12) s q
  rw [← hu] at hport
  simp only [List.mem_finRange, true_and] at hport
  exact hport

theorem Raised.leaveStabling (h : Raised m s ns rs) (cause : WakeCause) :
    Raised m (leaveStabling cause s) (ns ++ wakeNotices s) (rs ++ wakeRecords s) := by
  obtain ⟨u, hu, hleft⟩ := leaveStabling_eq cause s
  have hports := h.wakePorts (List.nodup_finRange 12)
  rw [← hu] at hports
  rw [hleft]
  refine Raised.congr (hports.step rfl rfl rfl) (fun n => ?_) fun _ => Iff.rfl
  unfold wakeNotices
  by_cases hw : ∃ q : PortId, wakes s q = true
  · simp [hw, eq_comm (a := n)]
  · simp [hw]

/-- The wake is announced (R184, step 6). -/
theorem Raised.announceWake (h : Raised m s ns rs) : Raised m (announceWake s) (ns ++ [.wake]) (.part :: rs) :=
  (h.mark .part).raise .wake

end Ports

/-! ## The door that wakes the part -/

/-- The part as a door's debounced level has woken it, the wake not yet announced (R133, R137, R184). -/
def wokenByDoor (k : DoorId) (level : Bool) (s : State) : State :=
  changeDoor k level (leaveStabling (.door k) (lineTaken k level s))

section Level
variable {m s : State} {k : DoorId} {level : Bool} {ns : List Notice} {rs : List Record}

theorem doorLevel_of_stabled (h : s.mode = .stabled) :
    doorLevel k level (lineTaken k level s) = announceWake (wokenByDoor k level s) := by
  rw [doorLevel, show (lineTaken k level s).mode = .stabled from h]
  rfl

theorem woken_wokenByDoor (k : DoorId) (level : Bool) (s : State) : Woken s (wokenByDoor k level s) (.door k) := by
  have hleft : Woken s (leaveStabling (.door k) (lineTaken k level s)) (.door k) := woken_leaveStabling _ (lineTaken k level s)
  unfold wokenByDoor
  exact woken_congr hleft

/-- The door is OPENED or SHUT, and the sides follow, as in RUN (R133, R137, R142). -/
theorem doorTaken_wokenByDoor (k : DoorId) (level : Bool) (s : State) : DoorTaken s (wokenByDoor k level s) k level := by
  have hdoors : (leaveStabling (.door k) (lineTaken k level s)).doors = (lineTaken k level s).doors := by simp
  have hclock : (leaveStabling (.door k) (lineTaken k level s)).clock = s.clock := by simp [lineTaken]
  constructor
  · rw [wokenByDoor, changeDoor_doors, hdoors, hclock, lineTaken_door, changeLevel_eq]
    exact Vector.set_set ..
  · unfold wokenByDoor changeDoor
    exact sidesFollow_doorsChanged _ (by simp [lineTaken]) (by simp [lineTaken]) (by simp [lineTaken]) (by simp [lineTaken])

/-- What the wake reports, then the door with the change of lines (R143, R184). -/
theorem Raised.wokenByDoor (h : Raised m s ns rs) (hfollow : s.doors[k].state = .shut ↔ s.doors[k].level = false)
    (hlevel : level ≠ s.doors[k].level) :
    Raised m (wokenByDoor k level s) (ns ++ wakeNotices s ++ .door :: clearNotices s (Machine.wokenByDoor k level s))
      (rs ++ wakeRecords s ++ .door k :: clearRecords s (Machine.wokenByDoor k level s)) := by
  have hdoor : (Machine.leaveStabling (.door k) (lineTaken k level s)).doors[k] =
      { s.doors[k] with raw := level, timer := none } := by
    rw [← lineTaken_door]
    simp only [leaveStabling_keeps]
  have hclear : (Machine.leaveStabling (.door k) (lineTaken k level s)).clear = s.clear := by simp [lineTaken]
  have hline : Raised m (lineTaken k level s) ns rs := h.step rfl rfl rfl
  have hwoken := (hline.leaveStabling (.door k)).changeDoor (k := k) (level := level) (by rw [hdoor]; exact hfollow)
    (by rw [hdoor]; exact hlevel)
  unfold clearNotices clearRecords at hwoken ⊢
  rw [hclear] at hwoken
  exact hwoken

/-- The part record, written for the wake, is written for the change of lines too (R141, R184). -/
theorem mem_wokenRecords {s t : State} {r : Record} :
    r ∈ .part :: (rs ++ .door k :: clearRecords s t) ↔ r ∈ rs ++ [.door k, .part] := by
  unfold clearRecords
  split <;> simp [or_comm, or_left_comm]

end Level

end Sys2Proof.Machine

namespace Sys2Proof.Proofs

open Sys2Proof Sys2Proof.Machine Sys2Proof.Safety

-- The proofs are elaborated in order: side by side, each would hold a thread of its own, and its memory.
set_option Elab.async false

/-- Settles O32: the part leaves stabling (`woken_wokenByDoor`), the door change is taken as in RUN (`doorTaken_wokenByDoor`), and
both are reported with the wake (`Raised.wokenByDoor`). -/
theorem doorLevelWakesPart : Obligations.DoorLevelWakesPart := by
  unfold Obligations.DoorLevelWakesPart
  intro s k level i r hcause hlevel hcalm hstabled hfollow
  have hexec := exec_doorLevel hcause hlevel
  rw [doorLevel_of_stabled hstabled] at hexec
  obtain ⟨hdoors, hsides⟩ := doorTaken_wokenByDoor k level s
  have hraised := ((Raised.calm hcalm).wokenByDoor (hfollow k) hlevel).announceWake
  have hclear : (finishEvent (announceWake (wokenByDoor k level s))).clear = (wokenByDoor k level s).clear := by simp
  refine ⟨_, hexec, ?_, ⟨by simpa using hdoors, sidesFollow_congr hsides⟩, woken_congr (woken_wokenByDoor k level s), ?_⟩
  · let others (v x : State) : State := { x with
      ports := v.ports, doors := v.doors, calling := v.calling, displays := v.displays, clear := v.clear, mode := v.mode
      wakeRecord := v.wakeRecord, wakeCause := v.wakeCause, reports := v.reports, bus := v.bus }
    exact finishEvent_others others (fun _ => rfl) (fun _ _ _ _ => rfl) fun v =>
      (announceWake_unseen _ (others v) fun _ _ => rfl).trans
        ((changeDoor_unseen k level _ (others v) fun _ _ _ _ _ _ => rfl).trans
          (leaveStabling_unseen _ _ (others v) fun _ _ _ _ _ _ => rfl))
  · have hnotices : clearNotices s (finishEvent (announceWake (wokenByDoor k level s))) = clearNotices s (wokenByDoor k level s) := by
      unfold clearNotices
      rw [hclear]
    rw [hnotices]
    refine Reported.congr (hraised.finish hcalm.2) (fun n => ?_) fun r => mem_wokenRecords
    simp only [List.nil_append, List.mem_append, List.mem_cons, List.not_mem_nil, or_false, or_assoc]
    rw [or_left_comm (a := n = .door)]

end Sys2Proof.Proofs
end

section
/-! SET DOOR POLICY (R128, R129): its check, and the doors under the policy it gives. -/

namespace Sys2Proof.Machine

open Safety

-- The proofs are elaborated in order: side by side, each would hold a thread of its own, and its memory.
set_option Elab.async false

/-! ## The body (R128) -/

section Body
variable (body : List Byte)

/-- The mask of a policy: what the body gives (section 12.3). -/
def policyMask : Nat :=
  bodyByte body 0 + 256 * bodyByte body 1 + 65536 * bodyByte body 2 + 16777216 * bodyByte body 3

theorem field_policyMask : field body 0 4 = policyMask body := by
  rw [field_succ, field_succ, field_two, policyMask]
  ring

/-- The dwell of a door as the body gives it, in milliseconds. -/
def policyMillis (k : DoorId) : Nat := bodyByte body (8 + 2 * k.val) + 256 * bodyByte body (9 + 2 * k.val)

theorem field_policyMillis (k : DoorId) : field body (8 + 2 * k.val) 2 = policyMillis body k := by
  rw [field_two, policyMillis, show 8 + 2 * k.val + 1 = 9 + 2 * k.val by omega]

theorem policyRanges_iff : policyRanges body = true ↔
    ((policyMask body).testBit 0 = true → bodyByte body 4 ≤ 250) ∧
    ∀ k : DoorId, (policyMask body).testBit (9 + k.val) = true → 200 ≤ policyMillis body k ∧ policyMillis body k ≤ 5000 := by
  simp only [policyRanges, given, field_policyMask, field_policyMillis, field_one, Bool.and_eq_true, List.all_eq_true,
    List.mem_finRange, true_imp_iff, Bool.or_eq_true, Bool.not_eq_true', decide_eq_true_eq, ← Bool.not_eq_true]
  simp only [← imp_iff_not_or]

theorem policyDebounce_eq (kept : Nat) :
    policyDebounce body kept = if (policyMask body).testBit 0 then 1000 * bodyByte body 4 else kept := by
  rw [policyDebounce, field_policyMask, field_one, Nat.mul_comm]
  rfl

theorem policyIsolated_eq (k : DoorId) (kept : Bool) :
    policyIsolated body k kept =
      if (policyMask body).testBit (1 + k.val) then (bodyByte body 5).testBit k.val else kept := by
  rw [policyIsolated, field_policyMask, field_one]
  rfl

theorem policyDwell_eq (k : DoorId) (kept : Nat) :
    policyDwell body k kept = if (policyMask body).testBit (9 + k.val) then 1000 * policyMillis body k else kept := by
  rw [policyDwell, field_policyMask, field_policyMillis, Nat.mul_comm]
  rfl

end Body

/-! ## The doors (R129) -/

/-- The state of a door under a dwell: ASSURED is VIEWING again where a changed dwell has not elapsed. -/
def policyState (r : Door) (dwell : Nat) (clock : Stamp) : DoorState :=
  match r.state with
  | .assured t => if dwell ≠ r.dwell ∧ since clock t < dwell then .viewing t else .assured t
  | .shut => .shut
  | .opened => .opened
  | .viewing t => .viewing t

theorem policy_eq (r : Door) (isolated : Bool) (dwell : Nat) (clock : Stamp) :
    r.policy isolated dwell clock = { r with isolated, dwell, state := policyState r dwell clock } := by
  obtain ⟨raw, timer, level, state, isolated', dwell', opened, lapses, lastView⟩ := r
  unfold Door.policy policyState
  cases state with
  | assured t =>
    dsimp only
    split <;> rfl
  | shut => rfl
  | opened => rfl
  | viewing t => rfl

section Policy
variable {s : State} {b : InHand} {c : Chain}

/-- The doors and the debounce time under a policy, before anything follows them. -/
def policyGiven (body : List Byte) (s : State) : State :=
  { s with
    debounce := policyDebounce body s.debounce
    doors := Vector.ofFn fun k =>
      (s.doors[k]).policy (policyIsolated body k s.doors[k].isolated) (policyDwell body k s.doors[k].dwell) s.clock }

theorem setDoorPolicy_eq (body : List Byte) (s : State) : setDoorPolicy body s = doorsChanged s.doors (policyGiven body s) := rfl

theorem policyGiven_door (body : List Byte) (s : State) (k : DoorId) :
    (policyGiven body s).doors[k] =
      (s.doors[k]).policy (policyIsolated body k s.doors[k].isolated) (policyDwell body k s.doors[k].dwell) s.clock :=
  getElem_ofFn_fin _ k

theorem setDoorPolicy_doors (body : List Byte) (s : State) : (setDoorPolicy body s).doors = (policyGiven body s).doors := by
  simp [setDoorPolicy_eq]

theorem sidesFollow_setDoorPolicy (body : List Byte) (s : State) : SidesFollow s (setDoorPolicy body s) :=
  sidesFollow_doorsChanged _ rfl rfl rfl rfl

/-- A policy is reported as a change of doors: it leaves every line and timer (R143). -/
theorem Raised.setDoorPolicy (h : Raised s s [] []) (body : List Byte) :
    let t := Machine.setDoorPolicy body s
    Raised s t (doorNotices s t ++ clearNotices s t) (doorRecords s t ++ clearRecords s t) := by
  have hlines (k : DoorId) : (policyGiven body s).doors[k].raw = s.doors[k].raw ∧
      (policyGiven body s).doors[k].timer = s.doors[k].timer := by
    rw [policyGiven_door, policy_eq]
    exact ⟨rfl, rfl⟩
  have hgiven : Raised s (policyGiven body s) [] [] := h.step rfl rfl rfl
  have hall := hgiven.doorsChanged (s := s) rfl hlines
  rw [setDoorPolicy_eq]
  simpa only [List.nil_append] using hall

/-! ## The block, check by check -/

theorem actSetDoorPolicy_badLength (hl : b.body.length ≠ 24) : actSetDoorPolicy b s = (s, .failed .badValue 255) := if_pos hl

theorem actSetDoorPolicy_eq (hl : b.body.length = 24) :
    actSetDoorPolicy b s =
      if policyRanges b.body = true then (setDoorPolicy b.body s, .done) else (s, .failed .badValue 0) :=
  if_neg (not_not.mpr hl)

end Policy

end Sys2Proof.Machine

namespace Sys2Proof.Proofs

open Sys2Proof Sys2Proof.Machine Sys2Proof.Safety

-- The proofs are elaborated in order: side by side, each would hold a thread of its own, and its memory.
set_option Elab.async false

/-- Settles O54: the checks (`policyRanges_iff`), then each door under its policy (`policy_eq`), with what follows a change of
doors. -/
theorem setDoorPolicyTakesPolicy : Obligations.SetDoorPolicyTakesPolicy := by
  unfold Obligations.SetDoorPolicyTakesPolicy
  intro s c b r mask millis dwell inRange hb
  have hranges : policyRanges b.body = true ↔ inRange := policyRanges_iff b.body
  refine ⟨fun hl => onlyEnds_of_act (fun _ => rfl) hb (actSetDoorPolicy_badLength hl), fun hl hn => ?_, fun hl hr => ?_⟩
  · exact onlyEnds_of_act (fun _ => rfl) hb ((actSetDoorPolicy_eq hl).trans (if_neg (mt hranges.1 hn)))
  · have ha : actSetDoorPolicy b s = (setDoorPolicy b.body s, .done) := (actSetDoorPolicy_eq hl).trans (if_pos (hranges.2 hr))
    obtain ⟨hexec, hdone⟩ := lane0Block_ends hb ha ((Raised.calm (calm_of_blockInHand hb)).setDoorPolicy b.body) (by simp) (by simp)
    have hdoors : (finishEvent (endBlock 0 c b.notify b.haltOnFail b.next .done (setDoorPolicy b.body s))).doors =
        (setDoorPolicy b.body s).doors := by simp
    have hclear : (finishEvent (endBlock 0 c b.notify b.haltOnFail b.next .done (setDoorPolicy b.body s))).clear =
        (setDoorPolicy b.body s).clear := by simp
    refine ⟨_, hexec, ?_, fun k => ?_, sidesFollow_congr (sidesFollow_setDoorPolicy b.body s), ?_⟩
    · let others (v x : State) : State := { x with
        doors := v.doors, calling := v.calling, displays := v.displays, clear := v.clear, lanes := v.lanes, reports := v.reports
        bus := v.bus }
      have hleft := finishEvent_others (s := { s with debounce := policyDebounce b.body s.debounce })
        (u := endBlock 0 c b.notify b.haltOnFail b.next .done (setDoorPolicy b.body s)) others (fun _ => rfl) (fun _ _ _ _ => rfl)
        fun v => (endBlock_unseen 0 c b.notify b.haltOnFail b.next .done _ (others v) fun _ _ _ _ => rfl).trans
          (doorsChanged_unseen _ _ (others v) fun _ _ _ _ _ => rfl)
      rw [policyDebounce_eq] at hleft
      exact hleft
    · rw [hdoors, setDoorPolicy_doors, policyGiven_door, policy_eq, policyIsolated_eq, policyDwell_eq]
      rfl
    · unfold doorNotices clearNotices doorRecords clearRecords at hdone ⊢
      rw [hdoors, hclear]
      exact hdone

end Sys2Proof.Proofs
end

section
/-! What becomes of a lane: where the walk, an ending, a fault and a halt leave it (R163, R166, R168 to R170). -/

namespace Sys2Proof.Machine

open Safety

-- The proofs are elaborated in order: side by side, each would hold a thread of its own, and its memory.
set_option Elab.async false

/-! ## The block in hand -/

theorem inHand_eq_some {s : State} {l : LaneId} {c : Chain} {b : InHand} :
    inHand s l = some (c, b) ↔ s.lanes[l].state = .running c ∧ c.phase = .taken b := by
  unfold inHand
  cases s.lanes[l].state with
  | idle => simp
  | faulted => simp
  | running k =>
    dsimp only
    cases hk : k.phase with
    | taken _ =>
      simp only [Option.some.injEq, Prod.mk.injEq, LaneState.running.injEq]
      constructor
      · rintro ⟨rfl, rfl⟩
        exact ⟨rfl, hk⟩
      · rintro ⟨rfl, hb⟩
        exact ⟨rfl, LanePhase.taken.inj (hk.symm.trans hb)⟩
    | reach => simp +contextual [hk, eq_comm]
    | skip => simp +contextual [hk, eq_comm]

theorem inHand_congr {s t : State} {l : LaneId} (h : t.lanes[l].state = s.lanes[l].state) : inHand t l = inHand s l := by
  unfold inHand
  rw [h]

theorem chainIn_eq_some {s : State} {l : LaneId} {phase : LanePhase} {c : Chain} (h : chainIn s l phase = some c) :
    s.lanes[l].state = .running c ∧ c.phase = phase := by
  unfold chainIn at h
  cases hl : s.lanes[l].state with
  | idle => rw [hl] at h; cases h
  | faulted => rw [hl] at h; cases h
  | running k =>
    rw [hl] at h
    dsimp only at h
    split at h
    · rename_i hk
      cases h
      exact ⟨rfl, hk⟩
    · cases h

/-! ## A lane between two blocks -/

/-- A lane with no block in hand and no halt that waits, its queue and its chain position in range (R166). -/
structure LaneSettled (v : Lane) : Prop where
  queue : v.queue.length ≤ 4
  halting : v.halting = none
  walks : ∀ c, v.state = .running c → c.position ≤ 256 ∧ ∀ b, c.phase ≠ .taken b

section Lane
variable {v : Lane}

theorem LaneSettled.not_running (hq : v.queue.length ≤ 4) (hh : v.halting = none) (hs : ∀ c, v.state ≠ .running c) :
    LaneSettled v := ⟨hq, hh, fun c hc => absurd hc (hs c)⟩

theorem laneSettled_laneFree (hq : v.queue.length ≤ 4) (hh : v.halting = none) : LaneSettled (laneFree v) := by
  unfold laneFree
  split
  · exact LaneSettled.not_running hq hh fun c hc => nomatch hc
  · rename_i h rest hv
    rw [hv, List.length_cons] at hq
    refine ⟨Nat.le_of_succ_le hq, hh, fun c hc => ?_⟩
    cases hc
    exact ⟨Nat.zero_le _, fun b hb => nomatch hb⟩

theorem laneSettled_laneHalted (hq : v.queue.length ≤ 4) (h : Halt) : LaneSettled (laneHalted v h) := laneSettled_laneFree hq rfl

theorem laneSettled_laneBroken (hq : v.queue.length ≤ 4) : LaneSettled (laneBroken v) := by
  unfold laneBroken
  split
  · rename_i hh
    exact LaneSettled.not_running hq hh fun c hc => nomatch hc
  · exact laneSettled_laneHalted hq _

/-- No chain goes on past its 256th block: the ending of the 257th is CHAIN_TOO_LONG (R169). -/
def GoesOnInRange (c : Chain) (e : Ending) : Prop := c.position ≤ 256 ∨ ∃ n, e = .failed .chainTooLong n

variable {c : Chain} {hof : Bool} {next : Word} {e : Ending}

theorem laneSettled_running {phase : LanePhase} (hq : v.queue.length ≤ 4) (hh : v.halting = none) (hc : c.position ≤ 256)
    (hp : ∀ b, phase ≠ .taken b) : LaneSettled { v with state := .running { c with block := next, phase } } := by
  refine ⟨hq, hh, fun k hk => ?_⟩
  cases hk
  exact ⟨hc, hp⟩

theorem laneSettled_laneAfter (hq : v.queue.length ≤ 4) (hh : v.halting = none) (hc : GoesOnInRange c e) :
    LaneSettled (laneAfter v c hof next e) := by
  cases e with
  | done =>
    have hc : c.position ≤ 256 := hc.resolve_right fun ⟨n, hn⟩ => nomatch hn
    simp only [laneAfter]
    split
    · exact laneSettled_laneFree (v := { v with done := v.done + 1 }) hq hh
    · exact laneSettled_running (v := { v with done := v.done + 1 }) hq hh hc fun b hb => nomatch hb
  | skipped =>
    have hc : c.position ≤ 256 := hc.resolve_right fun ⟨n, hn⟩ => nomatch hn
    simp only [laneAfter]
    split
    · exact laneSettled_laneFree (v := { v with skipped := v.skipped + 1 }) hq hh
    · exact laneSettled_running (v := { v with skipped := v.skipped + 1 }) hq hh hc fun b hb => nomatch hb
  | failed r n =>
    simp only [laneAfter]
    split
    · exact laneSettled_laneFree (v := { v with failed := v.failed + 1 }) hq hh
    · rename_i hr
      have hc : c.position ≤ 256 := hc.resolve_right fun ⟨m, hm⟩ => hr (.inr (by cases hm; rfl))
      refine laneSettled_running (v := { v with failed := v.failed + 1 }) hq hh hc fun b hb => ?_
      cases hof <;> cases hb

theorem laneSettled_laneLeft (hq : v.queue.length ≤ 4) (hc : GoesOnInRange c e) : LaneSettled (laneLeft v c hof next e) := by
  unfold laneLeft
  cases hh : v.halting with
  | none => exact laneSettled_laneAfter hq hh hc
  | some h =>
    cases e with
    | done => exact laneSettled_laneHalted (v := { v with done := v.done + 1, halting := some h }) hq h
    | failed => exact laneSettled_laneHalted (v := { v with failed := v.failed + 1, halting := some h }) hq h
    | skipped => exact laneSettled_laneHalted (v := { v with skipped := v.skipped + 1, halting := some h }) hq h

end Lane

/-! ## The lane after an operation -/

/-- From `s` to `t` a lane has come to stand between two blocks, and the other lane has not moved. -/
def Settles (l : LaneId) (s t : State) : Prop := ∃ v, LaneSettled v ∧ t.lanes = s.lanes.set l v

/-- What the lane was before does not matter. -/
theorem Settles.of_moved {l : LaneId} {s u t : State} {w : Lane} (h : Settles l u t) (hu : u.lanes = s.lanes.set l w) :
    Settles l s t := by
  obtain ⟨v, hv, ht⟩ := h
  exact ⟨v, hv, by rw [ht, hu, Vector.set_set]⟩

theorem Settles.congr {l : LaneId} {s u t : State} (h : Settles l s u) (ht : t.lanes = u.lanes) : Settles l s t := by
  obtain ⟨v, hv, hu⟩ := h
  exact ⟨v, hv, ht.trans hu⟩

theorem laneFault_lanes (l : LaneId) (cause : FaultCause) (offset : Word) (s : State) :
    (laneFault l cause offset s).lanes = s.lanes.set l (laneBroken s.lanes[l]) := by
  have hrecorded : (recordFault cause (some l) offset.toNat s).lanes = s.lanes := by simp
  unfold laneFault laneBroken
  dsimp only
  simp only [updateLane_lanes, getElem_setLane, hrecorded]
  cases s.lanes[l].halting with
  | none => simp only [updateLane_lanes, hrecorded]
  | some h =>
    simp only [stopLane_lanes, updateLane_lanes, getElem_setLane, hrecorded, Vector.set_set]
    rfl

/-- A lane that ends a block goes on, or is FAULTED where the ending cannot be written (R169, R170). -/
theorem endBlock_lanes (l : LaneId) (c : Chain) (notify hof : Bool) (next : Word) (e : Ending) (s : State) :
    (endBlock l c notify hof next e s).lanes = s.lanes.set l (laneLeft s.lanes[l] c hof next e) ∨
    (endBlock l c notify hof next e s).lanes = s.lanes.set l (laneBroken s.lanes[l]) := by
  unfold endBlock
  split
  · refine .inl ((advance_lanes l c hof next e s.lanes[l] _ (by simp)).trans ?_)
    simp
  · exact .inr (laneFault_lanes _ _ _ _)

section Ops
variable {s : State} {l : LaneId} {c : Chain} {e : Ending}

theorem settles_stopLane (hq : s.lanes[l].queue.length ≤ 4) (h : Halt) : Settles l s (stopLane l h s) :=
  ⟨_, laneSettled_laneHalted hq h, stopLane_lanes l h s⟩

theorem settles_laneFault (hq : s.lanes[l].queue.length ≤ 4) (cause : FaultCause) (offset : Word) :
    Settles l s (laneFault l cause offset s) := ⟨_, laneSettled_laneBroken hq, laneFault_lanes l cause offset s⟩

/-- The link has moved on before the fault. -/
theorem settles_laneFault_setBus (hq : s.lanes[l].queue.length ≤ 4) (cause : FaultCause) (offset : Word) (bus : Bus) :
    Settles l s (laneFault l cause offset (s.setBus bus)) :=
  ⟨_, laneSettled_laneBroken hq, laneFault_lanes l cause offset (s.setBus bus)⟩

theorem settles_advance (hq : s.lanes[l].queue.length ≤ 4) (hof : Bool) (next : Word) (hc : GoesOnInRange c .skipped) :
    Settles l s (advance l c hof next .skipped s) := by
  refine ⟨_, laneSettled_laneLeft (v := { s.lanes[l] with skipped := s.lanes[l].skipped - 1 }) hq hc,
    advance_lanes l c hof next .skipped _ s ?_⟩
  simp [Lane.count]

theorem settles_endBlock (hq : s.lanes[l].queue.length ≤ 4) (hc : GoesOnInRange c e) (notify hof : Bool) (next : Word) :
    Settles l s (endBlock l c notify hof next e s) := by
  rcases endBlock_lanes l c notify hof next e s with h | h
  · exact ⟨_, laneSettled_laneLeft hq hc, h⟩
  · exact ⟨_, laneSettled_laneBroken hq, h⟩

end Ops

/-! ## A halt (R163, R164) -/

/-- A lane whose queue a halt has discarded, the halt waiting for its safe point. -/
def laneHalting (v : Lane) (h : Halt) : Lane := { v with queue := [], halting := some (Halt.merge v.halting h) }

/-- The part with that lane. -/
def haltMarked (l : LaneId) (h : Halt) (s : State) : State :=
  let u := updateLane l { s.lanes[l] with queue := [] } s
  updateLane l { u.lanes[l] with halting := some (Halt.merge s.lanes[l].halting h) } u

section Halt
variable {s : State} {l : LaneId} {c : Chain} {b : InHand} (h : Halt)

theorem haltMarked_lanes (l : LaneId) (s : State) : (haltMarked l h s).lanes = s.lanes.set l (laneHalting s.lanes[l] h) := by
  simp only [haltMarked, updateLane_lanes, getElem_setLane, Vector.set_set]
  rfl

theorem haltMarked_lane (l : LaneId) (s : State) : (haltMarked l h s).lanes[l] = laneHalting s.lanes[l] h := by
  rw [haltMarked_lanes, getElem_setLane]

theorem haltMarked_lane_at (l i : LaneId) (s : State) :
    (haltMarked l h s).lanes[i] = if l = i then laneHalting s.lanes[l] h else s.lanes[i] := by
  rw [haltMarked_lanes, getElem_set_fin]

theorem haltMarked_unseen (l : LaneId) (s : State) {α : Type} (f : State → α)
    (hf : ∀ s l r, f { s with lanes := l, reports := r } = f s) : f (haltMarked l h s) = f s :=
  (updateLane_unseen l _ _ f hf).trans (updateLane_unseen l _ s f hf)

theorem haltMarked_desk (l : LaneId) (s : State) :
    (haltMarked l h s).clock = s.clock ∧ (haltMarked l h s).store = s.store ∧ (haltMarked l h s).window = s.window ∧
    (haltMarked l h s).mover = s.mover := by simp [haltMarked]

theorem inHand_haltMarked (l k : LaneId) (s : State) : inHand (haltMarked l h s) k = inHand s k := by
  refine inHand_congr ?_
  rw [haltMarked_lanes, getElem_set_fin]
  split
  · rename_i hk
    subst hk
    rfl
  · rfl

theorem haltLane_of_none (hin : inHand s l = none) :
    haltLane l h s = stopLane l (Halt.merge s.lanes[l].halting h) (updateLane l { s.lanes[l] with queue := [] } s) := by
  unfold haltLane
  rw [hin]

theorem haltLane_of_allRows (hin : inHand s l = some (c, b)) (hr : l = 1 ∧ s.mover.allRows = true) :
    haltLane l h s = haltMarked l h s := by
  unfold haltLane
  rw [hin]
  exact if_pos hr

theorem haltLane_of_export (hin : inHand s 1 = some (c, b)) (hr : s.mover.allRows = false) (hm : s.mover ≠ .idle) :
    haltLane 1 h s = endExport (.failed .aborted 0) (haltMarked 1 h s) := by
  unfold haltLane
  rw [hin]
  dsimp only
  rw [if_neg (by simp [hr]), if_pos ⟨rfl, hm⟩]
  rfl

theorem haltLane_of_block (hin : inHand s l = some (c, b)) (hm : l = 0 ∨ s.mover = .idle) :
    haltLane l h s = endBlock l c b.notify b.haltOnFail b.next (.failed .aborted 0) (haltMarked l h s) := by
  have hne : ¬ (l = 1 ∧ s.mover ≠ .idle) := by
    rintro ⟨rfl, hne⟩
    exact hm.elim (fun h0 => absurd h0 (by decide)) hne
  have hr : ¬ (l = 1 ∧ s.mover.allRows = true) := by
    rintro ⟨rfl, hr⟩
    refine hne ⟨rfl, fun hidle => ?_⟩
    rw [hidle] at hr
    cases hr
  unfold haltLane
  rw [hin]
  dsimp only
  rw [if_neg hr, if_neg hne]
  rfl

end Halt

end Sys2Proof.Machine
end

section
/-! The lanes, the blocks in hand, the halts that wait and the Export record as one invariant of the part (R145, R154, R163, R166,
R168), and how each operation of the lanes and of the Export Mover keeps it. -/

namespace Sys2Proof.Machine

open Safety

-- The proofs are elaborated in order: side by side, each would hold a thread of its own, and its memory.
set_option Elab.async false

/-- A lane's queue and chain position are in range, and a block it has in hand stands where R168 lets it. -/
structure LaneFits (s : State) (v : Lane) : Prop where
  queue : v.queue.length ≤ 4
  position : ∀ c, v.state = .running c → c.position ≤ 256
  placed : ∀ c b, v.state = .running c → c.phase = .taken b → Placed s c.block

/-- The lanes fit, a halt waits on lane 1 alone and behind an Export whose rows are all written, and the Export record is IDLE where
lane 1 has no block in hand. -/
structure LanesCoherent (s : State) : Prop where
  fits : ∀ l : LaneId, LaneFits s s.lanes[l]
  control : s.lanes[(0 : LaneId)].halting = none
  waits : s.lanes[(1 : LaneId)].halting ≠ none → s.mover.allRows = true
  mover : s.mover ≠ .idle → (inHand s 1).isSome = true

theorem lane_eq (l : LaneId) : l = 0 ∨ l = 1 := by
  revert l
  decide

theorem ne_idle_of_allRows {m : Export} (h : m.allRows = true) : m ≠ .idle := by
  rintro rfl
  cases h

theorem lanesCoherent_iff (s : State) :
    LanesCoherent s ↔ LanesInRange s ∧ BlocksPlaced s ∧ HaltsSettled s ∧ MoverHasBlock s := by
  constructor
  · rintro ⟨hfits, hcontrol, hwaits, hmover⟩
    refine ⟨fun l => ⟨(hfits l).queue, (hfits l).position⟩, fun l c b hin => ?_, ⟨hcontrol, fun hh => ?_⟩, hmover⟩
    · obtain ⟨hc, hb⟩ := inHand_eq_some.1 hin
      exact (hfits l).placed c b hc hb
    · exact ⟨hwaits hh, hmover (ne_idle_of_allRows (hwaits hh))⟩
  · rintro ⟨hrange, hplaced, ⟨hcontrol, hwaits⟩, hmover⟩
    refine ⟨fun l => ?_, hcontrol, fun hh => (hwaits hh).1, hmover⟩
    obtain ⟨hqueue, hposition⟩ := hrange l
    exact ⟨hqueue, hposition, fun c b hc hb => hplaced l c b (inHand_eq_some.2 ⟨hc, hb⟩)⟩

theorem LaneSettled.fits {v : Lane} (h : LaneSettled v) (s : State) : LaneFits s v :=
  ⟨h.queue, fun c hc => (h.walks c hc).1, fun c b hc hb => absurd hb ((h.walks c hc).2 b)⟩

theorem placed_congr {s t : State} (h : t.window.areaSize = s.window.areaSize) {block : Word} (hp : Placed s block) :
    Placed t block := by
  unfold Placed areaBytes at hp ⊢
  rw [h]
  exact hp

theorem LaneFits.congr {s t : State} {v : Lane} (h : LaneFits s v) (area : t.window.areaSize = s.window.areaSize) :
    LaneFits t v := ⟨h.queue, h.position, fun c b hc hb => placed_congr area (h.placed c b hc hb)⟩

section Frame
variable {s t : State}

/-- The invariant reads the lanes, the Export record and the size of the work area. -/
theorem LanesCoherent.of (h : LanesCoherent s) (lanes : t.lanes = s.lanes := by simp) (mover : t.mover = s.mover := by simp)
    (area : t.window.areaSize = s.window.areaSize := by simp) : LanesCoherent t := by
  obtain ⟨hfits, hcontrol, hwaits, hmover⟩ := h
  have hin : inHand t 1 = inHand s 1 := inHand_congr (by rw [lanes])
  exact ⟨fun l => by rw [lanes]; exact (hfits l).congr area, by rw [lanes]; exact hcontrol, by rw [lanes, mover]; exact hwaits,
    by rw [hin, mover]; exact hmover⟩

/-- Without a block in hand of lane 1 there is no Export. -/
theorem LanesCoherent.mover_idle (h : LanesCoherent s) (hin : inHand s 1 = none) : s.mover = .idle := by
  by_contra hm
  have hb := h.mover hm
  rw [hin] at hb
  cases hb

/-- No halt waits before the last row of an Export is written. -/
theorem LanesCoherent.no_halt (h : LanesCoherent s) (hm : s.mover.allRows = false) (l : LaneId) : s.lanes[l].halting = none := by
  match l with
  | 0 => exact h.control
  | 1 =>
    by_contra hh
    rw [h.waits hh] at hm
    cases hm

/-- Between two blocks a lane has no halt that waits. -/
theorem LanesCoherent.no_halt_between (h : LanesCoherent s) {l : LaneId} (hin : inHand s l = none) :
    s.lanes[l].halting = none := by
  match l, hin with
  | 0, _ => exact h.control
  | 1, hin => exact h.no_halt (by rw [h.mover_idle hin]; rfl) 1

/-- A lane comes to stand between two blocks; where it is lane 1, no Export goes on. -/
theorem LanesCoherent.settles (h : LanesCoherent s) {l : LaneId} (hl : Settles l s t)
    (mover : l = 1 ∧ t.mover = .idle ∨ l = 0 ∧ t.mover = s.mover)
    (area : t.window.areaSize = s.window.areaSize := by simp) : LanesCoherent t := by
  obtain ⟨hfits, hcontrol, hwaits, hmover⟩ := h
  obtain ⟨v, hv, ht⟩ := hl
  have lane (k : LaneId) : t.lanes[k] = if l = k then v else s.lanes[k] := by rw [ht, getElem_set_fin]
  have fits (k : LaneId) : LaneFits t t.lanes[k] := by
    rw [lane]
    split
    · exact hv.fits t
    · exact (hfits k).congr area
  rcases mover with ⟨rfl, hidle⟩ | ⟨rfl, hsame⟩
  · have hone : t.lanes[(1 : LaneId)].halting = none := by rw [lane, if_pos rfl]; exact hv.halting
    have hzero : t.lanes[(0 : LaneId)].halting = none := by rw [lane, if_neg (by decide)]; exact hcontrol
    exact ⟨fits, hzero, fun hh => absurd hone hh, fun hm => absurd hidle hm⟩
  · have hone : t.lanes[(1 : LaneId)] = s.lanes[(1 : LaneId)] := by rw [lane, if_neg (by decide)]
    have hzero : t.lanes[(0 : LaneId)].halting = none := by rw [lane, if_pos rfl]; exact hv.halting
    have hin : inHand t 1 = inHand s 1 := inHand_congr (by rw [hone])
    exact ⟨fits, hzero, by rw [hone, hsame]; exact hwaits, by rw [hin, hsame]; exact hmover⟩

/-- Between two blocks lane 1 has no Export going on. -/
theorem LanesCoherent.between (h : LanesCoherent s) {l : LaneId} (hin : inHand s l = none) (mover : t.mover = s.mover) :
    l = 1 ∧ t.mover = .idle ∨ l = 0 ∧ t.mover = s.mover := by
  match l, hin with
  | 0, _ => exact .inr ⟨rfl, mover⟩
  | 1, hin => exact .inl ⟨rfl, mover.trans (h.mover_idle hin)⟩

/-- A lane changes with no other halt waiting, its block in hand as it was. -/
theorem LanesCoherent.setLane (h : LanesCoherent s) (l : LaneId) {v : Lane} (lanes : t.lanes = s.lanes.set l v)
    (hv : LaneFits s v) (hh : v.halting = s.lanes[l].halting) (hb : v.state = s.lanes[l].state)
    (mover : t.mover = s.mover := by simp) (area : t.window.areaSize = s.window.areaSize := by simp) : LanesCoherent t := by
  obtain ⟨hfits, hcontrol, hwaits, hmover⟩ := h
  have lane (k : LaneId) : t.lanes[k] = if l = k then v else s.lanes[k] := by rw [lanes, getElem_set_fin]
  have same (k : LaneId) : t.lanes[k].halting = s.lanes[k].halting ∧ t.lanes[k].state = s.lanes[k].state := by
    rw [lane]
    split
    · rename_i hk
      subst hk
      exact ⟨hh, hb⟩
    · exact ⟨rfl, rfl⟩
  refine ⟨fun k => ?_, by rw [(same 0).1]; exact hcontrol, by rw [(same 1).1, mover]; exact hwaits,
    by rw [inHand_congr (same 1).2, mover]; exact hmover⟩
  rw [lane]
  split
  · exact hv.congr area
  · exact (hfits k).congr area

/-- An Export begins or goes on behind a block in hand of lane 1, with no halt that waits. -/
theorem LanesCoherent.setMover (h : LanesCoherent s) (hh : s.lanes[(1 : LaneId)].halting = none) (hin : (inHand s 1).isSome = true)
    (lanes : t.lanes = s.lanes := by simp) (area : t.window.areaSize = s.window.areaSize := by simp) : LanesCoherent t := by
  obtain ⟨hfits, hcontrol, -, -⟩ := h
  have same : inHand t 1 = inHand s 1 := inHand_congr (by rw [lanes])
  exact ⟨fun l => by rw [lanes]; exact (hfits l).congr area, by rw [lanes]; exact hcontrol,
    by rw [lanes]; exact fun hw => absurd hh hw, fun _ => by rw [same]; exact hin⟩

/-- With both lanes at rest the work area may take any size. -/
theorem LanesCoherent.resize (h : LanesCoherent s) (hrest : ∀ l : LaneId, s.lanes[l].state = .idle)
    (lanes : t.lanes = s.lanes := by simp) (mover : t.mover = s.mover := by simp) : LanesCoherent t := by
  obtain ⟨hfits, hcontrol, hwaits, hmover⟩ := h
  have same : inHand t 1 = inHand s 1 := inHand_congr (by rw [lanes])
  refine ⟨fun l => ⟨by rw [lanes]; exact (hfits l).queue, fun c hc => ?_, fun c b hc => ?_⟩, by rw [lanes]; exact hcontrol,
    by rw [lanes, mover]; exact hwaits, by rw [same, mover]; exact hmover⟩
  · rw [lanes, hrest l] at hc
    cases hc
  · rw [lanes, hrest l] at hc
    cases hc

/-- After a reset both lanes are IDLE and no Export goes on. -/
theorem lanesCoherent_fresh (lanes : t.lanes = Vector.replicate 2 {}) (mover : t.mover = .idle) : LanesCoherent t := by
  have lane (l : LaneId) : t.lanes[l] = {} := by rw [lanes, getElem_replicate_fin]
  refine ⟨fun l => ?_, by rw [lane], fun hh => absurd (by rw [lane]) hh, fun hm => absurd mover hm⟩
  rw [lane]
  exact (LaneSettled.not_running (v := {}) (Nat.zero_le _) rfl fun c hc => nomatch hc).fits t

end Frame

variable {s : State}

theorem LanesCoherent.finish (h : LanesCoherent s) : LanesCoherent (finishEvent s) := h.of

/-! ## The end of a block, and of an Export (R145, R152, R153, R169) -/

/-- The block in hand of lane 0 ends. -/
theorem LanesCoherent.endBlock (h : LanesCoherent s) {c : Chain} (hc : c.position ≤ 256) (notify hof : Bool) (next : Word)
    (e : Ending) : LanesCoherent (endBlock 0 c notify hof next e s) :=
  h.settles (settles_endBlock (h.fits 0).queue (.inl hc) notify hof next) (.inr ⟨rfl, by simp⟩)

/-- With no block in hand of lane 1 the Export record is IDLE already. -/
theorem LanesCoherent.dropExport (h : LanesCoherent s) (hin : inHand s 1 = none) : LanesCoherent (dropExport s) :=
  h.of (mover := (h.mover_idle hin).symm)

theorem settles_endExport {c : Chain} {b : InHand} (hin : inHand s 1 = some (c, b)) (hq : s.lanes[(1 : LaneId)].queue.length ≤ 4)
    (hc : c.position ≤ 256) (e : Ending) : Settles 1 s (endExport e s) := by
  rw [endExport_eq hin]
  exact settles_endBlock (s := Machine.dropExport s) hq (.inl hc) b.notify b.haltOnFail b.next

theorem LanesCoherent.endExport (h : LanesCoherent s) (e : Ending) : LanesCoherent (endExport e s) := by
  rcases hin : inHand s 1 with _ | ⟨c, b⟩
  · have hdrop : Machine.endExport e s = Machine.dropExport s := by
      unfold Machine.endExport
      rw [hin]
    rw [hdrop]
    exact h.dropExport hin
  · have hc : c.position ≤ 256 := (h.fits 1).position c (running_of_inHand hin)
    exact h.settles (settles_endExport hin (h.fits 1).queue hc e) (.inl ⟨rfl, endExport_mover e s⟩)

theorem settles_faultLane1 (hq : s.lanes[(1 : LaneId)].queue.length ≤ 4) : Settles 1 s (faultLane1 s) :=
  ⟨_, laneSettled_laneBroken hq, faultLane1_lanes s⟩

/-- A host write error of an Export leaves lane 1 FAULTED, or stopped by a halt that waited (R153, R163). -/
theorem settles_exportWriteError {c : Chain} {b : InHand} (hin : inHand s 1 = some (c, b))
    (hq : s.lanes[(1 : LaneId)].queue.length ≤ 4) : Settles 1 s (exportWriteError s) := by
  have hlanes : (exportFaulted c s).lanes = s.lanes := by simp [exportFaulted]
  rcases hw : writeEnding (exportFaulted c s) c.block (.failed .hostWrite 0) with ⟨bus, _ | _⟩
  · rw [exportWriteError_uncounted hin hw]
    have hsame : (recordFault .hostWrite (some 1) c.block.toNat ((exportFaulted c s).setBus bus)).lanes = s.lanes := by
      simp [hlanes]
    obtain ⟨v, hv, ht⟩ := settles_faultLane1 (by rw [hsame]; exact hq)
    exact ⟨v, hv, by rw [ht, hsame]⟩
  · rw [exportWriteError_counted hin hw]
    have hcount : (countEnding 1 b.notify (.failed .hostWrite 0) ((exportFaulted c s).setBus bus)).lanes =
        s.lanes.set (1 : LaneId) (s.lanes[(1 : LaneId)].count (.failed .hostWrite 0)) := by simp [hlanes]
    exact (settles_faultLane1 (by rw [hcount, getElem_setLane]; exact hq)).of_moved hcount

theorem LanesCoherent.exportWriteError (h : LanesCoherent s) : LanesCoherent (exportWriteError s) := by
  rcases hin : inHand s 1 with _ | ⟨c, b⟩
  · have hdrop : Machine.exportWriteError s = Machine.dropExport s := by
      unfold Machine.exportWriteError
      rw [hin]
    rw [hdrop]
    exact h.dropExport hin
  · exact h.settles (settles_exportWriteError hin (h.fits 1).queue) (.inl ⟨rfl, (exportWriteError_lets_go hin).2⟩)

theorem LanesCoherent.completeExport (h : LanesCoherent s) (count : Nat) (stamp : Stamp) (width height : Nat) :
    LanesCoherent (completeExport count stamp width height s) := by
  unfold Machine.completeExport
  split
  · exact (h.of (t := s.setBus _)).endExport _
  · exact (h.of (t := s.setBus _)).exportWriteError

theorem LanesCoherent.exportAtStart (h : LanesCoherent s) (d : DisplayId) : LanesCoherent (exportAtStart d s) := by
  unfold Machine.exportAtStart
  split
  · rename_i e ops hm
    split
    · dsimp only
      split
      · split
        · exact h.endExport _
        · exact h.setMover (h.no_halt (by rw [hm]; rfl) 1) (h.mover (by rw [hm]; exact Export.noConfusion)) rfl rfl
      · exact h.endExport _
    · exact h
  · exact h
  · exact h
  · exact h

theorem LanesCoherent.exportAtEnd (h : LanesCoherent s) (d : DisplayId) : LanesCoherent (exportAtEnd d s) := by
  unfold Machine.exportAtEnd
  split
  · split
    · exact h.completeExport _ _ _ _
    · exact h
  · exact h
  · exact h
  · exact h

theorem LanesCoherent.stopForeignExport (h : LanesCoherent s) : LanesCoherent (stopForeignExport s) := by
  unfold Machine.stopForeignExport
  split
  · split
    · exact h
    · exact h.endExport _
  · split
    · exact h
    · exact h.endExport _
  · exact h
  · exact h

theorem LanesCoherent.stopCopying (h : LanesCoherent s) : LanesCoherent (stopCopying s) := by
  unfold Machine.stopCopying
  split
  · exact h.endExport _
  · exact h
  · exact h
  · exact h

/-! ## The take of an Export block (R146, R149) -/

theorem exportInHand_eq_some {k : Kind} {b : InHand} :
    exportInHand s k = some b ↔ s.mover = .idle ∧ (∃ c, inHand s 1 = some (c, b)) ∧ b.kind = k.code := by
  unfold exportInHand
  cases s.mover with
  | idle =>
    rcases inHand s 1 with _ | ⟨c, b1⟩
    · simp
    · dsimp only
      split
      · rename_i hk
        simp only [Option.some.injEq, Prod.mk.injEq, true_and]
        constructor
        · rintro rfl
          exact ⟨⟨c, rfl, rfl⟩, hk⟩
        · rintro ⟨⟨-, -, hb⟩, -⟩
          exact hb
      · rename_i hk
        simp only [reduceCtorEq, Option.some.injEq, Prod.mk.injEq, true_and, false_iff, not_and]
        rintro ⟨-, -, rfl⟩
        exact hk
  | moving => simp
  | waiting => simp
  | copying => simp

/-- The block in hand that an Export begins behind. -/
theorem isSome_of_exportInHand {k : Kind} {b : InHand} (h : exportInHand s k = some b) : (inHand s 1).isSome = true := by
  obtain ⟨-, ⟨c, hin⟩, -⟩ := exportInHand_eq_some.1 h
  rw [hin]
  rfl

section Take
variable (h : LanesCoherent s) (hm : s.mover = .idle) (hin : (inHand s 1).isSome = true)
include h hm hin

/-- An Export begins where there was none. -/
theorem LanesCoherent.beginExport {t : State} (lanes : t.lanes = s.lanes := by simp)
    (area : t.window.areaSize = s.window.areaSize := by simp) : LanesCoherent t :=
  h.setMover (h.no_halt (by rw [hm]; rfl) 1) hin lanes area

theorem LanesCoherent.takeExportFrame (p : PortId) (ops : ExportOperands) : LanesCoherent (takeExportFrame p ops s) := by
  unfold Machine.takeExportFrame
  dsimp only
  split
  · exact h.endExport _
  · split
    · exact h.endExport _
    · rename_i i _
      have hlock : LanesCoherent (lockExport p ops i s) := h.beginExport hm hin
      split
      · exact hlock.endExport _
      · exact hlock

theorem LanesCoherent.takeExportScreen (d : DisplayId) (ops : ExportOperands) : LanesCoherent (takeExportScreen d ops s) := by
  unfold Machine.takeExportScreen
  split
  · split
    · exact h.endExport _
    · exact h.beginExport hm hin rfl rfl
  · exact h.endExport _

end Take

/-! ## Heads and halts (R162 to R164, R166) -/

@[simp] theorem dropWord_areaSize (r : DropReason) (s : State) : (dropWord r s).window.areaSize = s.window.areaSize := rfl

/-- An IDLE lane takes up its oldest head. -/
theorem LanesCoherent.takeUp (h : LanesCoherent s) (l : LaneId) : LanesCoherent (takeUp l s) := by
  by_cases hs : s.lanes[l].state = .idle
  · have hin : inHand s l = none := by
      unfold inHand
      rw [hs]
    exact h.settles ⟨_, laneSettled_laneFree (h.fits l).queue (h.no_halt_between hin), takeUp_lanes l s hs⟩
      (h.between hin (by simp))
  · have hsame : Machine.takeUp l s = s := by
      unfold Machine.takeUp
      dsimp only
      split
      · rename_i hidle _
        exact absurd hidle hs
      · rfl
    rw [hsame]
    exact h

theorem LanesCoherent.appendHead (h : LanesCoherent s) {l : LaneId} (hq : s.lanes[l].queue.length < 4) (head : Word) :
    LanesCoherent (appendHead l head s) := by
  have hfits : LaneFits s { s.lanes[l] with queue := s.lanes[l].queue ++ [head] } :=
    ⟨by rw [List.length_append]; exact hq, (h.fits l).position, (h.fits l).placed⟩
  exact (h.setLane l (t := updateLane l { s.lanes[l] with queue := s.lanes[l].queue ++ [head] } s) (updateLane_lanes _ _ _) hfits rfl
    rfl).takeUp l

theorem LanesCoherent.runChain (h : LanesCoherent s) (w head : Word) : LanesCoherent (runChain w head s) := by
  unfold Machine.runChain
  split
  · exact h.of
  · split
    · exact h.of
    · split
      · exact h.of
      · rename_i l _ _ hq
        have hlanes : (wakePart .runChain s).lanes = s.lanes := by simp
        exact LanesCoherent.appendHead h.of (by rw [hlanes]; exact Nat.lt_of_not_le hq) head

/-- A halt waits behind an Export whose rows are all written (R154). -/
theorem LanesCoherent.haltWaits (h : LanesCoherent s) (k : Halt) (hr : s.mover.allRows = true) : LanesCoherent (haltMarked 1 k s) := by
  obtain ⟨-, -, hwindow, hmover⟩ := haltMarked_desk k 1 s
  have lane := haltMarked_lane_at k 1 (s := s)
  have hin := inHand_haltMarked k 1 1 s
  generalize haltMarked 1 k s = t at hwindow hmover lane hin
  refine ⟨fun i => ?_, ?_, fun _ => by rw [hmover]; exact hr, by rw [hin, hmover]; exact h.mover⟩
  · rw [lane]
    split
    · exact LaneFits.congr ⟨Nat.zero_le _, (h.fits 1).position, (h.fits 1).placed⟩ (by rw [hwindow])
    · exact (h.fits i).congr (by rw [hwindow])
  · rw [lane, if_neg (by decide)]
    exact h.control

theorem LanesCoherent.haltLane (h : LanesCoherent s) (l : LaneId) (k : Halt) : LanesCoherent (haltLane l k s) := by
  rcases hin : inHand s l with _ | ⟨c, b⟩
  · rw [haltLane_of_none k hin]
    have hlanes := updateLane_lanes l { s.lanes[l] with queue := [] } s
    refine h.settles ((settles_stopLane ?_ _).of_moved hlanes) (h.between hin (by simp))
    rw [hlanes, getElem_setLane]
    exact Nat.zero_le _
  · have hc : c.position ≤ 256 := (h.fits l).position c (running_of_inHand hin)
    have hempty : (haltMarked l k s).lanes[l].queue.length ≤ 4 := by
      rw [haltMarked_lane]
      exact Nat.zero_le _
    obtain ⟨-, -, hwindow, hmover⟩ := haltMarked_desk k l s
    by_cases hrows : l = 1 ∧ s.mover.allRows = true
    · obtain ⟨rfl, hr⟩ := hrows
      rw [haltLane_of_allRows k hin ⟨rfl, hr⟩]
      exact h.haltWaits k hr
    · by_cases hm : l = 1 ∧ s.mover ≠ .idle
      · obtain ⟨rfl, hne⟩ := hm
        have hends := settles_endExport ((inHand_haltMarked k 1 1 s).trans hin) hempty hc (.failed .aborted 0)
        rw [haltLane_of_export k hin (Bool.eq_false_iff.2 fun hr => hrows ⟨rfl, hr⟩) hne]
        exact h.settles (hends.of_moved (haltMarked_lanes k 1 s)) (.inl ⟨rfl, endExport_mover _ _⟩) (by simp [hwindow])
      · have hfree : l = 0 ∨ s.mover = .idle := (lane_eq l).imp_right fun h1 => by
          by_contra hne
          exact hm ⟨h1, hne⟩
        rw [haltLane_of_block k hin hfree]
        refine h.settles ((settles_endBlock hempty (.inl hc) _ _ _).of_moved (haltMarked_lanes k l s)) ?_ (by simp [hwindow])
        have hsame : (Machine.endBlock l c b.notify b.haltOnFail b.next (.failed .aborted 0) (haltMarked l k s)).mover = s.mover := by
          simp [hmover]
        rcases hfree with rfl | hidle
        · exact .inr ⟨rfl, hsame⟩
        · exact (lane_eq l).symm.imp (fun h1 => ⟨h1, hsame.trans hidle⟩) fun h0 => ⟨h0, hsame⟩

theorem LanesCoherent.restartAll (h : LanesCoherent s) : LanesCoherent (restartAll s) := by
  have hhalted := (h.haltLane 0 { announce := false, zero := true }).haltLane 1 { announce := false, zero := true }
  unfold Machine.restartAll
  dsimp only
  split
  · exact hhalted.of
  · exact hhalted.of

/-! ## The walk (R168, R169) -/

/-- From `s` to `u` a lane has read the header of a block that stands where R168 lets it. -/
structure Reached (l : LaneId) (c : Chain) (s u : State) : Prop where
  lanes : u.lanes = s.lanes.set l { s.lanes[l] with state := .running c }
  mover : u.mover = s.mover
  window : u.window = s.window
  placed : Placed s c.block
  position : c.position ≤ 257

theorem placed_of_placedWell {block : Word} (h : placedWell s block = true) : Placed s block := by
  unfold placedWell at h
  unfold Placed
  exact of_decide_eq_true h

section Walk
variable {u : State} {l : LaneId} {c : Chain}

/-- A lane at a block it has not taken: its queue is in range, and where it is lane 1 no Export goes on. -/
theorem Reached.settles (h : LanesCoherent s) (hin : inHand s l = none) (hr : Reached l c s u) {t : State} (ht : Settles l u t)
    (mover : t.mover = u.mover := by simp) (window : t.window = u.window := by simp) : LanesCoherent t :=
  h.settles (ht.of_moved hr.lanes) (h.between hin (mover.trans hr.mover)) (by rw [window, hr.window])

theorem Reached.queue (h : LanesCoherent s) (hr : Reached l c s u) : u.lanes[l].queue.length ≤ 4 := by
  rw [hr.lanes, getElem_setLane]
  exact (h.fits l).queue

/-- The lane takes the block: it has it in hand (R168, steps 6 and 7). -/
theorem LanesCoherent.taken (h : LanesCoherent s) (hin : inHand s l = none) (hr : Reached l c s u) (hc : c.position ≤ 256)
    (b : InHand) {t : State} (lanes : t.lanes = u.lanes.set l { u.lanes[l] with state := .running { c with phase := .taken b } })
    (mover : t.mover = u.mover) (window : t.window = u.window) : LanesCoherent t := by
  have hidle : l = 1 → t.mover = .idle := by
    rintro rfl
    exact (mover.trans hr.mover).trans (h.mover_idle hin)
  obtain ⟨hfits, hcontrol, hwaits, hmover⟩ := h
  have hlane : u.lanes[l] = { s.lanes[l] with state := .running c } := by rw [hr.lanes, getElem_setLane]
  have lane (k : LaneId) : t.lanes[k] =
      if l = k then { s.lanes[l] with state := .running { c with phase := .taken b } } else s.lanes[k] := by
    rw [lanes, hlane, hr.lanes, Vector.set_set, getElem_set_fin]
  have area : t.window.areaSize = s.window.areaSize := by rw [window, hr.window]
  have halting (k : LaneId) : t.lanes[k].halting = s.lanes[k].halting := by
    rw [lane]
    split
    · rename_i hk
      rw [← hk]
    · rfl
  refine ⟨fun k => ?_, (halting 0).trans hcontrol, fun hh => ?_, fun hm => ?_⟩
  · rw [lane]
    split
    · refine ⟨(hfits l).queue, fun k hk => ?_, fun k d hk _ => ?_⟩
      · cases hk
        exact hc
      · cases hk
        exact placed_congr area hr.placed
    · exact (hfits k).congr area
  · rw [halting] at hh
    rw [mover, hr.mover]
    exact hwaits hh
  · have hl : l ≠ 1 := fun hl => hm (hidle hl)
    rw [inHand_congr (s := s) (by rw [lane, if_neg hl])]
    exact hmover (by rw [← hr.mover, ← mover]; exact hm)

theorem LanesCoherent.takeBlock (h : LanesCoherent s) (hin : inHand s l = none) (hr : Reached l c s u) (hc : c.position ≤ 256)
    (g : Header) : LanesCoherent (takeBlock l c g u) := by
  have hq := hr.queue h
  unfold Machine.takeBlock
  split
  · exact hr.settles h hin (settles_laneFault_setBus hq _ _ _)
  · split
    · refine h.taken hin hr hc (g.inHand ‹_›) ?_ (by simp) (by simp)
      simp [setChain]
    · exact hr.settles h hin (settles_laneFault_setBus hq _ _ _)

theorem LanesCoherent.examineBlock (h : LanesCoherent s) (hin : inHand s l = none) (hr : Reached l c s u) (g : Header) :
    LanesCoherent (examineBlock l c g u) := by
  have hq := hr.queue h
  unfold Machine.examineBlock
  dsimp only
  split
  · exact hr.settles h hin (settles_endBlock hq (.inr ⟨0, rfl⟩) _ _ _)
  · rename_i hne
    have hc : c.position ≤ 256 := by have hle := hr.position; omega
    split
    · exact hr.settles h hin (settles_endBlock hq (.inl hc) _ _ _)
    · split
      · exact hr.settles h hin (settles_endBlock hq (.inl hc) _ _ _)
      · split
        · exact hr.settles h hin (settles_laneFault hq _ _)
        · split
          · exact h.takeBlock hin hr hc g
          · exact hr.settles h hin (settles_endBlock hq (.inl hc) _ _ _)

theorem LanesCoherent.skipBlock (h : LanesCoherent s) (hin : inHand s l = none) (hr : Reached l c s u) (g : Header) :
    LanesCoherent (skipBlock l c g u) := by
  have hq := hr.queue h
  unfold Machine.skipBlock
  split
  · exact hr.settles h hin (settles_endBlock hq (.inr ⟨0, rfl⟩) _ _ _)
  · rename_i hne
    have hc : c.position ≤ 256 := by have hle := hr.position; omega
    split
    · exact hr.settles h hin (settles_endBlock hq (.inl hc) _ _ _)
    · exact hr.settles h hin (settles_advance hq _ _ (.inl hc))

/-- A lane reaches a block, or faults (R168, steps 1 and 2). -/
theorem LanesCoherent.reachBlock (h : LanesCoherent s) {phase : LanePhase} (hc : chainIn s l phase = some c)
    (hphase : ∀ b, phase ≠ .taken b) (rest : Chain → Header → State → State)
    (hrest : ∀ {k g v}, inHand s l = none → Reached l k s v → LanesCoherent (rest k g v)) :
    LanesCoherent (reachBlock l c rest s) := by
  obtain ⟨hrun, rfl⟩ := chainIn_eq_some hc
  have hin : inHand s l = none := by
    by_contra hne
    obtain ⟨⟨k, b⟩, hk⟩ := Option.ne_none_iff_exists'.1 hne
    obtain ⟨hrun', hb⟩ := inHand_eq_some.1 hk
    cases hrun.symm.trans hrun'
    exact hphase b hb
  unfold Machine.reachBlock
  split
  · rename_i hplaced
    split
    · exact h.settles (settles_laneFault_setBus (h.fits l).queue _ _ _) (h.between hin (by simp))
    · refine hrest hin ⟨by simp [setChain], by simp, by simp, placed_of_placedWell hplaced, ?_⟩
      exact Nat.succ_le_succ ((h.fits l).position c hrun)
  · exact h.settles (settles_laneFault (h.fits l).queue _ _) (h.between hin (by simp))

end Walk

end Sys2Proof.Machine
end

section
/-! Every command keeps the lanes, the blocks in hand, the halts that wait and the Export record coherent. -/

namespace Sys2Proof.Machine

open Safety

-- The proofs are elaborated in order: side by side, each would hold a thread of its own, and its memory.
set_option Elab.async false

/-- In every state that an outcome can go on to, the lanes and the Export record are coherent. -/
def KeepsLanes (o : Host.Outcome State Fault Refusal) : Prop := ∀ t, o = .next t → LanesCoherent t

variable {s : State}

theorem LanesCoherent.keeps (h : LanesCoherent s) : KeepsLanes (.next s) := by
  rintro _ ⟨⟩
  exact h

/-- A command that leaves the lanes, the Export record and the work area. -/
theorem LanesCoherent.left (h : LanesCoherent s) {t : State} (lanes : t.lanes = s.lanes := by simp)
    (mover : t.mover = s.mover := by simp) (area : t.window.areaSize = s.window.areaSize := by simp) : KeepsLanes (.next t) :=
  (h.of lanes mover area).keeps

theorem keepsLanes_fault (f : Fault) : KeepsLanes (.fault f) := by
  intro t h
  cases h

/-! ## Packets, timers and frames -/

theorem LanesCoherent.frameOpen (h : LanesCoherent s) (p : PortId) (count width height : Half) :
    KeepsLanes (execFrameOpen p count width height s) := by
  unfold execFrameOpen
  split
  · exact h.keeps
  · exact h.left

theorem LanesCoherent.line (h : LanesCoherent s) (p : PortId) (n : Half) (payload : List Byte) (check : Half) :
    KeepsLanes (execLine p n payload check s) := by
  unfold execLine
  split
  · exact h.keeps
  · split
    · exact h.keeps
    · split
      · exact h.left
      · exact keepsLanes_fault _

theorem LanesCoherent.frameClose (h : LanesCoherent s) (p : PortId) (count : Half) : KeepsLanes (execFrameClose p count s) := by
  unfold execFrameClose
  split
  · exact h.keeps
  · split
    · exact h.keeps
    · split
      · exact h.left
      · exact keepsLanes_fault _

theorem LanesCoherent.silenceTimerExpiry (h : LanesCoherent s) (p : PortId) : KeepsLanes (execSilenceTimerExpiry p s) := by
  unfold execSilenceTimerExpiry
  split
  · exact h.left
  · exact h.keeps

theorem LanesCoherent.evaluationService (h : LanesCoherent s) : KeepsLanes (execEvaluationService s) := by
  unfold execEvaluationService
  split
  · exact h.keeps
  · exact h.left

/-- A frame start reaches the lanes and the Export record by a screen Export that waits for it (R150). -/
theorem LanesCoherent.takeFrameStart (h : LanesCoherent s) (d : DisplayId) : LanesCoherent (takeFrameStart d s) := by
  obtain ⟨-, hwindow, hlanes, -⟩ := pipeStarted_desk (s := s) (d := d)
  have hpipe : LanesCoherent (pipeStarted d s) := h.of hlanes pipeStarted_mover (by rw [hwindow])
  have hmet := hpipe.exportAtStart d
  rw [takeFrameStart_eq]
  split
  · exact hmet.of
  · exact hmet.of

theorem LanesCoherent.frameStart (h : LanesCoherent s) (d : DisplayId) : KeepsLanes (execFrameStart d s) := by
  unfold execFrameStart
  split
  · exact (h.takeFrameStart d).finish.keeps
  · exact h.keeps

theorem LanesCoherent.frameEnd (h : LanesCoherent s) (d : DisplayId) : KeepsLanes (execFrameEnd d s) := by
  have hended : LanesCoherent ((releaseHolder (.display d) s).setDisplay d s.displays[d].endFrame) := h.of
  unfold execFrameEnd
  split
  · exact (hended.exportAtEnd d).finish.keeps
  · exact h.keeps

theorem LanesCoherent.holdExpiry (h : LanesCoherent s) (d : DisplayId) (side : CabSide) : KeepsLanes (execHoldExpiry d side s) := by
  unfold execHoldExpiry
  cases side with
  | left => exact h.left
  | right => exact h.left

theorem LanesCoherent.doorLineEdge (h : LanesCoherent s) (k : DoorId) (level : Bool) : KeepsLanes (execDoorLineEdge k level s) := by
  unfold execDoorLineEdge
  dsimp only
  split
  · exact h.keeps
  · split
    · exact h.left
    · split
      · exact h.left
      · exact h.left

theorem LanesCoherent.debounceExpiry (h : LanesCoherent s) (k : DoorId) : KeepsLanes (execDebounceExpiry k s) := by
  unfold execDebounceExpiry
  dsimp only
  split
  · exact h.keeps
  · split
    · split
      · exact h.left
      · exact h.left
    · exact h.keeps

/-! ## The register window and the attention words -/

theorem idle_of_not_laneBusy {l : LaneId} (h : laneBusy s l = false) : s.lanes[l].state = .idle := by
  unfold laneBusy at h
  cases hl : s.lanes[l].state with
  | idle => rfl
  | running => rw [hl] at h; cases h
  | faulted => rw [hl] at h; cases h

/-- While a write of the work area is not refused, both lanes are IDLE (R158). -/
theorem idle_of_not_areaInUse (h : ¬ areaInUse s = true) (l : LaneId) : s.lanes[l].state = .idle := by
  have hrest : laneBusy s 0 = false ∧ laneBusy s 1 = false := Bool.or_eq_false_iff.1 (Bool.eq_false_iff.2 h)
  rcases lane_eq l with rfl | rfl
  · exact idle_of_not_laneBusy hrest.1
  · exact idle_of_not_laneBusy hrest.2

/-- A write of a register changes the work area only while both lanes are at rest (R158). -/
theorem LanesCoherent.writeRegister (h : LanesCoherent s) (value : Word) (r : HostRegister) :
    LanesCoherent (writeRegister value s r) := by
  cases r with
  | ident => exact h
  | areaLo =>
    show LanesCoherent (writeAreaLo value s)
    unfold writeAreaLo
    split
    · exact h.of
    · rename_i hrest
      exact h.resize (idle_of_not_areaInUse hrest)
  | areaHi =>
    show LanesCoherent (writeAreaHi value s)
    unfold writeAreaHi
    split
    · exact h.of
    · rename_i hrest
      exact h.resize (idle_of_not_areaInUse hrest)
  | areaSize =>
    show LanesCoherent (writeAreaSize value s)
    unfold writeAreaSize
    split
    · exact h.of
    · rename_i hrest
      dsimp only
      split
      · exact h.resize (idle_of_not_areaInUse hrest)
      · exact h.resize (idle_of_not_areaInUse hrest)
  | command => exact h.of rfl rfl rfl
  | attention =>
    show LanesCoherent (writeAttention value s)
    unfold writeAttention
    split
    · exact h.of
    · exact h.of rfl rfl rfl
  | status => exact h
  | resetCause => exact h.of rfl rfl rfl

/-- A captured word is taken. -/
theorem LanesCoherent.takeWord (h : LanesCoherent s) (code : Nat) (effect : Word → Word → State → State)
    (he : ∀ w head u, LanesCoherent u → LanesCoherent (effect w head u)) : KeepsLanes (takeWord code effect s) := by
  unfold Machine.takeWord
  split
  · exact h.keeps
  · split
    · exact (he _ _ (clearBusy s) (h.of rfl rfl rfl)).finish.keeps
    · exact h.keeps

theorem LanesCoherent.haltByWord (h : LanesCoherent s) (w head : Word) : LanesCoherent (haltByWord w head s) := by
  unfold Machine.haltByWord
  split
  · exact h.of
  · exact h.haltLane _ _

theorem LanesCoherent.restartByWord (h : LanesCoherent s) (w head : Word) : LanesCoherent (restartByWord w head s) := by
  unfold Machine.restartByWord
  split
  · exact h.of
  · split
    · exact h.haltLane _ _
    · split
      · exact h.haltLane _ _
      · split
        · exact h.restartAll
        · exact h.of

theorem LanesCoherent.badCode (h : LanesCoherent s) : KeepsLanes (execBadCode s) := by
  unfold execBadCode
  split
  · exact h.keeps
  · split
    · exact h.keeps
    · exact h.left rfl rfl rfl

/-! ## The lanes -/

theorem LanesCoherent.headerRead (h : LanesCoherent s) (l : LaneId) : KeepsLanes (execHeaderRead l s) := by
  unfold execHeaderRead
  split
  · exact h.keeps
  · rename_i c hc
    exact (h.reachBlock hc (fun b hb => nomatch hb) _ fun hin hr => h.examineBlock hin hr _).finish.keeps

theorem LanesCoherent.skipWalk (h : LanesCoherent s) (l : LaneId) : KeepsLanes (execSkipWalk l s) := by
  unfold execSkipWalk
  split
  · exact h.keeps
  · rename_i c hc
    exact (h.reachBlock hc (fun b hb => nomatch hb) _ fun hin hr => h.skipBlock hin hr _).finish.keeps

/-! ## The lane 0 blocks -/

/-- A lane 0 block acts, and ends in range of its chain. -/
theorem LanesCoherent.lane0Block (h : LanesCoherent s) (kind : Kind) (act : InHand → State → State × Ending)
    (ha : ∀ b, LanesCoherent (act b s).1) : KeepsLanes (lane0Block kind act s) := by
  unfold Machine.lane0Block
  split
  · exact h.keeps
  · rename_i c b hin
    have hc : c.position ≤ 256 := (h.fits 0).position c (running_of_inHand hin)
    split
    · have hb := ha b
      generalize act b s = r at hb
      obtain ⟨u, e⟩ := r
      exact (hb.endBlock hc b.notify b.haltOnFail b.next e).finish.keeps
    · exact h.keeps

theorem LanesCoherent.actDefineCamera (h : LanesCoherent s) (b : InHand) : LanesCoherent (actDefineCamera b s).1 := by
  unfold Machine.actDefineCamera
  split
  · exact h
  · split
    · exact h
    · split
      · exact h
      · split <;> exact h.of

theorem LanesCoherent.actParkCamera (h : LanesCoherent s) (b : InHand) : LanesCoherent (actParkCamera b s).1 := by
  unfold Machine.actParkCamera
  split
  · exact h
  · split
    · exact h
    · split <;> exact h.of

theorem LanesCoherent.actUnparkCamera (h : LanesCoherent s) (b : InHand) : LanesCoherent (actUnparkCamera b s).1 := by
  unfold Machine.actUnparkCamera
  split
  · exact h
  · split
    · exact h
    · split
      · exact h
      · split <;> exact h.of

theorem LanesCoherent.actLoadLayout (h : LanesCoherent s) (b : InHand) : LanesCoherent (actLoadLayout b s).1 := by
  unfold Machine.actLoadLayout
  split
  · exact h
  · split
    · split <;> exact h.of
    · exact h

theorem LanesCoherent.actClearLayout (h : LanesCoherent s) (b : InHand) : LanesCoherent (actClearLayout b s).1 := by
  unfold Machine.actClearLayout
  split
  · exact h
  · split <;> exact h.of

theorem LanesCoherent.actSelectLayout (h : LanesCoherent s) (b : InHand) : LanesCoherent (actSelectLayout b s).1 := by
  unfold Machine.actSelectLayout
  split
  · exact h
  · split
    · exact h
    · split <;> exact h.of

/-- SET DISPLAY reaches the lanes by the display's first frame start alone (R90). -/
theorem LanesCoherent.setDisplay (h : LanesCoherent s) (d : DisplayId) (settings : DisplaySettings) :
    LanesCoherent (setDisplay d settings s) := by
  unfold Machine.setDisplay
  dsimp only
  split
  · exact h.of
  · exact LanesCoherent.takeFrameStart h.of d

theorem LanesCoherent.actSetDisplay (h : LanesCoherent s) (b : InHand) : LanesCoherent (actSetDisplay b s).1 := by
  unfold Machine.actSetDisplay
  split
  · exact h
  · split
    · exact h
    · split
      · exact h
      · split
        · exact h
        · exact h.setDisplay _ _

/-- A handover reaches the lanes by a screen Export of another cab alone (R152). -/
theorem LanesCoherent.handover (h : LanesCoherent s) (cab : Option AB) : LanesCoherent (handover cab s) := by
  have hothers := handedOver_others cab s
  rw [handover_eq_raise]
  generalize handedOver cab s = u at hothers ⊢
  have hhanded : LanesCoherent u := by
    rw [hothers]
    exact h.of rfl rfl rfl
  exact hhanded.stopForeignExport.of

theorem LanesCoherent.actSetCab (h : LanesCoherent s) (b : InHand) : LanesCoherent (actSetCab b s).1 := by
  unfold Machine.actSetCab
  split
  · exact h
  · split
    · exact h
    · split
      · exact h
      · dsimp only
        exact h.handover _

theorem LanesCoherent.actSetDoorPolicy (h : LanesCoherent s) (b : InHand) : LanesCoherent (actSetDoorPolicy b s).1 := by
  unfold Machine.actSetDoorPolicy
  split
  · exact h
  · split <;> exact h.of

/-- The ports that run, recorded and parked (R182, steps 1 and 2). -/
def portsParked (s : State) : State :=
  (List.finRange 12).foldl parkRunning { s with wakeRecord := Vector.ofFn fun p => decide (s.ports[p].state ≠ .parked) }

/-- The part STABLED, a COPYING screen Export not yet stopped (R182). -/
def stabled (s : State) : State := recomputeLines { portsParked s with mode := .stabled }

theorem enterStabling_eq (s : State) : enterStabling s = mark .part (stopCopying (stabled s)) := rfl

theorem portsParked_desk (s : State) :
    (portsParked s).clock = s.clock ∧ (portsParked s).window = s.window ∧ (portsParked s).lanes = s.lanes ∧
    (portsParked s).mover = s.mover ∧ (portsParked s).bus = s.bus := by simp [portsParked]

theorem stabled_desk (s : State) :
    (stabled s).clock = s.clock ∧ (stabled s).window = s.window ∧ (stabled s).lanes = s.lanes ∧ (stabled s).mover = s.mover ∧
    (stabled s).bus = s.bus := by
  obtain ⟨hclock, hwindow, hlanes, hmover, hbus⟩ := portsParked_desk s
  unfold stabled
  generalize portsParked s = u at *
  simp [hclock, hwindow, hlanes, hmover, hbus]

/-- The entry to stabling reaches the lanes by a COPYING screen Export alone (R152). -/
theorem LanesCoherent.enterStabling (h : LanesCoherent s) : LanesCoherent (enterStabling s) := by
  obtain ⟨-, hwindow, hlanes, hmover, -⟩ := stabled_desk s
  rw [enterStabling_eq]
  exact (h.of hlanes hmover (by rw [hwindow])).stopCopying.of

theorem LanesCoherent.actEnterStabling (h : LanesCoherent s) (b : InHand) : LanesCoherent (actEnterStabling b s).1 := by
  unfold Machine.actEnterStabling
  split
  · exact h
  · split
    · exact h
    · split
      · exact h.enterStabling
      · exact h

theorem LanesCoherent.actLearnReference (h : LanesCoherent s) (b : InHand) : LanesCoherent (actLearnReference b s).1 := by
  unfold Machine.actLearnReference
  split
  · exact h
  · dsimp only
    split
    · exact h
    · split
      · exact h
      · split <;> exact h.of

theorem LanesCoherent.actSetReference (h : LanesCoherent s) (b : InHand) : LanesCoherent (actSetReference b s).1 := by
  unfold Machine.actSetReference
  split
  · exact h
  · split
    · exact h
    · split <;> exact h.of

theorem LanesCoherent.actMeasureOnce (h : LanesCoherent s) (b : InHand) : LanesCoherent (actMeasureOnce b s).1 := by
  unfold Machine.actMeasureOnce
  split
  · exact h
  · split
    · exact h
    · split <;> exact h.of

theorem LanesCoherent.actSetSoilLimits (h : LanesCoherent s) (b : InHand) : LanesCoherent (actSetSoilLimits b s).1 := by
  unfold Machine.actSetSoilLimits
  split
  · exact h
  · split
    · exact h
    · split <;> exact h.of

/-! ## Exports -/

theorem LanesCoherent.exportFrame (h : LanesCoherent s) : KeepsLanes (execExportFrame s) := by
  unfold execExportFrame
  split
  · exact h.keeps
  · rename_i b hb
    split
    · exact (h.endExport _).finish.keeps
    · split
      · exact (h.endExport _).finish.keeps
      · exact (h.takeExportFrame (exportInHand_idle hb) (isSome_of_exportInHand hb) _ _).finish.keeps

theorem LanesCoherent.exportScreen (h : LanesCoherent s) : KeepsLanes (execExportScreen s) := by
  unfold execExportScreen
  split
  · exact h.keeps
  · rename_i b hb
    split
    · exact (h.endExport _).finish.keeps
    · split
      · exact (h.endExport _).finish.keeps
      · exact (h.takeExportScreen (exportInHand_idle hb) (isSome_of_exportInHand hb) _ _).finish.keeps

/-- A row is written with no halt waiting: one waits behind the last row alone (R154). -/
theorem LanesCoherent.exportFrameRow (h : LanesCoherent s) : KeepsLanes (execExportFrameRow s) := by
  unfold execExportFrameRow
  split
  · rename_i p ops i width height count stamp rows hm
    split
    · split
      · rename_i hrow
        split
        · exact (LanesCoherent.exportWriteError (h.of (t := s.setBus _))).finish.keeps
        · rename_i bus _
          have hrows : s.mover.allRows = false := by rw [hm]; exact decide_eq_false (Nat.not_le.2 hrow)
          have hmoved : LanesCoherent { s.setBus bus with mover := .moving p ops i width height count stamp (rows + 1) } :=
            h.setMover (h.no_halt hrows 1) (h.mover (by rw [hm]; exact Export.noConfusion)) rfl rfl
          dsimp only
          split
          · exact (hmoved.completeExport _ _ _ _).finish.keeps
          · exact hmoved.keeps
      · exact h.keeps
    · exact keepsLanes_fault _
  · exact h.keeps
  · exact h.keeps
  · exact h.keeps

theorem LanesCoherent.exportScreenRow (h : LanesCoherent s) : KeepsLanes (execExportScreenRow s) := by
  unfold execExportScreenRow
  split
  · rename_i d ops width height stamp count rows hm
    split
    · split
      · rename_i hrow
        split
        · exact (LanesCoherent.exportWriteError (h.of (t := s.setBus _))).finish.keeps
        · have hrows : s.mover.allRows = false := by rw [hm]; exact decide_eq_false (Nat.not_le.2 hrow)
          exact LanesCoherent.keeps
            (h.setMover (h.no_halt hrows 1) (h.mover (by rw [hm]; exact Export.noConfusion)) rfl rfl)
      · exact h.keeps
    · exact keepsLanes_fault _
  · exact h.keeps
  · exact h.keeps
  · exact h.keeps

/-! ## Every command -/

/-- Every command keeps the lanes and the Export record coherent. -/
theorem LanesCoherent.exec (h : LanesCoherent s) (i : Instr) : KeepsLanes (exec i s) := by
  cases i with
  | powerOn => exact (lanesCoherent_fresh (t := powerOn s) rfl rfl).keeps
  | linkReset => exact (lanesCoherent_fresh (t := linkReset s) rfl rfl).keeps
  | frameOpen p count width height => exact h.frameOpen p count width height
  | line p n payload check => exact h.line p n payload check
  | frameClose p count => exact h.frameClose p count
  | unknownPacket p => exact h.keeps
  | silenceTimerExpiry p => exact h.silenceTimerExpiry p
  | evaluationService => exact h.evaluationService
  | frameStart d => exact h.frameStart d
  | frameEnd d => exact h.frameEnd d
  | holdExpiry d side => exact h.holdExpiry d side
  | doorLineEdge k level => exact h.doorLineEdge k level
  | debounceExpiry k => exact h.debounceExpiry k
  | areaLoWrite v => exact (h.writeRegister v .areaLo).keeps
  | areaHiWrite v => exact (h.writeRegister v .areaHi).keeps
  | areaSizeWrite v => exact (h.writeRegister v .areaSize).keeps
  | statusRead => exact h.left rfl rfl rfl
  | resetCauseWrite v => exact (h.writeRegister v .resetCause).keeps
  | registerWrite r v => exact (h.writeRegister v r).keeps
  | attentionWrite v => exact (h.writeRegister v .attention).keeps
  | runChain => exact h.takeWord 1 _ fun _ _ _ hu => hu.runChain _ _
  | haltLane => exact h.takeWord 2 _ fun _ _ _ hu => hu.haltByWord _ _
  | acknowledge => exact h.takeWord 3 _ fun _ _ _ hu => hu.of
  | restart => exact h.takeWord 4 _ fun _ _ _ hu => hu.restartByWord _ _
  | wake => exact h.takeWord 5 _ fun _ _ _ hu => hu.of
  | badCode => exact h.badCode
  | headerRead l => exact h.headerRead l
  | skipWalk l => exact h.skipWalk l
  | defineCamera => exact h.lane0Block .defineCamera Machine.actDefineCamera h.actDefineCamera
  | parkCamera => exact h.lane0Block .parkCamera Machine.actParkCamera h.actParkCamera
  | unparkCamera => exact h.lane0Block .unparkCamera Machine.actUnparkCamera h.actUnparkCamera
  | loadLayout => exact h.lane0Block .loadLayout Machine.actLoadLayout h.actLoadLayout
  | clearLayout => exact h.lane0Block .clearLayout Machine.actClearLayout h.actClearLayout
  | selectLayout => exact h.lane0Block .selectLayout Machine.actSelectLayout h.actSelectLayout
  | setDisplay => exact h.lane0Block .setDisplay Machine.actSetDisplay h.actSetDisplay
  | setCab => exact h.lane0Block .setCab Machine.actSetCab h.actSetCab
  | learnReference => exact h.lane0Block .learnReference Machine.actLearnReference h.actLearnReference
  | setReference => exact h.lane0Block .setReference Machine.actSetReference h.actSetReference
  | measureOnce => exact h.lane0Block .measureOnce Machine.actMeasureOnce h.actMeasureOnce
  | setSoilLimits => exact h.lane0Block .setSoilLimits Machine.actSetSoilLimits h.actSetSoilLimits
  | setDoorPolicy => exact h.lane0Block .setDoorPolicy Machine.actSetDoorPolicy h.actSetDoorPolicy
  | enterStabling => exact h.lane0Block .enterStabling Machine.actEnterStabling h.actEnterStabling
  | exportFrame => exact h.exportFrame
  | exportScreen => exact h.exportScreen
  | exportFrameRow => exact h.exportFrameRow
  | exportScreenRow => exact h.exportScreenRow

/-- Every step keeps the lanes and the Export record coherent. -/
theorem LanesCoherent.step {t : State} (h : LanesCoherent s) (hs : step s = .next t) : LanesCoherent t := by
  unfold Machine.step at hs
  split at hs
  · cases hs
    exact h.of rfl rfl rfl
  · exact LanesCoherent.exec (h.of) _ t hs

end Sys2Proof.Machine

namespace Sys2Proof.Proofs

open Sys2Proof Sys2Proof.Machine Sys2Proof.Safety

-- The proofs are elaborated in order: side by side, each would hold a thread of its own, and its memory.
set_option Elab.async false

/-- Settles O8: what the statement asks is one invariant, `LanesCoherent`, which every command keeps. -/
theorem lanesAndExportStayCoherent : Obligations.LanesAndExportStayCoherent := by
  unfold Obligations.LanesAndExportStayCoherent
  intro s t h hs
  exact (lanesCoherent_iff t).1 (LanesCoherent.step ((lanesCoherent_iff s).2 h) hs)

end Sys2Proof.Proofs
end

section
/-! HALT LANE and RESTART of a lane with a block in hand (R154, R163, R164): what the halt leaves, and what it adds to an event's
reports. -/

namespace Sys2Proof.Machine

open Safety

-- The proofs are elaborated in order: side by side, each would hold a thread of its own, and its memory.
set_option Elab.async false

/-! ## The word (R163, R164) -/

theorem laneOf_of_eq {target : Nat} {l : LaneId} (h : target = l.val) : laneOf target = some l := by
  subst h
  exact dif_pos l.isLt

/-- HALT LANE, and RESTART of a lane, halt the lane that the captured word names. -/
theorem exec_halt {s : State} {w head : Word} {l : LaneId} {i : Instr} {zero : Bool}
    (h : i = .haltLane ∧ zero = false ∧ Captured s w head 2 ∧ attentionTarget w = l.val ∨
      i = .restart ∧ zero = true ∧ Captured s w head 4 ∧ attentionTarget w = 12 + l.val) :
    exec i s = .next (finishEvent (haltLane l { announce := true, zero } (wordTaken s))) := by
  rcases h with ⟨rfl, rfl, ⟨hw, hcode⟩, ht⟩ | ⟨rfl, rfl, ⟨hw, hcode⟩, ht⟩
  · show takeWord 2 haltByWord s = _
    unfold takeWord
    rw [hw]
    dsimp only
    rw [if_pos hcode, haltByWord, laneOf_of_eq ht]
    rfl
  · show takeWord 4 restartByWord s = _
    unfold takeWord
    rw [hw]
    dsimp only
    rw [if_pos hcode, restartByWord, portOf_eq_none (by omega)]
    rcases lane_eq l with rfl | rfl
    · exact congrArg (fun u => Host.Outcome.next (finishEvent u)) (if_pos ht)
    · refine congrArg (fun u => Host.Outcome.next (finishEvent u)) ((if_neg ?_).trans (if_pos ht))
      rw [ht]
      decide

/-! ## The lane of a halt -/

theorem laneLeft_laneHalting {v : Lane} (hh : v.halting = none) (k : Halt) (c : Chain) (hof : Bool) (next : Word) (r : Reason)
    (n : Nat) :
    laneLeft (laneHalting v k) c hof next (.failed r n) = laneStopped { v with failed := v.failed + 1 } k.zero := by
  unfold laneLeft laneHalting
  rw [hh]
  rfl

theorem haltNotices_laneHalting {v : Lane} (hh : v.halting = none) (k : Halt) :
    haltNotices (laneHalting v k) = if k.announce then [.laneHalted] else [] := by
  unfold haltNotices laneHalting
  rw [hh]
  rfl

/-- What a lane changes to shows in its record, or it does not. -/
theorem Raised.updateLane {m u : State} {ns : List Notice} {rs : List Record} (h : Raised m u ns rs) (l : LaneId) (v : Lane) :
    Raised m (updateLane l v u) ns (if v.contents = u.lanes[l].contents then rs else .lane l :: rs) := by
  have hset : Raised m (u.setLane l v) ns rs := h.step rfl rfl rfl
  unfold Machine.updateLane
  split
  · exact hset
  · exact hset.mark (.lane l)

/-- A change that does not show in the lane record. -/
theorem Raised.updateLane_unshown {m u : State} {ns : List Notice} {rs : List Record} (h : Raised m u ns rs) (l : LaneId) {v : Lane}
    (hv : v.contents = u.lanes[l].contents) : Raised m (Machine.updateLane l v u) ns rs := by
  have hset := h.updateLane l v
  rwa [if_pos hv] at hset

section Halt
variable {m u : State} {ns : List Notice} {rs : List Record} {l : LaneId} {c : Chain} {b : InHand} (k : Halt)

/-- That a halt waits does not show in the lane record. -/
theorem Raised.haltMarked (h : Raised m u ns rs) (l : LaneId) :
    Raised m (haltMarked l k u) ns
      (if ({ u.lanes[l] with queue := [] } : Lane).contents = u.lanes[l].contents then rs else .lane l :: rs) := by
  have hqueue := h.updateLane l { u.lanes[l] with queue := [] }
  unfold Machine.haltMarked
  exact hqueue.updateLane_unshown l rfl

/-- The block in hand of a lane that is halted ends FAILED ABORTED, unless it is an Export whose rows are all written; an Export lets
its slot go first (R154, R163). -/
theorem haltLane_ends_block (hin : inHand u l = some (c, b)) (hr : ¬ (l = 1 ∧ u.mover.allRows = true)) :
    ∃ v, haltLane l k u = endBlock l c b.notify b.haltOnFail b.next (.failed .aborted 0) v ∧
      (v = haltMarked l k u ∧ (l = 0 ∨ u.mover = .idle) ∨ v = dropExport (haltMarked l k u) ∧ l = 1 ∧ u.mover ≠ .idle) := by
  by_cases hm : l = 1 ∧ u.mover ≠ .idle
  · obtain ⟨rfl, hne⟩ := hm
    refine ⟨_, ?_, .inr ⟨rfl, rfl, hne⟩⟩
    rw [haltLane_of_export k hin (Bool.eq_false_iff.2 fun hrows => hr ⟨rfl, hrows⟩) hne,
      endExport_eq ((inHand_haltMarked k 1 1 u).trans hin)]
  · have hfree : l = 0 ∨ u.mover = .idle := (lane_eq l).imp_right fun h1 => by
      by_contra hne
      exact hm ⟨h1, hne⟩
    exact ⟨_, haltLane_of_block k hin hfree, .inl ⟨rfl, hfree⟩⟩

/-- A lane that is halted with a block in hand, on a quiet link. -/
theorem Raised.haltLane_block (h : Raised m u ns rs) (hq : m.bus.fate = []) (hclock : u.clock = m.clock)
    (hin : inHand u l = some (c, b)) (hh : u.lanes[l].halting = none) (hr : ¬ (l = 1 ∧ u.mover.allRows = true)) :
    Raised (endingWritten m c.block (.failed .aborted 0)) (haltLane l k u)
      (ns ++ endNotices l b.notify ++ if k.announce then [.laneHalted] else []) (.lane l :: rs) ∧
    (haltLane l k u).lanes = u.lanes.set l (laneStopped { u.lanes[l] with failed := u.lanes[l].failed + 1 } k.zero) := by
  obtain ⟨v, hv, hcase⟩ := haltLane_ends_block k hin hr
  have hmarked := h.haltMarked k l
  have hmarkedClock : (Machine.haltMarked l k u).clock = u.clock := (haltMarked_desk k l u).1
  have hmarkedLanes := haltMarked_lanes k l u
  generalize Machine.haltMarked l k u = w at hcase hmarked hmarkedClock hmarkedLanes
  have hdesk : v.clock = w.clock ∧ v.lanes = w.lanes ∧ v.window = w.window ∧ v.bus = w.bus ∧ v.reports = w.reports := by
    rcases hcase with ⟨rfl, -⟩ | ⟨rfl, -⟩
    · exact ⟨rfl, rfl, rfl, rfl, rfl⟩
    · exact ⟨rfl, rfl, rfl, rfl, rfl⟩
  obtain ⟨hvclock, hvlanes, hvwindow, hvbus, hvreports⟩ := hdesk
  obtain ⟨hraised, hleft⟩ := endBlock_quiet (hmarked.step hvwindow hvbus hvreports) hq
    ((hvclock.trans hmarkedClock).trans hclock) l c b.notify b.haltOnFail b.next (.failed .aborted 0)
  have hlane : v.lanes[l] = laneHalting u.lanes[l] k := by rw [hvlanes, hmarkedLanes, getElem_setLane]
  rw [hlane, hvlanes, hmarkedLanes, Vector.set_set, laneLeft_laneHalting hh] at hleft
  rw [hlane, haltNotices_laneHalting hh] at hraised
  rw [hv]
  refine ⟨hraised.congr (fun _ => Iff.rfl) fun r => ?_, hleft⟩
  split
  · rfl
  · simp only [List.mem_cons, or_self_left]

theorem endBlock_mover (l : LaneId) (c : Chain) (notify haltOnFail : Bool) (next : Word) (e : Ending) (s : State) :
    (endBlock l c notify haltOnFail next e s).mover = s.mover := by simp

/-- What becomes of the Export record and of the frame store when a lane is halted with a block in hand (R154). -/
theorem haltLane_block_lets_go (hin : inHand u l = some (c, b)) (hr : ¬ (l = 1 ∧ u.mover.allRows = true)) :
    (l = 0 ∨ u.mover = .idle → (haltLane l k u).mover = u.mover ∧ (haltLane l k u).store = u.store) ∧
    (l = 1 → u.mover ≠ .idle →
      (haltLane l k u).mover = .idle ∧ (haltLane l k u).store = (releaseHolder .mover u).store) := by
  obtain ⟨v, hv, hcase⟩ := haltLane_ends_block k hin hr
  obtain ⟨-, hstore, -, hmover⟩ := haltMarked_desk k l u
  rw [hv, endBlock_store, endBlock_mover]
  rcases hcase with ⟨rfl, hfree⟩ | ⟨rfl, rfl, hne⟩
  · refine ⟨fun _ => ⟨hmover, hstore⟩, ?_⟩
    rintro rfl hne
    exact absurd (hfree.resolve_left (by decide)) hne
  · refine ⟨fun hfree => absurd (hfree.resolve_left (by decide)) hne, fun _ _ => ⟨rfl, ?_⟩⟩
    show (releaseHolder .mover (haltMarked 1 k u)).store = _
    unfold releaseHolder
    rw [hstore]

end Halt

theorem haltLane_others (l : LaneId) (k : Halt) (s : State) :
    haltLane l k s = { s with
      store := (haltLane l k s).store, lanes := (haltLane l k s).lanes, mover := (haltLane l k s).mover
      reports := (haltLane l k s).reports, bus := (haltLane l k s).bus } :=
  haltLane_unseen l k s (fun x => { x with
    store := (haltLane l k s).store, lanes := (haltLane l k s).lanes, mover := (haltLane l k s).mover
    reports := (haltLane l k s).reports, bus := (haltLane l k s).bus }) fun _ _ _ _ _ _ => rfl

theorem finishEvent_haltLane (l : LaneId) (k : Halt) (s : State) :
    let t := finishEvent (haltLane l k s)
    t = { s with store := t.store, lanes := t.lanes, mover := t.mover, reports := t.reports, bus := t.bus } :=
  let others (v x : State) : State := { x with
    store := v.store, lanes := v.lanes, mover := v.mover, reports := v.reports, bus := v.bus }
  finishEvent_others others (fun _ => rfl) (fun _ _ _ _ => rfl) fun v => haltLane_unseen l k s (others v) fun _ _ _ _ _ _ => rfl

theorem finishEvent_haltMarked (l : LaneId) (k : Halt) (s : State) :
    let t := finishEvent (haltMarked l k s)
    t = { s with lanes := t.lanes, reports := t.reports, bus := t.bus } :=
  let others (v x : State) : State := { x with lanes := v.lanes, reports := v.reports, bus := v.bus }
  finishEvent_others others (fun _ => rfl) (fun _ _ _ _ => rfl) fun v => haltMarked_unseen k l s (others v) fun _ _ _ => rfl

theorem finishEvent_mover (s : State) : (finishEvent s).mover = s.mover := by simp

theorem allRows_iff (m : Export) :
    m.allRows = true ↔
      (∃ p o i w h n g rows, m = .moving p o i w h n g rows ∧ h ≤ rows) ∨
        ∃ d o w h g n rows, m = .copying d o w h g n rows ∧ h ≤ rows := by
  cases m with
  | idle => simp [Export.allRows]
  | waiting => simp [Export.allRows]
  | moving p o i w h n g rows => simp [Export.allRows]
  | copying d o w h g n rows => simp [Export.allRows]

end Sys2Proof.Machine

namespace Sys2Proof.Proofs

open Sys2Proof Sys2Proof.Machine Sys2Proof.Safety

-- The proofs are elaborated in order: side by side, each would hold a thread of its own, and its memory.
set_option Elab.async false

/-- Settles O39: a block in hand ends at its safe point (`Raised.haltLane_block`), or the halt is marked and waits behind the last
row of an Export (`Raised.haltMarked`). -/
theorem haltEndsBlockInHand : Obligations.HaltEndsBlockInHand := by
  unfold Obligations.HaltEndsBlockInHand
  refine ⟨allRows_iff, fun s w head l i zero c b hword hcalm hin hh => ⟨fun hr => ?_, ?_⟩⟩
  · have hcalm' : Calm (wordTaken s) := hcalm
    obtain ⟨hraised, hlanes⟩ := (Raised.calm hcalm').haltLane_block { announce := true, zero } (u := wordTaken s) hcalm.2 rfl hin hh hr
    obtain ⟨hstays, hgoes⟩ := haltLane_block_lets_go { announce := true, zero } (u := wordTaken s) hin hr
    refine ⟨_, exec_halt hword, finishEvent_haltLane l _ _, (finishEvent_lanes _).trans hlanes, fun hfree => ?_, fun hl hm => ?_,
      hraised.finish ((allWritten_fate _ _).trans hcalm.2)⟩
    · rw [finishEvent_store, finishEvent_mover]
      exact hstays hfree
    · obtain ⟨hmover, hstore⟩ := hgoes hl hm
      exact ⟨(finishEvent_mover _).trans hmover, storeLeft_congr (storeLeft_releaseHolder .mover s)
        ((finishEvent_store _).trans hstore)⟩
  · rintro rfl hr
    have hcalm' : Calm (wordTaken s) := hcalm
    have hmarked := (Raised.calm hcalm').haltMarked { announce := true, zero } 1
    refine ⟨_, (exec_halt hword).trans (by rw [haltLane_of_allRows (s := wordTaken s) _ hin ⟨rfl, hr⟩]),
      finishEvent_haltMarked 1 _ _, ?_, hmarked.finish hcalm.2⟩
    rw [finishEvent_lanes, haltMarked_lanes, laneHalting]
    have hh : (wordTaken s).lanes[(1 : LaneId)].halting = none := hh
    rw [hh]
    rfl

end Sys2Proof.Proofs
end

section
/-! RESTART with target 15 (R154, R163, R164, R179): the two lanes halted, and the full report write. -/

namespace Sys2Proof.Machine

open Safety

-- The proofs are elaborated in order: side by side, each would hold a thread of its own, and its memory.
set_option Elab.async false

/-! ## One lane (R163, R164) -/

/-- The halt that a RESTART of everything plays on a lane: silent, the counters cleared. -/
def silentHalt : Halt := { announce := false, zero := true }

/-- The Export of a lane that a RESTART of everything ends (R154). -/
def LetsGo (s : State) (l : LaneId) : Prop :=
  l = 1 ∧ s.mover ≠ .idle ∧ s.mover.allRows = false ∧ (inHand s 1).isSome = true

theorem abortedWritten_others (s : State) (l : LaneId) : abortedWritten s l = { s with bus := (abortedWritten s l).bus } := by
  unfold abortedWritten
  split
  · rfl
  · split
    · rfl
    · rw [endingWritten, allWritten_eq]

theorem abortedWritten_fate (s : State) (l : LaneId) : (abortedWritten s l).bus.fate = s.bus.fate := by
  unfold abortedWritten
  split
  · rfl
  · split
    · rfl
    · exact allWritten_fate _ s

theorem laneRestarted_of_none {s : State} {l : LaneId} (h : inHand s l = none) : laneRestarted s l = laneStopped s.lanes[l] true := by
  refine if_neg ?_
  rintro ⟨rfl, hb, -⟩
  rw [h] at hb
  cases hb

/-- Within one event from `m` to `u` some notices have been raised and some records marked. -/
def Reporting (m u : State) : Prop := ∃ ns rs, Raised m u ns rs

section Reporting
variable {m u : State} (h : Reporting m u) (l : LaneId)
include h

theorem Reporting.raise (n : Notice) : Reporting m (raise n u) := by
  obtain ⟨_, _, hraised⟩ := h
  exact ⟨_, _, hraised.raise n⟩

theorem Reporting.updateLane (v : Lane) : Reporting m (updateLane l v u) := by
  obtain ⟨_, _, hraised⟩ := h
  exact ⟨_, _, hraised.updateLane l v⟩

theorem Reporting.takeUp : Reporting m (takeUp l u) := by
  unfold Machine.takeUp
  dsimp only
  split
  · exact h.updateLane l _
  · exact h

theorem Reporting.stopLane (k : Halt) : Reporting m (stopLane l k u) := by
  unfold Machine.stopLane
  dsimp only
  split
  · exact ((h.updateLane l _).raise _).takeUp l
  · exact (h.updateLane l _).takeUp l

end Reporting

/-- From `m`, the part before the restart, to `u` another lane may have been halted already. -/
structure Before (m u : State) (l : LaneId) : Prop where
  lane : u.lanes[l] = m.lanes[l]
  mover : u.mover = m.mover
  clock : u.clock = m.clock
  given : Reporting m u
  quiet : m.bus.fate = []
  waits : m.lanes[l].halting ≠ none → l = 1 ∧ m.mover.allRows = true ∧ (inHand m 1).isSome = true

/-- From `m`, over `u`, to `v` a lane has been halted by a RESTART of everything: its block in hand has ended, or the halt waits
behind the last row of its Export. -/
structure Restarted (m u v : State) (l : LaneId) : Prop where
  given : Reporting (abortedWritten m l) v
  lanes : v.lanes = u.lanes.set l (laneRestarted m l)
  lets : LetsGo m l → v.mover = .idle ∧ v.store = (releaseHolder .mover u).store
  stays : ¬ LetsGo m l → v.mover = u.mover ∧ v.store = u.store

section Lane
variable {m u : State} {l : LaneId} {c : Chain} {b : InHand} (h : Before m u l)
include h

theorem Before.inHand_eq : inHand u l = inHand m l := inHand_congr (by rw [h.lane])

/-- The lane is between two blocks. -/
theorem restarted_between (hin : inHand m l = none) : Restarted m u (haltLane l silentHalt u) l := by
  have hh : m.lanes[l].halting = none := by
    by_contra hne
    obtain ⟨rfl, -, hb⟩ := h.waits hne
    rw [hin] at hb
    cases hb
  have hnot : ¬ LetsGo m l := by
    rintro ⟨rfl, -, -, hb⟩
    rw [hin] at hb
    cases hb
  have hwritten : abortedWritten m l = m := by
    unfold abortedWritten
    rw [hin]
  rw [haltLane_of_none silentHalt (h.inHand_eq.trans hin), h.lane, hh]
  refine ⟨?_, ?_, fun hl => absurd hl hnot, fun _ => by simp⟩
  · rw [hwritten]
    exact (h.given.updateLane l _).stopLane l _
  · rw [stopLane_lanes, updateLane_lanes, getElem_setLane, Vector.set_set, laneRestarted_of_none hin]
    rfl

/-- The lane has an Export in hand whose rows are all written. -/
theorem restarted_waiting (hin : inHand m l = some (c, b)) (hr : l = 1 ∧ m.mover.allRows = true) :
    Restarted m u (haltLane l silentHalt u) l := by
  obtain ⟨rfl, hrows⟩ := hr
  obtain ⟨ns, rs, hraised⟩ := h.given
  obtain ⟨-, hstore, -, hmover⟩ := haltMarked_desk silentHalt 1 u
  have hwritten : abortedWritten m 1 = m := by
    unfold abortedWritten
    rw [hin]
    exact if_pos ⟨rfl, hrows⟩
  have hlane : laneRestarted m 1 = laneHalting m.lanes[(1 : LaneId)] silentHalt := by
    unfold laneRestarted laneHalting
    dsimp only
    rw [if_pos ⟨rfl, by rw [hin]; rfl, hrows⟩]
    cases m.lanes[(1 : LaneId)].halting with
    | none => rfl
    | some f => simp [Halt.merge, silentHalt]
  rw [haltLane_of_allRows silentHalt (h.inHand_eq.trans hin) ⟨rfl, by rw [h.mover]; exact hrows⟩]
  refine ⟨?_, by rw [haltMarked_lanes, h.lane, hlane], fun ⟨_, _, hno, _⟩ => ?_, fun _ => ⟨hmover, hstore⟩⟩
  · rw [hwritten]
    exact ⟨_, _, hraised.haltMarked silentHalt 1⟩
  · rw [hrows] at hno
    cases hno

/-- The lane's block in hand ends. -/
theorem restarted_ended (hin : inHand m l = some (c, b)) (hr : ¬ (l = 1 ∧ m.mover.allRows = true)) :
    Restarted m u (haltLane l silentHalt u) l := by
  obtain ⟨ns, rs, hraised⟩ := h.given
  have hinu := h.inHand_eq.trans hin
  have hru : ¬ (l = 1 ∧ u.mover.allRows = true) := by rwa [h.mover]
  have hh : u.lanes[l].halting = none := by
    rw [h.lane]
    by_contra hne
    obtain ⟨hl, hrows, -⟩ := h.waits hne
    exact hr ⟨hl, hrows⟩
  obtain ⟨hgiven, hlanes⟩ := hraised.haltLane_block silentHalt h.quiet h.clock hinu hh hru
  obtain ⟨hstays, hgoes⟩ := haltLane_block_lets_go silentHalt hinu hru
  have hwritten : abortedWritten m l = endingWritten m c.block (.failed .aborted 0) := by
    unfold abortedWritten
    rw [hin]
    exact if_neg hr
  have hlane : laneRestarted m l = laneStopped m.lanes[l] true := if_neg fun ⟨hl, _, hrows⟩ => hr ⟨hl, hrows⟩
  refine ⟨by rw [hwritten]; exact ⟨_, _, hgiven⟩, by rw [hlanes, h.lane, hlane]; rfl,
    fun ⟨hl, hm, _, _⟩ => hgoes hl (by rwa [h.mover]), fun hnot => hstays ?_⟩
  refine (lane_eq l).imp_right fun hl => ?_
  subst hl
  rw [h.mover]
  by_contra hm
  exact hnot ⟨rfl, hm, Bool.eq_false_iff.2 fun hrows => hr ⟨rfl, hrows⟩, by rw [hin]; rfl⟩

/-- A RESTART of everything halts a lane, whatever the lane has in hand. -/
theorem restarted_haltLane : Restarted m u (haltLane l silentHalt u) l := by
  rcases hin : inHand m l with _ | ⟨c, b⟩
  · exact restarted_between h hin
  · by_cases hr : l = 1 ∧ m.mover.allRows = true
    · exact restarted_waiting h hin hr
    · exact restarted_ended h hin hr

end Lane

/-! ## Both lanes -/

/-- The two lanes halted one after the other, lane 0 first. -/
def lanesRestarted (s : State) : State := haltLane 1 silentHalt (haltLane 0 silentHalt s)

/-- What the ended blocks leave of host memory. -/
def bothAborted (s : State) : State := abortedWritten (abortedWritten s 0) 1

theorem vector_two (v : Vector Lane 2) (f : LaneId → Lane) : (v.set (0 : LaneId) (f 0)).set (1 : LaneId) (f 1) = Vector.ofFn f := by
  refine Vector.ext fun i hi => ?_
  match i, hi with
  | 0, _ => simp
  | 1, _ => simp

section Both
variable {s : State} (hcalm : Calm s) (hsettled : HaltsSettled s)
include hcalm hsettled

/-- What a RESTART of everything leaves of the two lanes, the Export and host memory. -/
theorem lanesRestarted_spec :
    Reporting (bothAborted s) (lanesRestarted s) ∧ (lanesRestarted s).lanes = Vector.ofFn (laneRestarted s) ∧
    (LetsGo s 1 → (lanesRestarted s).mover = .idle ∧ (lanesRestarted s).store = (releaseHolder .mover s).store) ∧
    (¬ LetsGo s 1 → (lanesRestarted s).mover = s.mover ∧ (lanesRestarted s).store = s.store) := by
  obtain ⟨hnone, hwaits⟩ := hsettled
  have hzero : Restarted s s (haltLane 0 silentHalt s) 0 := restarted_haltLane
    ⟨rfl, rfl, rfl, ⟨_, _, Raised.calm hcalm⟩, hcalm.2, fun hne => absurd hnone hne⟩
  obtain ⟨hmover, hstore⟩ := hzero.stays fun hl => absurd hl.1 (by decide)
  have hclock : (haltLane 0 silentHalt s).clock = s.clock := by simp
  have hgiven := hzero.given
  have hlanes := hzero.lanes
  unfold lanesRestarted bothAborted
  generalize haltLane 0 silentHalt s = u at *
  have hfate := abortedWritten_fate s 0
  have hsame := abortedWritten_others s 0
  generalize abortedWritten s 0 = m at *
  have hbefore : Before m u 1 := by
    refine ⟨?_, ?_, ?_, hgiven, hfate.trans hcalm.2, fun hne => ⟨rfl, ?_⟩⟩
    · rw [hlanes, hsame, getElem_set_other _ _ (by decide)]
    · rw [hmover, hsame]
    · rw [hclock, hsame]
    · rw [hsame] at hne ⊢
      exact hwaits hne
  obtain ⟨hgiven1, hlanes1, hlets, hstays⟩ := restarted_haltLane hbefore
  have hlane1 : laneRestarted m 1 = laneRestarted s 1 := by rw [hsame]; rfl
  have hgo : LetsGo m 1 ↔ LetsGo s 1 := by rw [hsame]; rfl
  rw [hgo, hmover, hstore] at hstays
  rw [hgo] at hlets
  refine ⟨hgiven1, ?_, fun hl => ?_, hstays⟩
  · rw [hlanes1, hlanes, hlane1]
    exact vector_two s.lanes (laneRestarted s)
  · obtain ⟨hidle, hleft⟩ := hlets hl
    refine ⟨hidle, hleft.trans ?_⟩
    unfold releaseHolder
    rw [hstore]

end Both

/-! ## The reports (R179) -/

/-- The window and the reports of a restarted part, the full report write still ahead (R164). -/
def reportsRestarted (s : State) : State :=
  { s with
    window := { s.window with resetCause := s.window.resetCause ||| 4#3 }
    reports := { s.reports with notice := 0, iv := false, fault := none, suspended := false } }

theorem restartAll_eq (s : State) :
    restartAll s =
      if s.window.areaValid = true then fullReport true (reportsRestarted (lanesRestarted s))
      else reportsRestarted (lanesRestarted s) := by
  have hwindow : (lanesRestarted s).window = s.window := by simp [lanesRestarted]
  rw [← hwindow]
  rfl

theorem fullReport_always (s : State) : fullReport true s = markAll (raise .reset (announced s)) := by
  unfold fullReport
  dsimp only
  rw [Bool.or_true, if_pos rfl]
  rfl

/-- A state whose Report Writer differs in the records due alone. -/
theorem raised_of_due {m u : State} (hw : u.window = m.window) (hb : u.bus = m.bus)
    (hr : u.reports = { m.reports with due := u.reports.due }) : Raised m u [] u.reports.due := by
  refine ⟨hw, hb, by rw [noticed_nil]; exact hr, fun r => ?_⟩
  rw [noticed_nil]
  simp

/-- RESTART with target 15. -/
theorem exec_restartAll {s : State} {w head : Word} (hword : Captured s w head 4) (ht : attentionTarget w = 15) :
    exec .restart s = .next (finishEvent (restartAll (wordTaken s))) := by
  obtain ⟨hw, hcode⟩ := hword
  show takeWord 4 restartByWord s = _
  unfold takeWord
  rw [hw]
  dsimp only
  rw [if_pos hcode, restartByWord, portOf_eq_none (by omega), ht]
  rfl

/-- What a RESTART of everything leaves but for the full report write, after lanes left in `u`. -/
def allRestarted (s u : State) : State :=
  { bothAborted s with
    window := { s.window with resetCause := s.window.resetCause ||| 4#3 }
    store := u.store
    lanes := Vector.ofFn (laneRestarted s)
    mover := u.mover
    reports := { s.reports with notice := 0, iv := false, fault := none, suspended := false } }

theorem bothAborted_others (s : State) : bothAborted s = { s with bus := (bothAborted s).bus } := by
  unfold bothAborted
  rw [abortedWritten_others, abortedWritten_others s 0]

theorem bothAborted_fate (s : State) : (bothAborted s).bus.fate = s.bus.fate :=
  (abortedWritten_fate _ 1).trans (abortedWritten_fate s 0)

theorem lanesRestarted_others (s : State) :
    lanesRestarted s = { s with
      store := (lanesRestarted s).store, lanes := (lanesRestarted s).lanes, mover := (lanesRestarted s).mover
      reports := (lanesRestarted s).reports, bus := (lanesRestarted s).bus } := by
  unfold lanesRestarted
  rw [haltLane_others, haltLane_others 0 silentHalt s]

/-- Two halted lanes leave the reports with records due alone, once the restart has cleared them. -/
theorem reportsRestarted_eq {s : State} (hgiven : Reporting (bothAborted s) (lanesRestarted s))
    (hlanes : (lanesRestarted s).lanes = Vector.ofFn (laneRestarted s)) :
    reportsRestarted (lanesRestarted s) = (allRestarted s (lanesRestarted s)).setReports
      { (allRestarted s (lanesRestarted s)).reports with due := (lanesRestarted s).reports.due } := by
  obtain ⟨ns, rs, -, hbus, hreports, -⟩ := hgiven
  have hothers := lanesRestarted_others s
  have hsame := bothAborted_others s
  unfold allRestarted
  generalize lanesRestarted s = u at *
  generalize bothAborted s = m at *
  unfold reportsRestarted
  rw [hothers, hlanes, hbus, hreports, hsame]
  rfl

/-- The full report write of a RESTART of everything. -/
theorem raised_restartAll {s : State} (u : State) (due : List Record) :
    Raised { allRestarted s u with reports := { (allRestarted s u).reports with announce := false } }
      (fullReport true ((allRestarted s u).setReports { (allRestarted s u).reports with due }))
      [.reset] (.part :: recordsBeforePart) := by
  rw [fullReport_always]
  exact ((raised_of_due rfl rfl rfl).raise .reset).markAll

end Sys2Proof.Machine

namespace Sys2Proof.Proofs

open Sys2Proof Sys2Proof.Machine Sys2Proof.Safety

-- The proofs are elaborated in order: side by side, each would hold a thread of its own, and its memory.
set_option Elab.async false

/-- What RESTART with target 15 leaves with the Report Writer, the lanes halted before it (R164, R179). -/
theorem restartAll_reports {s : State} (hquiet : s.bus.fate = [])
    (hgiven : Reporting (bothAborted s) (lanesRestarted s)) (hlanes : (lanesRestarted s).lanes = Vector.ofFn (laneRestarted s)) :
    let t := finishEvent (restartAll s)
    let s1 := allRestarted s (lanesRestarted s)
    t = { s1 with reports := t.reports, bus := t.bus } ∧
    (s.window.areaValid = true →
      Reported { s1 with reports := { s1.reports with announce := false } } t [.reset] (.part :: recordsBeforePart) ∧
      ∀ r : Record, RecordStands t r) ∧
    (s.window.areaValid = false → t.reports = { s1.reports with due := [] } ∧ t.bus = s1.bus) := by
  have hbefore := reportsRestarted_eq hgiven hlanes
  have hfate : (allRestarted s (lanesRestarted s)).bus.fate = [] := (bothAborted_fate s).trans hquiet
  rw [restartAll_eq, hbefore]
  generalize lanesRestarted s = u at *
  generalize u.reports.due = due
  by_cases hvalid : s.window.areaValid = true
  · rw [if_pos hvalid]
    have hreported := (raised_restartAll (s := s) u due).finish hfate
    refine ⟨finishEvent_fullReport true _, fun _ => ⟨hreported, fun r => ?_⟩, fun hno => ?_⟩
    · obtain ⟨-, -, -, -, -, -, -, -, -, -, hstands, -⟩ := hreported
      exact hstands r (mem_writtenRecords ((reportsFlow_iff _).2 ⟨hvalid, rfl⟩) (mem_allRecords r))
    · rw [hvalid] at hno
      cases hno
  · have hinvalid := Bool.eq_false_iff.2 hvalid
    rw [if_neg hvalid, finishEvent_still _ (by unfold reportsFlow; exact (congrArg (· && _) hinvalid).trans (Bool.false_and _))]
    exact ⟨rfl, fun hno => absurd hno hvalid, fun _ => ⟨rfl, rfl⟩⟩

/-- Settles O42: the two lanes halted one after the other (`lanesRestarted_spec`), then the reports cleared and written
(`restartAll_reports`). -/
theorem restartAllRewritesReports : Obligations.RestartAllRewritesReports := by
  unfold Obligations.RestartAllRewritesReports
  intro s w head hword ht hcalm hsettled
  have hcalm' : Calm (wordTaken s) := hcalm
  have hsettled' : HaltsSettled (wordTaken s) := hsettled
  obtain ⟨hgiven, hlanes, hlets, hstays⟩ := lanesRestarted_spec hcalm' hsettled'
  obtain ⟨hshape, hvalid, hinvalid⟩ := restartAll_reports (s := wordTaken s) hcalm.2 hgiven hlanes
  refine ⟨_, exec_restartAll hword ht, ?_⟩
  generalize finishEvent (restartAll (wordTaken s)) = t at *
  generalize lanesRestarted (wordTaken s) = u at *
  have hstore : t.store = u.store := by rw [hshape]; rfl
  have hmover : t.mover = u.mover := by rw [hshape]; rfl
  rw [← hmover, ← hstore] at hlets hstays
  unfold allRestarted at hshape hvalid hinvalid
  rw [← hstore, ← hmover] at hshape hvalid hinvalid
  refine ⟨hshape, fun hl => ?_, fun hnot => hstays fun hl => hnot hl.2, hvalid, hinvalid⟩
  obtain ⟨hidle, hleft⟩ := hlets ⟨rfl, hl⟩
  exact ⟨hidle, storeLeft_congr (storeLeft_releaseHolder .mover s) hleft⟩

end Sys2Proof.Proofs
end

section
/-! EXPORT FRAME and EXPORT SCREEN taken, or ended at the first check they fail (R146, R149, R186). -/

namespace Sys2Proof.Machine

open Safety

-- The proofs are elaborated in order: side by side, each would hold a thread of its own, and its memory.
set_option Elab.async false

/-! ## The slots the Export Mover holds (R32, R146) -/

/-- The Export Mover holds a slot only while it moves a frame. -/
theorem mover_free_of_not_moving {s : State} (hb : HoldersBounded s) (hm : ∀ p o i w h n g r, s.mover ≠ .moving p o i w h n g r)
    (p : PortId) (i : SlotId) : s.store[p].slots[i].locks.mem .mover = false := by
  obtain ⟨-, -, -, hmover⟩ := hb
  by_contra hheld
  obtain ⟨o, w, h, n, g, r, hmoving⟩ := hmover p i (eq_true_of_ne_false hheld)
  exact hm p o i w h n g r hmoving

theorem Slot.release_lock {t : Slot} (hfree : t.locks.mem .mover = false) (hkept : t.discard = false) :
    ({ t with locks := t.locks.add .mover } : Slot).release .mover = t := by
  have hlocks : (t.locks.add .mover).remove .mover = t.locks := by
    have hmover : t.locks.mover = false := hfree
    show ({ t.locks with mover := false } : LockSet) = t.locks
    rw [← hmover]
  have hmem : (t.locks.add .mover).mem .mover = true := rfl
  unfold Slot.release
  dsimp only
  rw [if_pos hmem, hlocks, hkept, Bool.and_false, if_neg Bool.false_ne_true]
  show ({ t with discard := false } : Slot) = t
  rw [← hkept]

theorem StorePort.release_eq {q r : StorePort} {h : Holder} (hslots : ∀ i : SlotId, (q.slots[i]).release h = r.slots[i])
    (horder : q.order = r.order) : q.release h = r := by
  have hall : (Vector.ofFn fun i : SlotId => (q.slots[i]).release h) = r.slots :=
    Vector.ext fun i hi => (Vector.getElem_ofFn hi).trans (hslots ⟨i, hi⟩)
  unfold StorePort.release
  rw [hall, horder]

/-- A slot that the Export Mover has locked and lets go again is as it was, if it is not to be discarded. -/
theorem StorePort.release_lock {q : StorePort} {i : SlotId} (hfree : ∀ j : SlotId, q.slots[j].locks.mem .mover = false)
    (hkept : q.slots[i].discard = false) : (q.lock i .mover).release .mover = q := by
  refine StorePort.release_eq (fun j => ?_) rfl
  unfold StorePort.lock
  rw [getElem_set_fin]
  split
  · rename_i hij
    subst hij
    exact Slot.release_lock (hfree i) hkept
  · exact Slot.release_of_not_mem (hfree j)

theorem lockExport_released {s : State} {p : PortId} {i : SlotId} (o : ExportOperands)
    (hfree : ∀ (q : PortId) (j : SlotId), s.store[q].slots[j].locks.mem .mover = false)
    (hkept : s.store[p].slots[i].discard = false) : (releaseHolder .mover (lockExport p o i s)).store = s.store := by
  refine Vector.ext fun q hq => (Vector.getElem_ofFn hq).trans ?_
  have hport : (lockExport p o i s).store[(⟨q, hq⟩ : PortId)] = if p = ⟨q, hq⟩ then s.store[p].lock i .mover else s.store[q] :=
    getElem_set_fin _ _ _ _
  refine (congrArg (fun x : StorePort => x.release .mover) hport).trans ?_
  split
  · rename_i hpq
    subst hpq
    exact StorePort.release_lock (hfree _) hkept
  · exact StorePort.release_eq (fun j => Slot.release_of_not_mem (hfree ⟨q, hq⟩ j)) rfl

/-! ## An Export block that ends at its take -/

/-- An Export that ends where it would have begun leaves the frame store and the Export record as they were (R145, R167). -/
theorem exportEnds_of_endExport {i : Instr} {s u : State} {k : Kind} {c : Chain} {b : InHand} {e : Ending}
    (hblock : BlockInHand s 1 k c b) (hm : s.mover = .idle) (hexec : exec i s = .next (finishEvent (endExport e u)))
    (hu : u = { s with store := u.store, mover := u.mover }) (hstore : (releaseHolder .mover u).store = s.store) :
    ExportEnds i s c b e := by
  obtain ⟨hin, -, hcalm⟩ := hblock
  have hdesk : SameDesk s u := by
    rw [hu]
    exact ⟨rfl, rfl, rfl, rfl⟩
  have hbus : u.bus = s.bus := by rw [hu]
  have hshape := finishEvent_exportEnd (s := s) (u := endExport e u) (endExport_mover e u) fun f hf =>
    (endExport_unseen e u f hf).trans (by rw [hu]; exact hf s u.store s.lanes u.mover s.reports s.bus)
  refine ⟨_, hexec, hshape.trans ?_, endExport_ends hdesk hbus hcalm hin e⟩
  rw [finishEvent_store, endExport_store, hstore, ← hm]

/-- An Export block that has locked nothing ends. -/
theorem exportEnds_unlocked {i : Instr} {s : State} {k : Kind} {c : Chain} {b : InHand} {e : Ending} (hblock : BlockInHand s 1 k c b)
    (hm : s.mover = .idle) (hb : HoldersBounded s) (hexec : exec i s = .next (finishEvent (endExport e s))) : ExportEnds i s c b e :=
  exportEnds_of_endExport hblock hm hexec rfl
    (releaseHolder_store_of_free (mover_free_of_not_moving hb fun _ _ _ _ _ _ _ _ hmoving => by rw [hm] at hmoving; cases hmoving))

/-! ## Check 2: the body and the operands (R146, R186) -/

theorem exportOperands_eq (body : List Byte) :
    exportOperands body = { dest := number body 0 8, stride := number body 8 4, room := number body 12 4 } := by
  unfold exportOperands
  rw [field_eq_number, field_eq_number, field_eq_number]

theorem ExportOperands.valid_iff (o : ExportOperands) :
    o.valid = true ↔ o.dest % 4 = 0 ∧ o.stride ≠ 0 ∧ o.stride % 4 = 0 ∧ o.dest + o.room ≤ 2 ^ 64 := decide_eq_true_iff

section Checks
variable {b : InHand}

theorem exportChecks_badLength (h : b.body.length ≠ 32) : exportChecks b = some (.failed .badValue 255) := if_pos h

theorem exportChecks_invalid (hl : b.body.length = 32) (hv : ¬ (exportOperands b.body).valid = true) :
    exportChecks b = some (.failed .badValue 0) := by
  unfold exportChecks
  rw [if_neg (not_not.2 hl), if_neg hv]

theorem exportChecks_valid (hl : b.body.length = 32) (hv : (exportOperands b.body).valid = true) : exportChecks b = none := by
  unfold exportChecks
  rw [if_neg (not_not.2 hl), if_pos hv]

end Checks

/-! ## EXPORT FRAME (R146) -/

section Frame
variable {s : State} {c : Chain} {b : InHand} {p : PortId} (hm : s.mover = .idle) (hblock : BlockInHand s 1 .exportFrame c b)
include hm hblock

theorem exportFrame_inHand : exportInHand s .exportFrame = some b := by
  obtain ⟨hin, hkind, -⟩ := hblock
  exact exportInHand_eq_some.2 ⟨hm, ⟨c, hin⟩, hkind⟩

theorem exec_exportFrame_badTarget (ht : 12 ≤ b.target) :
    exec .exportFrame s = .next (finishEvent (endExport (.failed .badTarget 0) s)) := by
  show execExportFrame s = _
  unfold execExportFrame
  rw [exportFrame_inHand hm hblock]
  dsimp only
  rw [portOf_eq_none ht]

theorem exec_exportFrame_refused {e : Ending} (ht : b.target = p.val) (he : exportChecks b = some e) :
    exec .exportFrame s = .next (finishEvent (endExport e s)) := by
  show execExportFrame s = _
  unfold execExportFrame
  rw [exportFrame_inHand hm hblock]
  dsimp only
  rw [portOf_of_eq ht]
  dsimp only
  rw [he]

theorem exec_exportFrame (ht : b.target = p.val) (hc : exportChecks b = none) :
    exec .exportFrame s = .next (finishEvent (takeExportFrame p (exportOperands b.body) s)) := by
  show execExportFrame s = _
  unfold execExportFrame
  rw [exportFrame_inHand hm hblock]
  dsimp only
  rw [portOf_of_eq ht]
  dsimp only
  rw [hc]

end Frame

section TakeFrame
variable {s : State} {p : PortId} {o : ExportOperands} {i : SlotId}

/-- The port has no frame to give (R146, check 3). -/
def NoFrame (s : State) (p : PortId) : Prop :=
  s.ports[p].undefined = true ∨ s.ports[p].state = .parked ∨ s.ports[p].state = .seeking ∨ s.store[p].order = []

theorem takeExportFrame_none (h : NoFrame s p) : takeExportFrame p o s = endExport (.failed .noFrame 0) s := by
  unfold takeExportFrame
  dsimp only
  split
  · rfl
  · rename_i hport
    have hempty : s.store[p].order = [] := by
      rcases h with hundefined | hparked | hseeking | hempty
      · exact absurd (.inl hundefined) hport
      · exact absurd (.inr (.inl hparked)) hport
      · exact absurd (.inr (.inr hseeking)) hport
      · exact hempty
    have hnewest : s.store[p].newest = none := congrArg List.getLast? hempty
    rw [hnewest]

/-- Checks 5 and 6 of R146 are of the newest frame, locked. -/
theorem takeExportFrame_some (h : ¬ NoFrame s p) (hi : s.store[p].order.getLast? = some i) :
    let slot := s.store[p].slots[i]
    (∀ r, frameMisfit o slot.width slot.height = some r →
      takeExportFrame p o s = endExport (.failed r 0) (lockExport p o i s)) ∧
    (frameMisfit o slot.width slot.height = none → takeExportFrame p o s = lockExport p o i s) := by
  have hport : ¬ (s.ports[p].undefined = true ∨ s.ports[p].state = .parked ∨ s.ports[p].state = .seeking) := fun hno =>
    h (hno.imp_right (Or.imp_right .inl))
  have hnewest : s.store[p].newest = some i := hi
  unfold takeExportFrame
  dsimp only
  rw [if_neg hport, hnewest]
  dsimp only
  refine ⟨fun r hr => ?_, fun hfit => ?_⟩
  · rw [hr]
  · rw [hfit]

/-- The newest READY slot of a port carries no discard mark (R25). -/
theorem newest_kept (hs : SlotsCoherent s) (hi : s.store[p].order.getLast? = some i) : s.store[p].slots[i].discard = false := by
  obtain ⟨⟨-, -, -, -, horder⟩, -⟩ := hs p
  exact ((horder i).1 (List.mem_of_getLast? hi)).2

end TakeFrame

/-! ## EXPORT SCREEN (R149) -/

section Screen
variable {s : State} {c : Chain} {b : InHand} {d : DisplayId} (hm : s.mover = .idle) (hblock : BlockInHand s 1 .exportScreen c b)
include hm hblock

theorem exportScreen_inHand : exportInHand s .exportScreen = some b := by
  obtain ⟨hin, hkind, -⟩ := hblock
  exact exportInHand_eq_some.2 ⟨hm, ⟨c, hin⟩, hkind⟩

theorem exec_exportScreen_badTarget (ht : 4 ≤ b.target) :
    exec .exportScreen s = .next (finishEvent (endExport (.failed .badTarget 0) s)) := by
  show execExportScreen s = _
  unfold execExportScreen
  rw [exportScreen_inHand hm hblock]
  dsimp only
  rw [displayOf_eq_none ht]

theorem exec_exportScreen_refused {e : Ending} (ht : b.target = d.val) (he : exportChecks b = some e) :
    exec .exportScreen s = .next (finishEvent (endExport e s)) := by
  show execExportScreen s = _
  unfold execExportScreen
  rw [exportScreen_inHand hm hblock]
  dsimp only
  rw [displayOf_of_eq ht]
  dsimp only
  rw [he]

theorem exec_exportScreen (ht : b.target = d.val) (hc : exportChecks b = none) :
    exec .exportScreen s = .next (finishEvent (takeExportScreen d (exportOperands b.body) s)) := by
  show execExportScreen s = _
  unfold execExportScreen
  rw [exportScreen_inHand hm hblock]
  dsimp only
  rw [displayOf_of_eq ht]
  dsimp only
  rw [hc]

end Screen

section TakeScreen
variable {s : State} {d : DisplayId} {o : ExportOperands}

/-- The display shows LIVE frames (R149, check 3). -/
def Served (s : State) (d : DisplayId) : Prop := s.displays[d].configured = true ∧ s.displays[d].live = true ∧ startsLive s d

theorem screenServed_iff : screenServed s d = true ↔ Served s d := by
  rw [screenServed, Bool.and_eq_true, Bool.and_eq_true, goesLive_iff, and_assoc]
  rfl

theorem takeExportScreen_dark (h : ¬ Served s d) : takeExportScreen d o s = endExport (.failed .displayDark 0) s :=
  if_neg (mt screenServed_iff.1 h)

/-- Checks 4 and 5 of R149 are of the display's settings. -/
theorem takeExportScreen_served (h : Served s d) :
    let k := s.displays[d].settings
    (∀ r, screenMisfit o k.width k.height = some r → takeExportScreen d o s = endExport (.failed r 0) s) ∧
    (screenMisfit o k.width k.height = none → takeExportScreen d o s = { s with mover := .waiting d o }) := by
  unfold takeExportScreen
  dsimp only
  rw [if_pos (screenServed_iff.2 h)]
  refine ⟨fun r hr => ?_, fun hfit => ?_⟩
  · rw [hr]
  · rw [hfit]

end TakeScreen

/-! ## Check of stride and room (R146, R149) -/

section Fit
variable {o : ExportOperands} {w h : Nat}

theorem frameMisfit_narrow (hw : o.stride < 2 * w) : frameMisfit o w h = some .badValue := if_pos hw

theorem frameMisfit_short (hw : 2 * w ≤ o.stride) (hr : o.room < h * o.stride) : frameMisfit o w h = some .roomShort := by
  rw [frameMisfit, if_neg (Nat.not_lt.2 hw), if_pos hr]

theorem frameMisfit_fits (hw : 2 * w ≤ o.stride) (hr : h * o.stride ≤ o.room) : frameMisfit o w h = none := by
  rw [frameMisfit, if_neg (Nat.not_lt.2 hw), if_neg (Nat.not_lt.2 hr)]

theorem screenMisfit_narrow (hw : o.stride < 4 * w) : screenMisfit o w h = some .badValue := if_pos hw

theorem screenMisfit_short (hw : 4 * w ≤ o.stride) (hr : o.room < h * o.stride) : screenMisfit o w h = some .roomShort := by
  rw [screenMisfit, if_neg (Nat.not_lt.2 hw), if_pos hr]

theorem screenMisfit_fits (hw : 4 * w ≤ o.stride) (hr : h * o.stride ≤ o.room) : screenMisfit o w h = none := by
  rw [screenMisfit, if_neg (Nat.not_lt.2 hw), if_neg (Nat.not_lt.2 hr)]

end Fit

/-- An event that changes no field the Report Writer reads adds nothing to what it writes. -/
theorem finishEvent_taken {s u : State} (hcalm : Calm s) (hwindow : u.window = s.window) (hbus : u.bus = s.bus)
    (hreports : u.reports = s.reports) :
    finishEvent u = { u with reports := (finishEvent u).reports, bus := (finishEvent u).bus } ∧ Reported s (finishEvent u) [] [] :=
  let others (v x : State) : State := { x with reports := v.reports, bus := v.bus }
  ⟨finishEvent_others others (fun _ => rfl) (fun _ _ _ _ => rfl) fun _ => rfl,
    ((Raised.calm hcalm).step hwindow hbus hreports).finish hcalm.2⟩

end Sys2Proof.Machine

namespace Sys2Proof.Proofs

open Sys2Proof Sys2Proof.Machine Sys2Proof.Safety

-- The proofs are elaborated in order: side by side, each would hold a thread of its own, and its memory.
set_option Elab.async false

section Taken
variable {s : State} {c : Chain} {b : InHand} {o : ExportOperands} (hm : s.mover = .idle) (hb : HoldersBounded s)
  (ho : exportOperands b.body = o)
include hm hb ho

/-- The newest frame of a port that has one is locked, and the lock is undone where the frame does not fit (R146). -/
theorem exportFrame_takes {p : PortId} {i : SlotId} (hs : SlotsCoherent s) (hblock : BlockInHand s 1 .exportFrame c b)
    (ht : b.target = p.val) (hc : exportChecks b = none) (hframe : ¬ NoFrame s p) (hi : s.store[p].order.getLast? = some i) :
    let slot := s.store[p].slots[i]
    (o.stride < 2 * slot.width → ExportEnds .exportFrame s c b (.failed .badValue 0)) ∧
    (2 * slot.width ≤ o.stride → o.room < slot.height * o.stride → ExportEnds .exportFrame s c b (.failed .roomShort 0)) ∧
    (2 * slot.width ≤ o.stride → slot.height * o.stride ≤ o.room →
      ∃ t, exec .exportFrame s = .next t ∧
        t = { s with
          store := s.store.set p { s.store[p] with
            slots := s.store[p].slots.set i { slot with locks := { slot.locks with mover := true } } }
          mover := .moving p o i slot.width slot.height slot.count slot.stamp 0
          reports := t.reports, bus := t.bus } ∧
        Reported s t [] []) := by
  have hexec := exec_exportFrame hm hblock ht hc
  rw [ho] at hexec
  obtain ⟨hmisfit, hfits⟩ := takeExportFrame_some (o := o) hframe hi
  have hends {r : Reason} (hr : frameMisfit o s.store[p].slots[i].width s.store[p].slots[i].height = some r) :
      ExportEnds .exportFrame s c b (.failed r 0) := by
    rw [hmisfit r hr] at hexec
    exact exportEnds_of_endExport hblock hm hexec rfl (lockExport_released o
      (mover_free_of_not_moving hb fun _ _ _ _ _ _ _ _ hmoving => by rw [hm] at hmoving; cases hmoving) (newest_kept hs hi))
  refine ⟨fun hw => hends (frameMisfit_narrow hw), fun hw hr => hends (frameMisfit_short hw hr), fun hw hr => ?_⟩
  rw [hfits (frameMisfit_fits hw hr)] at hexec
  obtain ⟨-, -, hcalm⟩ := hblock
  obtain ⟨hshape, hreported⟩ := finishEvent_taken (u := lockExport p o i s) hcalm rfl rfl rfl
  exact ⟨_, hexec, hshape, hreported⟩

/-- The Export of a display that shows LIVE frames waits for its next frame start (R149). -/
theorem exportScreen_takes {d : DisplayId} (hblock : BlockInHand s 1 .exportScreen c b) (ht : b.target = d.val)
    (hc : exportChecks b = none) (hserved : Served s d) :
    let k := s.displays[d].settings
    (o.stride < 4 * k.width → ExportEnds .exportScreen s c b (.failed .badValue 0)) ∧
    (4 * k.width ≤ o.stride → o.room < k.height * o.stride → ExportEnds .exportScreen s c b (.failed .roomShort 0)) ∧
    (4 * k.width ≤ o.stride → k.height * o.stride ≤ o.room →
      ∃ t, exec .exportScreen s = .next t ∧ t = { s with mover := .waiting d o, reports := t.reports, bus := t.bus } ∧
        Reported s t [] []) := by
  have hexec := exec_exportScreen hm hblock ht hc
  rw [ho] at hexec
  obtain ⟨hmisfit, hfits⟩ := takeExportScreen_served (o := o) hserved
  have hends {r : Reason} (hr : screenMisfit o s.displays[d].settings.width s.displays[d].settings.height = some r) :
      ExportEnds .exportScreen s c b (.failed r 0) := by
    rw [hmisfit r hr] at hexec
    exact exportEnds_unlocked hblock hm hb hexec
  refine ⟨fun hw => hends (screenMisfit_narrow hw), fun hw hr => hends (screenMisfit_short hw hr), fun hw hr => ?_⟩
  rw [hfits (screenMisfit_fits hw hr)] at hexec
  obtain ⟨-, -, hcalm⟩ := hblock
  obtain ⟨hshape, hreported⟩ := finishEvent_taken (u := { s with mover := .waiting d o }) hcalm rfl rfl rfl
  exact ⟨_, hexec, hshape, hreported⟩

end Taken

/-- Settles O58: the checks in their order, each with the ending it gives (`exportEnds_unlocked`), and the take (`exportFrame_takes`,
`exportScreen_takes`). -/
theorem exportBlocksAreTaken : Obligations.ExportBlocksAreTaken := by
  unfold Obligations.ExportBlocksAreTaken
  intro s c b o valid hm hb hs
  have ho : exportOperands b.body = o := exportOperands_eq b.body
  have hvalid : (exportOperands b.body).valid = true ↔ valid := by
    rw [ho]
    exact o.valid_iff
  have hinvalid (hl : b.body.length = 32) (hv : ¬ valid) : exportChecks b = some (.failed .badValue 0) :=
    exportChecks_invalid hl (mt hvalid.1 hv)
  have hchecked (hl : b.body.length = 32) (hv : valid) : exportChecks b = none := exportChecks_valid hl (hvalid.2 hv)
  refine ⟨fun hblock => ⟨fun ht => exportEnds_unlocked hblock hm hb (exec_exportFrame_badTarget hm hblock ht), fun p ht => ?_⟩,
    fun hblock => ⟨fun ht => exportEnds_unlocked hblock hm hb (exec_exportScreen_badTarget hm hblock ht), fun d ht => ?_⟩⟩
  · have hrefused {e : Ending} (he : exportChecks b = some e) : ExportEnds .exportFrame s c b e :=
      exportEnds_unlocked hblock hm hb (exec_exportFrame_refused hm hblock ht he)
    refine ⟨fun hl => hrefused (exportChecks_badLength hl), fun hl hv => hrefused (hinvalid hl hv), fun hl hv hnone => ?_,
      fun i hl hv hframe hi => exportFrame_takes hm hb ho hs hblock ht (hchecked hl hv) hframe hi⟩
    have hexec := exec_exportFrame hm hblock ht (hchecked hl hv)
    rw [takeExportFrame_none hnone] at hexec
    exact exportEnds_unlocked hblock hm hb hexec
  · have hrefused {e : Ending} (he : exportChecks b = some e) : ExportEnds .exportScreen s c b e :=
      exportEnds_unlocked hblock hm hb (exec_exportScreen_refused hm hblock ht he)
    refine ⟨fun hl => hrefused (exportChecks_badLength hl), fun hl hv => hrefused (hinvalid hl hv), fun hl hv hdark => ?_,
      fun hl hv hserved => exportScreen_takes hm hb ho hblock ht (hchecked hl hv) hserved⟩
    have hexec := exec_exportScreen hm hblock ht (hchecked hl hv)
    rw [takeExportScreen_dark hdark] at hexec
    exact exportEnds_unlocked hblock hm hb hexec

end Sys2Proof.Proofs
end

section
/-! ENTER STABLING: the ports that run are parked, the lines dropped, and a COPYING screen Export ended (R148, R152, R181, R182). -/

namespace Sys2Proof.Machine

open Safety

-- The proofs are elaborated in order: side by side, each would hold a thread of its own, and its memory.
set_option Elab.async false

/-! ## One port (R34, R43, R48, R63) -/

/-- A port with its slots and its soil record. -/
structure PortView where
  port : CapturePort
  slots : StorePort
  soil : Soil

def portView (s : State) (p : PortId) : PortView := { port := s.ports[p], slots := s.store[p], soil := s.soil[p] }

/-- The port stopped and parked. -/
def PortView.park (v : PortView) : PortView :=
  { port := { v.port with state := .parked, frame := none, silence := none, sums := noSums }
    slots := (slotsAborted v.slots v.port.frame).withdraw
    soil := { learningDropped v.soil with intervalCount := 0 } }

/-- The port as an entry to stabling leaves it (R182). -/
def PortView.stable (v : PortView) : PortView := if v.port.state = .parked then v else v.park

/-- The notices of a port that an entry to stabling parks. -/
def PortView.notices (v : PortView) : List Notice := if v.port.state = .parked then [] else dropNotices v.soil ++ [.camera]

/-- The records of a port that an entry to stabling parks. -/
def PortView.records (v : PortView) (p : PortId) : List Record :=
  if v.port.state = .parked then [] else .camera p :: dropRecords p v.soil

theorem parkPort_view (s : State) (p q : PortId) : portView (parkPort p s) q = if p = q then (portView s q).park else portView s q := by
  obtain ⟨hports, hstore, hsoil, -⟩ := parkPort_spec p s
  obtain ⟨-, hslots, -, -⟩ := stopPort_spec p s
  unfold portView
  rw [hports, hstore, hslots, hsoil, getElem_set_fin, getElem_set_fin, getElem_set_fin]
  by_cases hp : p = q
  · subst hp
    simp only [if_true]
    rfl
  · simp only [if_neg hp]

theorem parkRunning_view (s : State) (p q : PortId) :
    portView (parkRunning s p) q = if p = q then (portView s q).stable else portView s q := by
  unfold parkRunning
  split
  · rename_i hparked
    split
    · rename_i hp
      subst hp
      exact (if_pos hparked).symm
    · rfl
  · rename_i hruns
    rw [parkPort_view]
    refine if_ctx_congr Iff.rfl (fun hp => ?_) fun _ => rfl
    subst hp
    exact (if_neg hruns).symm

/-- The ports are parked one after another, each as it stood. -/
theorem parkPorts_view {ps : List PortId} (hnodup : ps.Nodup) (s : State) (q : PortId) :
    portView (ps.foldl parkRunning s) q = if q ∈ ps then (portView s q).stable else portView s q := by
  induction ps generalizing s with
  | nil => simp
  | cons p ps ih =>
    obtain ⟨hp, hnodup⟩ := List.nodup_cons.1 hnodup
    rw [List.foldl_cons, ih hnodup, parkRunning_view]
    by_cases hq : p = q
    · subst hq
      simp [hp]
    · simp [hq, Ne.symm hq]

theorem parkRunning_evalQueue (s : State) (p : PortId) :
    (parkRunning s p).evalQueue = s.evalQueue.filter fun e => decide (e.port = p → s.ports[p].state = .parked) := by
  unfold parkRunning
  split
  · rename_i hparked
    exact (List.filter_eq_self.2 fun e _ => decide_eq_true fun _ => hparked).symm
  · rename_i hruns
    obtain ⟨-, -, -, hqueue⟩ := parkPort_spec p s
    obtain ⟨-, -, -, hstop⟩ := stopPort_spec p s
    rw [hqueue, hstop]
    simp only [hruns, imp_false]

theorem parkPorts_evalQueue {ps : List PortId} (hnodup : ps.Nodup) (s : State) :
    (ps.foldl parkRunning s).evalQueue = s.evalQueue.filter fun e => decide (e.port ∈ ps → s.ports[e.port].state = .parked) := by
  induction ps generalizing s with
  | nil => simp
  | cons p ps ih =>
    obtain ⟨hp, hnodup⟩ := List.nodup_cons.1 hnodup
    rw [List.foldl_cons, ih hnodup, parkRunning_evalQueue, List.filter_filter]
    refine List.filter_congr fun e _ => ?_
    have hport (hq : p ≠ e.port) : (parkRunning s p).ports[e.port] = s.ports[e.port] :=
      congrArg PortView.port ((parkRunning_view s p e.port).trans (if_neg hq))
    by_cases hq : p = e.port
    · subst hq
      simp [hp]
    · simp [hport hq, Ne.symm hq]

section Ports
variable {m s : State} {ns : List Notice} {rs : List Record}

theorem Raised.parkRunning (h : Raised m s ns rs) (p : PortId) :
    Raised m (parkRunning s p) (ns ++ (portView s p).notices) (rs ++ (portView s p).records p) := by
  unfold Machine.parkRunning PortView.notices PortView.records portView
  dsimp only
  split
  · simpa only [List.append_nil] using h
  · refine (h.parkPort p).congr (fun n => by rw [List.append_assoc]) fun r => ?_
    simp only [List.mem_append, List.mem_cons]
    tauto

theorem Raised.parkPorts {ps : List PortId} (hnodup : ps.Nodup) (h : Raised m s ns rs) :
    Raised m (ps.foldl Machine.parkRunning s) (ns ++ ps.flatMap fun p => (portView s p).notices)
      (rs ++ ps.flatMap fun p => (portView s p).records p) := by
  induction ps generalizing s ns rs with
  | nil => simpa using h
  | cons p ps ih =>
    obtain ⟨hp, hnodup⟩ := List.nodup_cons.1 hnodup
    have hrest {q : PortId} (hq : q ∈ ps) : portView (Machine.parkRunning s p) q = portView s q :=
      (parkRunning_view s p q).trans (if_neg fun (he : p = q) => hp (he ▸ hq))
    have hall := ih hnodup (h.parkRunning p)
    rw [List.flatMap_congr fun q hq => by rw [hrest hq], List.flatMap_congr (g := fun q => (portView s q).records q)
      fun q hq => by rw [hrest hq]] at hall
    simpa only [List.foldl_cons, List.flatMap_cons, List.append_assoc] using hall

end Ports

/-! ## The entry (R182) -/

/-- What an entry to stabling leaves of the ports, the queue and the wake record. -/
structure PortsStable (s t : State) : Prop where
  wakeRecord : ∀ p : PortId, t.wakeRecord[p] = decide (s.ports[p].state ≠ .parked)
  evalQueue : t.evalQueue = s.evalQueue.filter fun e => decide (s.ports[e.port].state = .parked)
  view : ∀ p : PortId, portView t p = (portView s p).stable

theorem PortsStable.congr {s t u : State} (h : PortsStable s t) (ports : u.ports = t.ports := by simp)
    (store : u.store = t.store := by simp) (soil : u.soil = t.soil := by simp) (queue : u.evalQueue = t.evalQueue := by simp)
    (record : u.wakeRecord = t.wakeRecord := by simp) : PortsStable s u := by
  obtain ⟨hrecord, hqueue, hview⟩ := h
  refine ⟨by rwa [record], queue.trans hqueue, fun p => ?_⟩
  rw [← hview p]
  unfold portView
  rw [ports, store, soil]

theorem portsStable_portsParked (s : State) : PortsStable s (portsParked s) := by
  refine ⟨fun p => ?_, ?_, fun p => ?_⟩
  · have hrecord : (portsParked s).wakeRecord = Vector.ofFn fun p => decide (s.ports[p].state ≠ .parked) :=
      parkPorts_unseen _ _ State.wakeRecord fun _ _ _ _ _ _ => rfl
    rw [hrecord]
    exact getElem_ofFn_fin _ _
  · refine (parkPorts_evalQueue (List.nodup_finRange 12) _).trans (List.filter_congr fun e _ => ?_)
    simp
  · exact (parkPorts_view (List.nodup_finRange 12) _ p).trans (if_pos (List.mem_finRange p))

theorem portsStable_stabled (s : State) : PortsStable s (stabled s) := by
  have hparked := portsStable_portsParked s
  unfold stabled
  generalize portsParked s = u at *
  exact hparked.congr

theorem stabled_clear (s : State) : (stabled s).clear = {} := by
  unfold stabled
  generalize portsParked s = u
  exact (recomputeLines_clear _).trans (clearLines_of_off (.inl nofun))

/-- An entry to stabling reaches the ports, the queue, the lines, the mode and the wake record, but for a screen Export. -/
theorem stabled_others (s : State) :
    stabled s = { s with
      ports := (stabled s).ports, store := (stabled s).store, soil := (stabled s).soil, evalQueue := (stabled s).evalQueue
      clear := (stabled s).clear, mode := .stabled, wakeRecord := (stabled s).wakeRecord, reports := (stabled s).reports } := by
  have hmode : (stabled s).mode = .stabled := by simp [stabled]
  let others (v x : State) : State := { x with
    ports := v.ports, store := v.store, soil := v.soil, evalQueue := v.evalQueue, clear := v.clear, mode := v.mode
    wakeRecord := v.wakeRecord, reports := v.reports }
  have hparked (v : State) : others v (portsParked s) = others v s :=
    parkPorts_unseen (List.finRange 12) _ (others v) fun _ _ _ _ _ _ => rfl
  have hkept (v : State) : others v (stabled s) = others v s := by
    refine Eq.trans ?_ (hparked v)
    unfold stabled
    generalize portsParked s = u
    exact recomputeLines_unseen { u with mode := .stabled } (others v) fun _ _ _ => rfl
  generalize stabled s = v at *
  have hsame : v = others v s := hkept v
  rwa [← hmode]

/-- The notices of the ports that an entry to stabling parks. -/
def parkNotices (s : State) : List Notice := (List.finRange 12).flatMap fun p => (portView s p).notices

/-- The records of the ports that an entry to stabling parks. -/
def parkRecords (s : State) : List Record := (List.finRange 12).flatMap fun p => (portView s p).records p

theorem raised_portsParked {s : State} (hcalm : Calm s) : Raised s (portsParked s) (parkNotices s) (parkRecords s) := by
  have hstart : Raised s { s with wakeRecord := Vector.ofFn fun p => decide (s.ports[p].state ≠ .parked) } [] [] :=
    (Raised.calm hcalm).step rfl rfl rfl
  have hparked := hstart.parkPorts (List.nodup_finRange 12)
  rw [List.nil_append, List.nil_append] at hparked
  exact hparked

theorem raised_stabled {s : State} (hcalm : Calm s) :
    Raised s (stabled s) (parkNotices s ++ clearNotices s (stabled s)) (parkRecords s ++ clearRecords s (stabled s)) := by
  have hparked := raised_portsParked hcalm
  have hclear : (portsParked s).clear = s.clear := by simp [portsParked]
  unfold stabled clearNotices clearRecords
  generalize portsParked s = u at *
  rw [← hclear]
  exact Raised.recomputeLines (u := { u with mode := .stabled }) (hparked.step rfl rfl rfl)

/-- The ports that an entry to stabling parks are those that run. -/
theorem flatMap_running {α : Type} (s : State) (f : PortId → List α) (ps : List PortId) :
    (ps.filter fun p => decide (s.ports[p].state ≠ .parked)).flatMap f =
      ps.flatMap fun p => if s.ports[p].state = .parked then [] else f p := by
  induction ps with
  | nil => rfl
  | cons p ps ih =>
    rw [List.filter_cons, List.flatMap_cons, ← ih]
    by_cases hp : s.ports[p].state = .parked
    · rw [if_neg (mt of_decide_eq_true (not_not.2 hp)), if_pos hp, List.nil_append]
    · rw [if_pos (decide_eq_true hp), if_neg hp, List.flatMap_cons]

/-- From `s` to `w`, within one event, the part has entered stabling, but for a COPYING screen Export and the part record. -/
structure Stabling (s w : State) : Prop where
  others : w = { s with
    ports := w.ports, store := w.store, soil := w.soil, evalQueue := w.evalQueue, clear := w.clear, mode := .stabled
    wakeRecord := w.wakeRecord, reports := w.reports }
  stable : PortsStable s w
  clear : w.clear = {}
  raised : Calm s → Raised s w (parkNotices s ++ clearNotices s w) (parkRecords s ++ clearRecords s w)

theorem stabling_stabled (s : State) : Stabling s (stabled s) :=
  ⟨stabled_others s, portsStable_stabled s, stabled_clear s, raised_stabled⟩

/-! ## The COPYING screen Export (R152) -/

theorem slotsAborted_locks (q : StorePort) (frame : Option FrameInProgress) (i : SlotId) :
    (slotsAborted q frame).slots[i].locks = q.slots[i].locks := by
  cases frame with
  | none => rfl
  | some f => exact StorePort.drop_locks q f.slot i

theorem PortView.stable_locks (v : PortView) (i : SlotId) : v.stable.slots.slots[i].locks = v.slots.slots[i].locks := by
  unfold PortView.stable
  split
  · rfl
  · show (slotsAborted v.slots v.port.frame).withdraw.slots[i].locks = _
    rw [StorePort.withdraw_slot, Slot.withdraw_locks, slotsAborted_locks]

/-- A park leaves every lock set (R34), so the Export Mover holds no slot after it that it did not hold before. -/
theorem PortsStable.store_released {s w : State} (h : PortsStable s w) (hb : HoldersBounded s)
    (hm : ∀ p o i w h n g r, s.mover ≠ .moving p o i w h n g r) : (releaseHolder .mover w).store = w.store := by
  refine releaseHolder_store_of_free fun p i => ?_
  have hlocks : w.store[p].slots[i].locks = s.store[p].slots[i].locks :=
    (congrArg (fun v : PortView => v.slots.slots[i].locks) (h.view p)).trans (PortView.stable_locks _ i)
  rw [hlocks]
  exact mover_free_of_not_moving hb hm p i

theorem stopCopying_of_other {s : State} (h : ∀ d o w h y f r, s.mover ≠ .copying d o w h y f r) : stopCopying s = s := by
  unfold stopCopying
  split
  · rename_i hm
    exact absurd hm (h _ _ _ _ _ _ _)
  · rfl
  · rfl
  · rfl

theorem stopCopying_of_copying {s : State} {d : DisplayId} {o : ExportOperands} {w h : Nat} {y : Stamp} {f : Word} {r : Nat}
    (hm : s.mover = .copying d o w h y f r) : stopCopying s = endExport (.failed .displayStopped 0) s := by
  unfold stopCopying
  rw [hm]

/-- From `s`, over the part `w` in stabling, to `v` a COPYING screen Export has been stopped: `m` is `s` with the lanes, the Export
record and the link as that left them, and `ns` and `rs` what it gave to the reports. -/
structure CopyingStopped (s w m v : State) (ns : List Notice) (rs : List Record) : Prop where
  others : v = { m with
    ports := w.ports, store := w.store, soil := w.soil, evalQueue := w.evalQueue, clear := w.clear, mode := .stabled
    wakeRecord := w.wakeRecord, reports := v.reports, bus := v.bus }
  raised : Raised m v (ns ++ parkNotices s ++ clearNotices s w) (rs ++ parkRecords s ++ clearRecords s w)

section Stop
variable {s w : State} {c : Chain} {b : InHand}

theorem copyingStopped_none (hw : Stabling s w) (hcalm : Calm s) (hm : ∀ d o w h y f r, s.mover ≠ .copying d o w h y f r) :
    CopyingStopped s w s (stopCopying w) [] [] := by
  have hmover : w.mover = s.mover := (congrArg State.mover hw.others).trans rfl
  have hbus : w.bus = s.bus := (congrArg State.bus hw.others).trans rfl
  rw [stopCopying_of_other (by rwa [hmover])]
  refine ⟨?_, hw.raised hcalm⟩
  rw [hbus]
  exact hw.others

theorem copyingStopped_ends {d : DisplayId} {o : ExportOperands} {x h : Nat} {y : Stamp} {f : Word} {r : Nat} (hw : Stabling s w)
    (hcalm : Calm s) (hm : s.mover = .copying d o x h y f r) (hin : inHand s 1 = some (c, b)) (hb : HoldersBounded s) :
    CopyingStopped s w (exportEnded s c b (.failed .displayStopped 0)) (stopCopying w) (exportNotices s b) [.lane 1] := by
  have hmover : w.mover = s.mover := (congrArg State.mover hw.others).trans rfl
  rw [stopCopying_of_copying (hmover.trans hm)]
  obtain ⟨hended, hlanes⟩ := (hw.raised hcalm).endExport ((congrArg State.clock hw.others).trans rfl)
    ((congrArg State.lanes hw.others).trans rfl) hcalm.2 hin (.failed .displayStopped 0)
  have hstore : (releaseHolder .mover w).store = w.store :=
    hw.stable.store_released hb fun _ _ _ _ _ _ _ _ hmoving => by rw [hm] at hmoving; cases hmoving
  have hleft := endExport_others (.failed .displayStopped 0) w
  rw [endExport_store, hstore, endExport_mover, hlanes] at hleft
  refine ⟨?_, hended.congr (fun n => ?_) fun r => ?_⟩
  · generalize endExport (.failed .displayStopped 0) w = v at hleft ⊢
    rw [exportEnded_eq] at hleft ⊢
    refine hleft.trans ?_
    rw [hw.others]
  · simp only [List.mem_append]
    tauto
  · simp only [List.mem_cons, List.mem_append, List.not_mem_nil, or_false, or_assoc]

end Stop

/-! ## The block (R181) -/

section Acts
variable {s m : State} {c : Chain} {b : InHand} {ns : List Notice} {rs : List Record}

theorem allShut_iff : allShut s = true ↔ ∀ k : DoorId, s.doors[k].state = .shut := by
  refine ⟨shut_of_allShut, fun h => List.all_eq_true.2 fun k _ => ?_⟩
  rw [h k]
  rfl

theorem actEnterStabling_badLength (hl : b.body ≠ []) : actEnterStabling b s = (s, .failed .badValue 255) :=
  if_pos fun h => hl (List.length_eq_zero_iff.1 h)

theorem actEnterStabling_stabled (hl : b.body = []) (hm : s.mode = .stabled) : actEnterStabling b s = (s, .done) := by
  rw [actEnterStabling, hl, hm]
  rfl

theorem actEnterStabling_run (hl : b.body = []) (hm : s.mode = .run) :
    actEnterStabling b s = if allShut s then (enterStabling s, .done) else (s, .failed .notAllowedNow 0) := by
  rw [actEnterStabling, hl, hm]
  rfl

/-- ENTER STABLING, once a COPYING screen Export has been dealt with (R182). -/
theorem enterStabling_enters (hb : BlockInHand s 0 .enterStabling c b) (ha : actEnterStabling b s = (enterStabling s, .done))
    (h : CopyingStopped s (stabled s) m (stopCopying (stabled s)) ns rs) (hq : m.bus.fate = []) :
    ∃ t, exec .enterStabling s = .next t ∧
      t = { m with
        ports := t.ports, store := t.store, soil := t.soil, evalQueue := t.evalQueue, clear := t.clear, mode := .stabled
        wakeRecord := t.wakeRecord, lanes := t.lanes, reports := t.reports, bus := t.bus } ∧
      PortsStable s t ∧ t.clear = {} ∧
      BlockDone m t c b .done (ns ++ parkNotices s ++ clearNotices s t) (rs ++ parkRecords s ++ [.part]) := by
  obtain ⟨hothers, hraised⟩ := h
  have hexec := exec_lane0Block (i := .enterStabling) (fun _ => rfl) hb ha
  rw [enterStabling_eq] at hexec
  obtain ⟨-, hstable, hdark, -⟩ := stabling_stabled s
  generalize stopCopying (stabled s) = v at hothers hraised hexec
  generalize stabled s = w at hothers hraised hstable hdark
  have hgiven : Raised m (mark .part v) (ns ++ parkNotices s ++ clearNotices s w) (rs ++ parkRecords s ++ [.part]) := by
    refine (hraised.mark .part).congr (fun _ => Iff.rfl) fun r => ?_
    unfold clearRecords
    split <;> simp [or_comm, or_left_comm]
  have hu : mark .part v = { m with
      ports := w.ports, store := w.store, soil := w.soil, evalQueue := w.evalQueue, clear := w.clear, mode := .stabled
      wakeRecord := w.wakeRecord, reports := (mark .part v).reports, bus := v.bus } := by
    unfold mark
    generalize { v.reports with due := .part :: v.reports.due } = reports
    rw [hothers]
    rfl
  generalize mark .part v = u at hexec hgiven hu
  have hclear : (finishEvent (endBlock 0 c b.notify b.haltOnFail b.next .done u)).clear = w.clear := by
    simpa using congrArg State.clear hu
  have hlast : PortsStable s u := by
    rw [hu]
    exact hstable.congr rfl rfl rfl rfl rfl
  have hdone : BlockDone m _ c b .done _ _ := blockDone_of_raised hgiven hq ((congrArg State.clock hu).trans rfl)
    ((congrArg State.lanes hu).trans rfl)
  refine ⟨_, hexec, ?_, hlast.congr, hclear.trans hdark, ?_⟩
  · let others (v x : State) : State := { x with
      ports := v.ports, store := v.store, soil := v.soil, evalQueue := v.evalQueue, clear := v.clear, mode := v.mode
      wakeRecord := v.wakeRecord, lanes := v.lanes, reports := v.reports, bus := v.bus }
    have hmode : (finishEvent (endBlock 0 c b.notify b.haltOnFail b.next .done u)).mode = .stabled := by
      simpa using congrArg State.mode hu
    rw [← hmode]
    exact finishEvent_others others (fun _ => rfl) (fun _ _ _ _ => rfl) fun v =>
      (endBlock_unseen 0 c b.notify b.haltOnFail b.next .done u (others v) fun _ _ _ _ => rfl).trans
        ((congrArg (others v) hu).trans rfl)
  · unfold clearNotices at hdone ⊢
    rw [hclear]
    exact hdone

end Acts

/-! ## The ports of a part in stabling -/

section Port
variable {s t : State} (h : PortsStable s t) (p : PortId)
include h

theorem PortsStable.keeps (hp : s.ports[p].state = .parked) :
    t.ports[p] = s.ports[p] ∧ t.store[p] = s.store[p] ∧ t.soil[p] = s.soil[p] := by
  have hview : portView t p = portView s p := (h.view p).trans (if_pos hp)
  exact ⟨congrArg PortView.port hview, congrArg PortView.slots hview, congrArg PortView.soil hview⟩

theorem PortsStable.parks (hp : ¬ s.ports[p].state = .parked) (hslots : PortSlots s.store[p] s.ports[p].frame) :
    t.ports[p] = { s.ports[p] with state := .parked, frame := none, silence := none, sums := noSums } ∧
    SlotsWithdrawn s.store[p] t.store[p] ∧ t.soil[p] = { learningDropped s.soil[p] with intervalCount := 0 } := by
  have hview : portView t p = (portView s p).park := (h.view p).trans (if_neg hp)
  have hstore : t.store[p] = (slotsAborted s.store[p] s.ports[p].frame).withdraw := congrArg PortView.slots hview
  refine ⟨congrArg PortView.port hview, ?_, congrArg PortView.soil hview⟩
  rw [hstore]
  exact slotsWithdrawn_withdraw hslots

end Port

end Sys2Proof.Machine

namespace Sys2Proof.Proofs

open Sys2Proof Sys2Proof.Machine Sys2Proof.Safety

-- The proofs are elaborated in order: side by side, each would hold a thread of its own, and its memory.
set_option Elab.async false

/-- Settles O55: the checks in their order, then the entry (`enterStabling_enters`), by whether a screen Export is COPYING. -/
theorem enterStablingParksThePart : Obligations.EnterStablingParksThePart := by
  unfold Obligations.EnterStablingParksThePart
  intro s c b shut parked running entered hb
  have hcalm : Calm s := calm_of_blockInHand hb
  refine ⟨fun hl => onlyEnds_of_act (fun _ => rfl) hb (actEnterStabling_badLength hl),
    fun hl hm => onlyEnds_of_act (fun _ => rfl) hb (actEnterStabling_stabled hl hm), fun hl hm hopen => ?_,
    fun hl hm hshut hslots => ?_⟩
  · exact onlyEnds_of_act (fun _ => rfl) hb ((actEnterStabling_run hl hm).trans (if_neg (mt allShut_iff.1 hopen)))
  · have ha : actEnterStabling b s = (enterStabling s, .done) := (actEnterStabling_run hl hm).trans (if_pos (allShut_iff.2 hshut))
    have hw := stabling_stabled s
    have henters {m : State} {ns : List Notice} {rs : List Record}
        (h : CopyingStopped s (stabled s) m (stopCopying (stabled s)) ns rs) (hq : m.bus.fate = []) : entered m ns rs := by
      obtain ⟨t, hexec, hothers, hstable, hdark, hdone⟩ := enterStabling_enters hb ha h hq
      refine ⟨t, hexec, hothers, congrArg Sides.left hdark, congrArg Sides.right hdark, hstable.evalQueue, hstable.wakeRecord,
        fun p hp => hstable.keeps p hp, fun p hp => hstable.parks p hp (hslots p), ?_⟩
      rw [flatMap_running, flatMap_running]
      exact hdone
    refine ⟨fun hm => henters (copyingStopped_none hw hcalm hm) hcalm.2, fun d o x h y f r c1 b1 hm hin hbounded =>
      henters (copyingStopped_ends hw hcalm hm hin hbounded) ?_⟩
    rw [exportEnded_eq]
    exact (allWritten_fate _ s).trans hcalm.2

end Sys2Proof.Proofs
end

section
/-! The register window: the writes that place the work area, and the registers as they read and are written (R157 to R161, section
12.1). -/

namespace Sys2Proof.Machine

open Safety

-- The proofs are elaborated in order: side by side, each would hold a thread of its own, and its memory.
set_option Elab.async false

/-! ## The area registers (R158) -/

theorem laneBusy_iff {s : State} {l : LaneId} : laneBusy s l = true ↔ s.lanes[l].state ≠ .idle ∨ s.lanes[l].queue ≠ [] := by
  unfold laneBusy
  cases s.lanes[l].state with
  | idle => simp
  | running c => simp
  | faulted => simp

theorem areaInUse_iff {s : State} : areaInUse s = true ↔ ∃ l : LaneId, s.lanes[l].state ≠ .idle ∨ s.lanes[l].queue ≠ [] := by
  rw [areaInUse, Bool.or_eq_true, laneBusy_iff, laneBusy_iff, Fin.exists_fin_two]

/-! ## Bits of a word -/

/-- A field of a word is its number, shifted down and cut off. -/
theorem toNat_extractLsb' (w : Word) (low width : Nat) : (w.extractLsb' low width).toNat = w.toNat / 2 ^ low % 2 ^ width := by
  rw [BitVec.extractLsb'_toNat, Nat.shiftRight_eq_div_pow]

/-- A bit of a word is a field one bit wide. -/
theorem getLsbD_of_field {w : Word} {low : Nat} {b : Bool} (h : w.toNat / 2 ^ low % 2 ^ 1 = b.toNat) : w.getLsbD low = b := by
  rw [← BitVec.testBit_toNat, Nat.testBit_eq_decide_div_mod_eq, ← Nat.pow_one 2, h]
  cases b <;> rfl

/-! ## The STATUS word (R159) -/

/-- The fields of STATUS, from bit 0 up. -/
def statusFields (s : State) : List (Nat × Nat) :=
  [(1, s.window.attention.isSome.toNat), (1, (reject s).toNat), (1, s.reports.iv.toNat), (1, s.window.dropped.toNat),
    (4, s.window.dropReason.code), (2, s.lanes[(0 : LaneId)].state.code), (2, s.lanes[(1 : LaneId)].state.code),
    (3, s.lanes[(0 : LaneId)].queue.length), (3, s.lanes[(1 : LaneId)].queue.length), (1, s.mode.code),
    (1, s.window.areaValid.toNat)]

theorem pack_statusFields (s : State) : BitVec.ofNat 32 (pack (statusFields s)) = statusWord s := by
  refine congrArg (BitVec.ofNat 32) ?_
  simp only [statusFields, pack]
  ring

/-- Each field of STATUS fits its width, the queues within their bound. -/
theorem statusFields_lt {s : State} (hq : ∀ l : LaneId, s.lanes[l].queue.length ≤ 4) : ∀ f ∈ statusFields s, f.2 < 2 ^ f.1 := by
  have hqueue (l : LaneId) : s.lanes[l].queue.length < 2 ^ 3 := Nat.lt_of_le_of_lt (hq l) (by decide)
  have hreason : s.window.dropReason.code < 2 ^ 4 := by cases s.window.dropReason <;> decide
  have hmode : s.mode.code < 2 ^ 1 := by cases s.mode <;> decide
  simp only [statusFields, List.forall_mem_cons, List.not_mem_nil, false_imp_iff, implies_true, and_true]
  exact ⟨Bool.toNat_lt _, Bool.toNat_lt _, Bool.toNat_lt _, Bool.toNat_lt _, hreason, LaneState.code_lt _, LaneState.code_lt _,
    hqueue 0, hqueue 1, hmode, Bool.toNat_lt _⟩

/-- The STATUS word is below 2^20, and each field stands at its place. -/
theorem statusWord_fields {s : State} (hq : ∀ l : LaneId, s.lanes[l].queue.length ≤ 4) :
    (statusWord s).toNat < 2 ^ 20 ∧ BitsFrom (statusWord s).toNat 0 (statusFields s) := by
  have hlt := statusFields_lt hq
  have hpack : pack (statusFields s) < 2 ^ 20 := pack_lt hlt
  have hnumber : (statusWord s).toNat = pack (statusFields s) := by
    rw [← pack_statusFields, BitVec.toNat_ofNat, Nat.mod_eq_of_lt (hpack.trans (by decide))]
  exact ⟨hnumber ▸ hpack, bitsFrom_of_div hlt (by rw [Nat.pow_zero, Nat.div_one, hnumber])⟩

/-! ## The other registers (R157, R160) -/

/-- IDENT has the part code between two codes that no state changes. -/
theorem ident_part_code (s : State) : (readRegister s .ident).toNat / 2 ^ 8 % 2 ^ 16 = 0x1204 := by
  rw [← toNat_extractLsb']
  have hcode : (readRegister s .ident).extractLsb' 8 16 = 0x1204#16 := by
    unfold readRegister
    ext i hi
    simp only [BitVec.getElem_extractLsb', BitVec.getLsbD_append]
    simp [show ¬ 8 + i < 8 by omega, show 8 + i - 8 = i by omega, hi]
  rw [hcode]
  rfl

/-- RESET_CAUSE loses the bits written as 1 (R160). -/
theorem resetCause_cleared (w : BitVec 3) (v : Word) (i : Nat) (hi : i < 3) :
    (w &&& ~~~(v.truncate 3 : BitVec 3)).getLsbD i = (w.getLsbD i && !v.getLsbD i) := by
  simp [hi]

end Sys2Proof.Machine

namespace Sys2Proof.Proofs

open Sys2Proof Sys2Proof.Machine Sys2Proof.Safety

-- The proofs are elaborated in order: side by side, each would hold a thread of its own, and its memory.
set_option Elab.async false

/-- Settles O33: each write by whether a lane uses the area (`areaInUse_iff`), that of AREA_SIZE also by its range. -/
theorem areaWritesPlaceTheArea : Obligations.AreaWritesPlaceTheArea := by
  unfold Obligations.AreaWritesPlaceTheArea
  intro s v busy size dropped
  refine ⟨fun hbusy => ?_, fun hrest => ?_⟩
  · have huse : areaInUse s = true := areaInUse_iff.2 hbusy
    exact ⟨congrArg Host.Outcome.next (if_pos huse), congrArg Host.Outcome.next (if_pos huse),
      congrArg Host.Outcome.next (if_pos huse)⟩
  · have huse : ¬ areaInUse s = true := mt areaInUse_iff.1 hrest
    refine ⟨congrArg Host.Outcome.next (if_neg huse), congrArg Host.Outcome.next (if_neg huse), fun hsize => ?_⟩
    have hrange : ¬ (1 ≤ size.toNat ∧ size.toNat ≤ 256) := by omega
    exact congrArg Host.Outcome.next ((if_neg huse).trans (if_neg hrange))

/-- Settles O35: the writes by whether BUSY is set, the reads register by register, STATUS by the fields it is packed of
(`statusWord_fields`). -/
theorem registerAccessesAct : Obligations.RegisterAccessesAct := by
  unfold Obligations.RegisterAccessesAct
  refine ⟨fun s v => ⟨rfl, rfl, rfl, ⟨_, rfl, resetCause_cleared _ v⟩, fun hfree => ?_, fun hbusy => ?_⟩,
    fun s => ⟨ident_part_code s, fun _ => rfl, rfl, rfl, ?_, rfl, rfl, ?_⟩, fun s hq => ?_⟩
  · show Host.Outcome.next (writeAttention v s) = _
    rw [writeAttention, hfree]
    rfl
  · obtain ⟨word, hword⟩ := Option.ne_none_iff_exists'.1 hbusy
    show Host.Outcome.next (writeAttention v s) = _
    rw [writeAttention, hword]
    rfl
  · exact BitVec.toNat_setWidth_of_le (by decide)
  · exact BitVec.toNat_setWidth_of_le (by decide)
  · intro lane
    refine ⟨_, rfl, rfl, ?_⟩
    obtain ⟨hlt, hbusy, hreject, hiv, hdropped, hreason, hlane0, hlane1, hqueue0, hqueue1, hmode, hvalid, -⟩ := statusWord_fields hq
    have hlane (l : LaneId) : s.lanes[l].state.code = lane l := by
      unfold lane
      cases s.lanes[l].state <;> rfl
    refine ⟨getLsbD_of_field hbusy, getLsbD_of_field hreject, getLsbD_of_field hiv, getLsbD_of_field hdropped, ?_,
      (toNat_extractLsb' _ _ _).trans (hlane0.trans (hlane 0)), (toNat_extractLsb' _ _ _).trans (hlane1.trans (hlane 1)),
      (toNat_extractLsb' _ _ _).trans hqueue0, (toNat_extractLsb' _ _ _).trans hqueue1, getLsbD_of_field ?_,
      getLsbD_of_field hvalid, hlt⟩
    · refine (toNat_extractLsb' _ _ _).trans (hreason.trans ?_)
      cases s.window.dropReason <;> rfl
    · refine hmode.trans ?_
      cases s.mode <;> rfl

end Sys2Proof.Proofs
end

section
/-! The captured words: those that are dropped, RUN CHAIN, WAKE, and HALT LANE and RESTART of a lane between two blocks (R161 to R165,
R184). -/

namespace Sys2Proof.Machine

open Safety

-- The proofs are elaborated in order: side by side, each would hold a thread of its own, and its memory.
set_option Elab.async false

/-! ## The take of a word (R161) -/

theorem takeWord_captured {s : State} {w head : Word} {code : Nat} (h : Captured s w head code)
    (effect : Word → Word → State → State) :
    takeWord code effect s = .next (finishEvent (effect w head (wordTaken s))) := by
  obtain ⟨hw, hcode⟩ := h
  unfold takeWord
  rw [hw]
  exact if_pos hcode

/-- A command whose effect is to drop the captured word leaves nothing else. -/
theorem takeWord_drops {s : State} {w head : Word} {code : Nat} {effect : Word → Word → State → State} {r : DropReason}
    (h : Captured s w head code) (he : effect w head (wordTaken s) = dropWord r (wordTaken s)) (hcalm : Calm s) :
    ∃ t, takeWord code effect s = .next t ∧ t = { wordDropped s r with reports := t.reports, bus := t.bus } ∧
      Reported (wordDropped s r) t [] [] := by
  have hraised : Raised (wordDropped s r) (dropWord r (wordTaken s)) [] [] := Raised.start (m := wordDropped s r) hcalm.1
  let others (v x : State) : State := { x with reports := v.reports, bus := v.bus }
  refine ⟨_, (takeWord_captured h effect).trans (by rw [he]), ?_, hraised.finish hcalm.2⟩
  exact finishEvent_others (s := wordDropped s r) others (fun _ => rfl) (fun _ _ _ _ => rfl) fun _ => rfl

theorem laneOf_eq_none {target : Nat} (h : 2 ≤ target) : laneOf target = none := dif_neg (Nat.not_lt.2 h)

theorem runChain_badTarget {w : Word} (h : 2 ≤ attentionTarget w) (head : Word) (s : State) :
    runChain w head s = dropWord .badCode s := by
  rw [runChain, laneOf_eq_none h]

theorem haltByWord_badTarget {w : Word} (h : 2 ≤ attentionTarget w) (head : Word) (s : State) :
    haltByWord w head s = dropWord .badCode s := by
  rw [haltByWord, laneOf_eq_none h]

theorem restartByWord_badTarget {w : Word} (h : attentionTarget w = 14) (head : Word) (s : State) :
    restartByWord w head s = dropWord .badCode s := by
  rw [restartByWord, portOf_eq_none (by omega), h]
  rfl

section RunChain
variable {s : State} {w : Word} {l : LaneId} (ht : attentionTarget w = l.val) (head : Word)
include ht

theorem runChain_reject (h : s.window.areaValid = false ∨ s.reports.suspended = true) :
    runChain w head s = dropWord .reject s := by
  have hreject : reject s = true := by
    rw [reject, Bool.or_eq_true, Bool.not_eq_true']
    exact h
  rw [runChain, laneOf_of_eq ht]
  exact if_pos hreject

theorem runChain_flows (hvalid : s.window.areaValid = true) (hsuspended : s.reports.suspended = false) :
    runChain w head s =
      if 4 ≤ s.lanes[l].queue.length then dropWord .full s else appendHead l head (wakePart .runChain s) := by
  have hreject : ¬ reject s = true := by simp [reject, hvalid, hsuspended]
  rw [runChain, laneOf_of_eq ht]
  exact if_neg hreject

end RunChain

/-- The words that name something the part can do: those that are not dropped with BAD_CODE (R161). -/
theorem attentionValid_iff (w : Word) :
    attentionValid w = true ↔
      ¬ (attentionCode w = 0 ∨ 6 ≤ attentionCode w ∨
        (attentionCode w = 1 ∨ attentionCode w = 2) ∧ 2 ≤ attentionTarget w ∨ attentionCode w = 4 ∧ attentionTarget w = 14) := by
  unfold attentionValid
  split
  case h_6 h1 h2 h3 h4 h5 =>
    simp only [imp_false] at h1 h2 h3 h4 h5
    have hbad : attentionCode w = 0 ∨ 6 ≤ attentionCode w := by omega
    exact iff_of_false Bool.false_ne_true fun h => h (hbad.imp_right .inl)
  all_goals
    rename_i hcode
    simp [hcode]

/-! ## The wake by a word (R184) -/

section Wake
variable {m s : State} {ns : List Notice} {rs : List Record} {cause : WakeCause}

theorem wakePart_of_run (h : s.mode = .run) : wakePart cause s = s := by
  unfold wakePart
  rw [h]

/-- The part in RUN again with its lines as they then are, the wake not yet announced (R184). -/
def wokenByWord (cause : WakeCause) (s : State) : State := recomputeLines (leaveStabling cause s)

theorem wakePart_of_stabled (h : s.mode = .stabled) : wakePart cause s = announceWake (wokenByWord cause s) := by
  unfold wakePart
  rw [h]
  rfl

/-- What a wake by a word leaves of the ports, the mode and the lines. -/
theorem woken_wakePart (h : s.mode = .stabled) :
    Woken s (wakePart cause s) cause ∧ (wakePart cause s).clear = clearLines (wakePart cause s) := by
  rw [wakePart_of_stabled h]
  have hleft := woken_leaveStabling cause s
  have hclear : (wokenByWord cause s).clear = clearLines (wokenByWord cause s) :=
    (recomputeLines_clear _).trans (clearLines_congr (by simp [wokenByWord]) (by simp [wokenByWord]) (by simp [wokenByWord])).symm
  have hsame : (announceWake (wokenByWord cause s)).clear = (wokenByWord cause s).clear := by simp
  refine ⟨?_, hsame.trans (hclear.trans (clearLines_congr (by simp) (by simp) (by simp)).symm)⟩
  unfold wokenByWord
  exact woken_congr hleft

/-- What it reports: the part record is written for the wake, so for a change of lines too (R141, R184). -/
theorem Raised.wakePart (hr : Raised m s ns rs) (h : s.mode = .stabled) :
    Raised m (Machine.wakePart cause s) (ns ++ (wakeNotices s ++ clearNotices s (Machine.wakePart cause s) ++ [.wake]))
      (rs ++ (wakeRecords s ++ [.part])) := by
  have hwoken := (hr.leaveStabling cause).recomputeLines.announceWake
  have hbefore : (Machine.leaveStabling cause s).clear = s.clear := by simp
  have hafter : (Machine.announceWake (wokenByWord cause s)).clear = (wokenByWord cause s).clear := by simp
  rw [wakePart_of_stabled h]
  unfold clearNotices clearRecords at hwoken
  rw [hbefore] at hwoken
  unfold clearNotices
  rw [hafter]
  refine hwoken.congr (fun n => by simp only [List.append_assoc]; rfl) fun r => ?_
  split <;> simp [or_comm, or_left_comm]

/-- What the event leaves of a wake, other blocks of the part changed after it. -/
theorem woken_finishEvent {v : State} (h : s.mode = .stabled) (ports : v.ports = (wakePart cause s).ports := by simp)
    (mode : v.mode = (wakePart cause s).mode := by simp) (wakeCause : v.wakeCause = (wakePart cause s).wakeCause := by simp)
    (wakeRecord : v.wakeRecord = (wakePart cause s).wakeRecord := by simp) (clear : v.clear = (wakePart cause s).clear := by simp)
    (cab : v.cab = (wakePart cause s).cab := by simp) (doors : v.doors = (wakePart cause s).doors := by simp) :
    Woken s (finishEvent v) cause ∧ (finishEvent v).clear = clearLines (finishEvent v) ∧
    clearNotices s (finishEvent v) = clearNotices s (wakePart cause s) := by
  obtain ⟨hwoken, hclear⟩ := woken_wakePart (cause := cause) h
  have hsame : (finishEvent v).clear = (wakePart cause s).clear := by simp [clear]
  have hlines : clearLines (finishEvent v) = clearLines (wakePart cause s) :=
    clearLines_congr (by simp [mode]) (by simp [cab]) (by simp [doors])
  refine ⟨woken_congr hwoken (by simp [ports]) (by simp [mode]) (by simp [wakeCause]) (by simp [wakeRecord]),
    hsame.trans (hclear.trans hlines.symm), ?_⟩
  unfold clearNotices
  rw [hsame]

end Wake

/-! ## What of a lane shows in its record (R166) -/

/-- Lanes that look the same in their records have the same state, the same queue length within the width of that field, and with
the same queue length the same chain position within its own. -/
theorem contents_low {v w : Lane} (h : v.contents = w.contents) :
    v.state.code = w.state.code ∧ v.queue.length % 2 ^ 3 = w.queue.length % 2 ^ 3 ∧
    (v.queue.length = w.queue.length → v.state.shown.1 % 2 ^ 9 = w.state.shown.1 % 2 ^ 9) := by
  have key (r : Lane) : ∃ x, pack (laneFields r) =
      r.state.code + 2 ^ 2 * r.queue.length + 2 ^ 5 * r.state.shown.1 + 2 ^ 14 * x := by
    refine ⟨pack ((laneFields r).drop 3), ?_⟩
    simp only [laneFields, pack, List.drop_succ_cons, List.drop_zero]
    ring
  obtain ⟨x, hx⟩ := key v
  obtain ⟨y, hy⟩ := key w
  have hmod : pack (laneFields v) % 2 ^ 14 = pack (laneFields w) % 2 ^ 14 := by
    rw [laneContents_eq, laneContents_eq] at h
    have hall := congrArg (· % 2 ^ 14) (leBytes_inj h)
    have hdvd : (2 : Nat) ^ 14 ∣ 256 ^ 28 := ⟨2 ^ 210, by norm_num⟩
    simpa only [Nat.mod_mod_of_dvd _ hdvd] using hall
  rw [hx, hy] at hmod
  have hv := v.state.code_lt
  have hw := w.state.code_lt
  have hcode : v.state.code = w.state.code := by omega
  have hrest : (v.queue.length + 2 ^ 3 * v.state.shown.1) % 2 ^ 12 = (w.queue.length + 2 ^ 3 * w.state.shown.1) % 2 ^ 12 := by omega
  exact ⟨hcode, by omega, fun hqueue => by omega⟩

section Lane
variable {m u : State} {ns : List Notice} {rs : List Record} {l : LaneId}

/-- A change of a lane that shows in its record. -/
theorem Raised.updateLane_shown (h : Raised m u ns rs) (l : LaneId) {v : Lane} (hv : v.contents ≠ u.lanes[l].contents) :
    Raised m (Machine.updateLane l v u) ns (.lane l :: rs) := by
  have hset := h.updateLane l v
  rwa [if_neg hv] at hset

/-! ## A head that joins a queue (R162, R166) -/

theorem takeUp_of_not_idle (h : u.lanes[l].state ≠ .idle) : takeUp l u = u := by
  unfold takeUp
  dsimp only
  split
  · rename_i hidle _
    exact absurd hidle h
  · rfl

theorem takeUp_of_empty (h : u.lanes[l].queue = []) : takeUp l u = u := by
  unfold takeUp
  dsimp only
  split
  · rename_i hq
    rw [h] at hq
    cases hq
  · rfl

theorem appendHead_lanes (l : LaneId) (head : Word) (u : State) :
    (appendHead l head u).lanes = u.lanes.set l (laneAppended u.lanes[l] head) := by
  have hlanes := updateLane_lanes l { u.lanes[l] with queue := u.lanes[l].queue ++ [head] } u
  have hlane : (updateLane l { u.lanes[l] with queue := u.lanes[l].queue ++ [head] } u).lanes[l] =
      { u.lanes[l] with queue := u.lanes[l].queue ++ [head] } := by rw [hlanes, getElem_setLane]
  unfold appendHead laneAppended
  by_cases hidle : u.lanes[l].state = .idle
  · rw [if_pos hidle, takeUp_lanes _ _ (by rw [hlane]; exact hidle), hlane, hlanes, Vector.set_set]
  · rw [if_neg hidle, takeUp_of_not_idle (by rw [hlane]; exact hidle), hlanes]

/-- A queue that was not full shows a head more. -/
theorem Raised.appendHead (h : Raised m u ns rs) (hq : u.lanes[l].queue.length < 4) (head : Word) :
    Raised m (Machine.appendHead l head u) ns (.lane l :: rs) := by
  have hshown : ({ u.lanes[l] with queue := u.lanes[l].queue ++ [head] } : Lane).contents ≠ u.lanes[l].contents := by
    intro he
    obtain ⟨-, hlength, -⟩ := contents_low he
    rw [List.length_append, List.length_singleton, Nat.mod_eq_of_lt (hq.trans (by decide)),
      Nat.mod_eq_of_lt ((Nat.succ_lt_succ hq).trans (by decide))] at hlength
    exact Nat.succ_ne_self _ hlength
  exact (h.updateLane_shown l hshown).takeUp l List.mem_cons_self

/-! ## The stop of a lane between two blocks (R163, R164) -/

/-- A lane that looks in its record as if it had stopped was IDLE with no queued head. -/
theorem idle_of_stopped_contents {v : Lane} {zero : Bool} (hq : v.queue.length ≤ 4)
    (h : v.contents = (laneStopped v zero).contents) : v.state = .idle ∧ v.queue = [] := by
  obtain ⟨hcode, hlength, -⟩ := contents_low h
  have hcode : v.state.code = 0 := hcode
  have hlength : v.queue.length % 2 ^ 3 = 0 := hlength
  constructor
  · cases hs : v.state with
    | idle => rfl
    | running c =>
      rw [hs] at hcode
      cases hcode
    | faulted =>
      rw [hs] at hcode
      cases hcode
  · exact List.length_eq_zero_iff.1 (by omega)

theorem laneHalted_of_empty {v : Lane} (h : v.queue = []) (k : Halt) : laneHalted v k = laneStopped v k.zero := by
  unfold laneHalted laneFree laneStopped
  rw [h]

/-- The stop of a lane whose queue is empty. -/
theorem Raised.stopLane_empty (h : Raised m u ns rs) (hq : u.lanes[l].queue = []) (k : Halt) :
    Raised m (Machine.stopLane l k u) (ns ++ if k.announce then [.laneHalted] else [])
      (if (laneStopped u.lanes[l] k.zero).contents = u.lanes[l].contents then rs else .lane l :: rs) := by
  have hlane : (if k.zero then { u.lanes[l] with state := .idle, halting := none, done := 0, failed := 0, skipped := 0 }
      else { u.lanes[l] with state := .idle, halting := none } : Lane) = laneStopped u.lanes[l] k.zero := by
    unfold laneStopped
    rw [← hq]
    cases k.zero <;> rfl
  have hset := h.updateLane l (laneStopped u.lanes[l] k.zero)
  have hempty : (Machine.updateLane l (laneStopped u.lanes[l] k.zero) u).lanes[l].queue = [] := by
    rw [updateLane_lanes, getElem_setLane]
    rfl
  unfold Machine.stopLane
  dsimp only
  rw [hlane]
  split
  · rw [takeUp_of_empty (by rw [raise_lanes]; exact hempty)]
    exact hset.raise .laneHalted
  · rw [takeUp_of_empty hempty, List.append_nil]
    exact hset

/-- A halt that finds no block in hand, and no halt that waits. -/
theorem Raised.haltLane_between (h : Raised m u ns rs) (hin : inHand u l = none) (hh : u.lanes[l].halting = none)
    (hq : u.lanes[l].queue.length ≤ 4) (k : Halt) :
    Raised m (haltLane l k u) (ns ++ if k.announce then [.laneHalted] else []) (stopRecords l u.lanes[l] k.zero ++ rs) ∧
    (haltLane l k u).lanes = u.lanes.set l (laneStopped u.lanes[l] k.zero) := by
  let emptied : Lane := { u.lanes[l] with queue := [] }
  have hlane : (Machine.updateLane l emptied u).lanes[l] = emptied := by rw [updateLane_lanes, getElem_setLane]
  have hstopped : laneStopped emptied k.zero = laneStopped u.lanes[l] k.zero := rfl
  have hqueue : (Machine.updateLane l emptied u).lanes[l].queue = [] := by rw [hlane]
  have hraised := (h.updateLane l emptied).stopLane_empty hqueue k
  rw [hlane, hstopped] at hraised
  rw [haltLane_of_none k hin, hh]
  refine ⟨hraised.congr (fun _ => Iff.rfl) fun r => ?_, ?_⟩
  · unfold stopRecords
    by_cases hsame : u.lanes[l].contents = (laneStopped u.lanes[l] k.zero).contents
    · obtain ⟨-, hnone⟩ := idle_of_stopped_contents hq hsame
      have hemptied : emptied = u.lanes[l] := by
        unfold emptied
        rw [← hnone]
      rw [hemptied, if_pos hsame, if_pos hsame.symm, if_pos rfl, List.nil_append]
    · rw [if_neg hsame]
      by_cases hlast : (laneStopped u.lanes[l] k.zero).contents = emptied.contents
      · rw [if_pos hlast, if_neg fun he => hsame (he.symm.trans hlast.symm), List.singleton_append]
      · rw [if_neg hlast]
        split <;> simp
  · rw [stopLane_lanes, hlane, updateLane_lanes, Vector.set_set]
    exact congrArg (u.lanes.set l ·) (laneHalted_of_empty rfl k)

end Lane

end Sys2Proof.Machine

namespace Sys2Proof.Proofs

open Sys2Proof Sys2Proof.Machine Sys2Proof.Safety

-- The proofs are elaborated in order: side by side, each would hold a thread of its own, and its memory.
set_option Elab.async false

/-- Settles O36: BAD_CODE by `attentionValid_iff`, and the drop of each command by the reason its effect finds first. -/
theorem wordsAreDropped : Obligations.WordsAreDropped := by
  unfold Obligations.WordsAreDropped
  refine ⟨fun w => ⟨rfl, rfl, rfl⟩, fun s w head hw => ?_⟩
  intro bad dropped
  refine ⟨fun hbad => ?_, fun hgood => ?_, fun hbad hcalm => ?_, ?_⟩
  · have hvalid : ¬ attentionValid w = true := fun hv => (attentionValid_iff w).1 hv hbad
    show execBadCode s = _
    unfold execBadCode
    rw [hw]
    exact if_neg hvalid
  · show execBadCode s = _
    unfold execBadCode
    rw [hw]
    exact if_pos ((attentionValid_iff w).2 hgood)
  · refine ⟨fun hcode => ?_, fun hcode => ?_, fun hcode => ?_⟩
    · exact takeWord_drops ⟨hw, hcode⟩ (runChain_badTarget (by omega) head _) hcalm
    · exact takeWord_drops ⟨hw, hcode⟩ (haltByWord_badTarget (by omega) head _) hcalm
    · exact takeWord_drops ⟨hw, hcode⟩ (restartByWord_badTarget (by omega) head _) hcalm
  · refine fun l hcode ht hcalm => ⟨fun hreject => ?_, fun hvalid hsuspended hfull => ?_⟩
    · exact takeWord_drops ⟨hw, hcode⟩ (runChain_reject ht head hreject) hcalm
    · exact takeWord_drops ⟨hw, hcode⟩ ((runChain_flows (s := wordTaken s) ht head hvalid hsuspended).trans
        (if_pos (Nat.le_of_eq hfull.symm))) hcalm

/-- Settles O43: WAKE does nothing in RUN, and wakes a STABLED part (`woken_wakePart`, `Raised.wakePart`). -/
theorem wakeWakesStabledPart : Obligations.WakeWakesStabledPart := by
  unfold Obligations.WakeWakesStabledPart
  intro s w head hword hcalm
  have hcalm' : Calm (wordTaken s) := hcalm
  have hexec : exec .wake s = .next (finishEvent (wakePart .wake (wordTaken s))) := takeWord_captured hword wakeByWord
  refine ⟨fun hrun => ?_, fun hstabled => ?_⟩
  · rw [wakePart_of_run (s := wordTaken s) hrun] at hexec
    let others (v x : State) : State := { x with reports := v.reports, bus := v.bus }
    exact ⟨_, hexec, finishEvent_others others (fun _ => rfl) (fun _ _ _ _ => rfl) fun _ => rfl,
      (Raised.calm hcalm').finish hcalm.2⟩
  · have hraised := (Raised.calm hcalm').wakePart (cause := .wake) hstabled
    obtain ⟨hwoken, hclear, hnotices⟩ :=
      woken_finishEvent (s := wordTaken s) (cause := .wake) (v := wakePart .wake (wordTaken s)) hstabled
    rw [← hnotices] at hraised
    let others (v x : State) : State := { x with
      ports := v.ports, clear := v.clear, mode := v.mode, wakeRecord := v.wakeRecord, wakeCause := v.wakeCause
      reports := v.reports, bus := v.bus }
    exact ⟨_, hexec, finishEvent_others others (fun _ => rfl) (fun _ _ _ _ => rfl) fun v =>
      wakePart_unseen .wake (wordTaken s) (others v) fun _ _ _ _ _ _ _ => rfl, hwoken, hclear, hraised.finish hcalm.2⟩

/-- Settles O37: the part wakes where it is STABLED, then the head joins the queue (`appendHead_lanes`, `Raised.appendHead`). -/
theorem runChainAppendsHead : Obligations.RunChainAppendsHead := by
  unfold Obligations.RunChainAppendsHead
  intro s w head l hword ht hcalm hvalid hsuspended hq
  have hcalm' : Calm (wordTaken s) := hcalm
  have hexec : exec .runChain s = .next (finishEvent (appendHead l head (wakePart .runChain (wordTaken s)))) :=
    (takeWord_captured hword runChain).trans (congrArg (fun u => Host.Outcome.next (finishEvent u))
      ((runChain_flows (s := wordTaken s) ht head hvalid hsuspended).trans (if_neg (Nat.not_le.2 hq))))
  refine ⟨fun hrun => ?_, fun hstabled => ?_⟩
  · rw [wakePart_of_run (s := wordTaken s) hrun] at hexec
    let others (v x : State) : State := { x with lanes := v.lanes, reports := v.reports, bus := v.bus }
    exact ⟨_, hexec, finishEvent_others others (fun _ => rfl) (fun _ _ _ _ => rfl) fun v =>
      appendHead_unseen l head _ (others v) fun _ _ _ => rfl, (finishEvent_lanes _).trans (appendHead_lanes l head _),
      ((Raised.calm hcalm').appendHead hq head).finish hcalm.2⟩
  · have hlanes : (wakePart .runChain (wordTaken s)).lanes = s.lanes := by
      simp only [wakePart_keeps]
      rfl
    have hraised := ((Raised.calm hcalm').wakePart (cause := .runChain) hstabled).appendHead (by rw [hlanes]; exact hq) head
    obtain ⟨hwoken, hclear, hnotices⟩ := woken_finishEvent (s := wordTaken s) (cause := .runChain)
      (v := appendHead l head (wakePart .runChain (wordTaken s))) hstabled
    rw [← hnotices] at hraised
    have hrecords : wakeRecords (wordTaken s) = wakeRecords s := rfl
    let others (v x : State) : State := { x with
      ports := v.ports, clear := v.clear, mode := v.mode, wakeRecord := v.wakeRecord, wakeCause := v.wakeCause
      lanes := v.lanes, reports := v.reports, bus := v.bus }
    refine ⟨_, hexec, finishEvent_others others (fun _ => rfl) (fun _ _ _ _ => rfl) fun v =>
      (appendHead_unseen l head _ (others v) fun _ _ _ => rfl).trans
        (wakePart_unseen .runChain (wordTaken s) (others v) fun _ _ _ _ _ _ _ => rfl),
      (finishEvent_lanes _).trans ((appendHead_lanes l head _).trans (by rw [hlanes])), hwoken, hclear,
      (hraised.congr (fun _ => Iff.rfl) fun r => ?_).finish hcalm.2⟩
    simp [hrecords, or_comm, or_left_comm, or_assoc]

/-- Settles O38: the halt of a lane between two blocks (`Raised.haltLane_between`). -/
theorem haltStopsLaneBetweenBlocks : Obligations.HaltStopsLaneBetweenBlocks := by
  unfold Obligations.HaltStopsLaneBetweenBlocks
  intro s w head l i zero hword hcalm hin hh hq _
  have hcalm' : Calm (wordTaken s) := hcalm
  obtain ⟨hraised, hlanes⟩ := (Raised.calm hcalm').haltLane_between (l := l) hin hh hq { announce := true, zero }
  rw [List.append_nil] at hraised
  refine ⟨_, exec_halt hword, ?_, (finishEvent_lanes _).trans hlanes, hraised.finish hcalm.2⟩
  let others (v x : State) : State := { x with lanes := v.lanes, reports := v.reports, bus := v.bus }
  refine finishEvent_others others (fun _ => rfl) (fun _ _ _ _ => rfl) fun v => ?_
  rw [haltLane_of_none (s := wordTaken s) _ hin]
  exact (stopLane_unseen l _ _ (others v) fun _ _ _ => rfl).trans (updateLane_unseen l _ _ (others v) fun _ _ _ => rfl)

end Sys2Proof.Proofs
end

section
/-! The walk along a chain: the header of a block, and what a lane that reaches one comes to: a block taken, ended or passed, or a
fault (R168 to R170, section 12.2). -/

namespace Sys2Proof.Machine

open Safety

-- The proofs are elaborated in order: side by side, each would hold a thread of its own, and its memory.
set_option Elab.async false

/-! ## The header in host memory (section 12.2) -/

theorem number_readBytes (m : Memory) (a : Nat) {k off n : Nat} (h : off + n ≤ k) :
    number (m.readBytes a k) off n = ∑ i ∈ Finset.range n, (m.read (a + (off + i))).toNat * 256 ^ i := by
  refine Finset.sum_congr rfl fun i hi => ?_
  have hin : off + i < k := by
    have := Finset.mem_range.mp hi
    omega
  rw [Memory.readBytes_eq, List.getD_eq_getElem?_getD, List.getElem?_map, List.getElem?_range hin]
  rfl

/-- The header that host memory has at an address, field by field. -/
def headerAt (m : Memory) (a : Nat) : Header :=
  let r (i : Nat) : Nat := (m.read (a + i)).toNat
  { status := r 0
    kind := r 3
    notify := (r 4).testBit 0
    haltOnFail := (r 4).testBit 1
    target := r 5
    bodyLength := r 6 + 256 * r 7
    next := BitVec.ofNat 32 (r 8 + 256 * r 9 + 65536 * r 10 + 16777216 * r 11) }

theorem headerOf_readBytes (m : Memory) (a : Nat) : headerOf (m.readBytes a 32) = headerAt m a := by
  have h1 {off : Nat} (h : off + 1 ≤ 32) : number (m.readBytes a 32) off 1 = (m.read (a + off)).toNat := by
    rw [number_readBytes m a h]
    simp
  have h2 {off : Nat} (h : off + 2 ≤ 32) :
      number (m.readBytes a 32) off 2 = (m.read (a + off)).toNat + 256 * (m.read (a + (off + 1))).toNat := by
    rw [number_readBytes m a h]
    simp [Finset.sum_range_succ, Nat.mul_comm]
  have h4 {off : Nat} (h : off + 4 ≤ 32) :
      number (m.readBytes a 32) off 4 = (m.read (a + off)).toNat + 256 * (m.read (a + (off + 1))).toNat +
        65536 * (m.read (a + (off + 2))).toNat + 16777216 * (m.read (a + (off + 3))).toNat := by
    rw [number_readBytes m a h]
    simp [Finset.sum_range_succ, Nat.mul_comm]
  simp (disch := decide) only [headerOf, headerAt, field_eq_number, h1, h2, h4]

/-- The header of the block at an offset of the work area. -/
def blockHeader (s : State) (block : Word) : Header := headerAt s.bus.mem (areaBase s + block.toNat)

theorem kindOfLane_iff {l : LaneId} {kind : Nat} :
    kindOfLane l kind = true ↔ l = 0 ∧ 1 ≤ kind ∧ kind ≤ 14 ∨ l = 1 ∧ (kind = 15 ∨ kind = 16) := by
  unfold kindOfLane
  rcases lane_eq l with rfl | rfl
  · simp
  · simp
    omega

theorem placedWell_iff {s : State} {block : Word} : placedWell s block = true ↔ Placed s block := decide_eq_true_iff

/-! ## A lane on its way, within an event -/

/-- What a lane is left as off its chain does not depend on its state before. -/
theorem laneFree_state (v : Lane) (x : LaneState) : laneFree { v with state := x } = laneFree v := by
  obtain ⟨queue, state, done, failed, skipped, halting⟩ := v
  cases queue <;> rfl

/-- Nor does what the end of a block leaves it as. -/
theorem laneLeft_state (v : Lane) (x : LaneState) (c : Chain) (hof : Bool) (next : Word) (e : Ending) :
    laneLeft { v with state := x } c hof next e = laneLeft v c hof next e := by
  obtain ⟨queue, state, done, failed, skipped, halting⟩ := v
  cases halting with
  | none => cases e <;> cases queue <;> rfl
  | some h => cases e <;> cases queue <;> rfl

/-- From `m` to `u`, within one event, a RUNNING lane, with no halt that waits, has at most gone on along its chain. -/
structure Walking (l : LaneId) (m u : State) : Prop where
  others : u = { m with lanes := u.lanes, reports := u.reports, bus := u.bus }
  lanes : ∃ c, u.lanes = m.lanes.set l { m.lanes[l] with state := .running c }
  halting : m.lanes[l].halting = none
  raised : ∃ rs, Raised m u [] rs ∧ ∀ r ∈ rs, r = .lane l

section Walking
variable {l : LaneId} {m u : State}

theorem Walking.start {c : Chain} (hrun : m.lanes[l].state = .running c) (hh : m.lanes[l].halting = none) (hn : NothingDue m) :
    Walking l m m := by
  refine ⟨rfl, ⟨c, ?_⟩, hh, [], Raised.start hn, fun r hr => nomatch hr⟩
  have hself : ({ m.lanes[l] with state := .running c } : Lane) = m.lanes[l] := by rw [← hrun]
  rw [hself]
  simp [Fin.getElem_fin]

theorem Walking.setBus (h : Walking l m u) (b : Bus) : Walking l { m with bus := b } (u.setBus b) := by
  obtain ⟨hothers, hlanes, hh, rs, hraised, hrs⟩ := h
  exact ⟨congrArg (State.setBus · b) hothers, hlanes, hh, rs, hraised.bus b, hrs⟩

theorem Walking.clock (h : Walking l m u) : u.clock = m.clock := by rw [h.others]

theorem Walking.window (h : Walking l m u) : u.window = m.window := by rw [h.others]

theorem Walking.areaBase (h : Walking l m u) : areaBase u = areaBase m := by
  unfold Machine.areaBase
  rw [h.window]

theorem Walking.areaBytes (h : Walking l m u) : areaBytes u = areaBytes m := by
  unfold Machine.areaBytes
  rw [h.window]

theorem Walking.bus (h : Walking l m u) : u.bus = m.bus := by
  obtain ⟨rs, ⟨-, hbus, -⟩, -⟩ := h.raised
  exact hbus

theorem Walking.lane (h : Walking l m u) : ∃ c, u.lanes[l] = { m.lanes[l] with state := .running c } := by
  obtain ⟨c, hlanes⟩ := h.lanes
  exact ⟨c, by rw [hlanes, getElem_setLane]⟩

/-- What changes the lanes, the reports and the link alone, the end of the event leaves so. -/
theorem Walking.finish_others {v : State} (h : Walking l m u)
    (hv : ∀ f : State → State, (∀ s l r b, f { s with lanes := l, reports := r, bus := b } = f s) → f v = f u) :
    finishEvent v = { m with lanes := (finishEvent v).lanes, reports := (finishEvent v).reports, bus := (finishEvent v).bus } := by
  let others (v x : State) : State := { x with lanes := v.lanes, reports := v.reports, bus := v.bus }
  refine finishEvent_others others (fun _ => rfl) (fun _ _ _ _ => rfl) fun w => (hv (others w) fun _ _ _ _ => rfl).trans ?_
  rw [h.others]

/-! ## The lane ends its block (R167 to R169) -/

/-- The block the lane has reached ends on a quiet link. -/
theorem Walking.ends (h : Walking l m u) (hq : m.bus.fate = []) (c : Chain) (notify hof : Bool) (next : Word) (e : Ending) :
    let t := finishEvent (endBlock l c notify hof next e u)
    t = { m with lanes := t.lanes, reports := t.reports, bus := t.bus } ∧ BlockEnds l m t c notify hof next e [] [] := by
  obtain ⟨d, hlane⟩ := h.lane
  obtain ⟨k, hlanes⟩ := h.lanes
  obtain ⟨rs, hraised, hrs⟩ := h.raised
  obtain ⟨hends, hleft⟩ := endBlock_quiet hraised hq h.clock l c notify hof next e
  have hhalt : haltNotices u.lanes[l] = haltNotices m.lanes[l] := by
    rw [hlane]
    rfl
  rw [hhalt] at hends
  refine ⟨h.finish_others fun f hf => endBlock_unseen l c notify hof next e u f hf, ?_,
    (hends.congr (fun _ => Iff.rfl) fun r => ?_).finish ((allWritten_fate _ _).trans hq)⟩
  · rw [finishEvent_lanes, hleft, hlane, laneLeft_state, hlanes, Vector.set_set]
  · rw [List.mem_cons, List.mem_singleton]
    exact ⟨fun hr => hr.elim id (hrs r), .inl⟩

/-! ## A lane fault (R170, R177) -/

/-- The lane faults. -/
theorem Walking.faults (h : Walking l m u) (hq : m.bus.fate = []) (cause : FaultCause) (block : Word) :
    LaneFaults l m (finishEvent (laneFault l cause block u)) cause block := by
  obtain ⟨d, hlane⟩ := h.lane
  obtain ⟨k, hlanes⟩ := h.lanes
  obtain ⟨rs, hraised, hrs⟩ := h.raised
  have hbroken : laneBroken u.lanes[l] = { m.lanes[l] with state := .faulted } := by
    unfold laneBroken
    rw [hlane]
    dsimp only
    rw [h.halting]
  have hrecorded : (recordFault cause (some l) block.toNat u).lanes = u.lanes := by simp
  have hshown : ({ (recordFault cause (some l) block.toNat u).lanes[l] with state := .faulted } : Lane).contents ≠
      (recordFault cause (some l) block.toNat u).lanes[l].contents := by
    intro he
    have hcode := contents_code he
    rw [hrecorded, hlane] at hcode
    cases hcode
  have hfault := (hraised.recordFault h.clock cause (some l) block.toNat).updateLane_shown l hshown
  have hsame : laneFault l cause block u =
      updateLane l { (recordFault cause (some l) block.toNat u).lanes[l] with state := .faulted }
        (recordFault cause (some l) block.toNat u) := by
    unfold laneFault
    dsimp only
    rw [updateLane_lanes, getElem_setLane, hrecorded, hlane]
    dsimp only
    rw [h.halting]
  rw [← hsame, List.nil_append] at hfault
  refine ⟨h.finish_others fun f hf => laneFault_unseen l cause block u f fun s l r => hf s l r s.bus, ?_,
    (hfault.congr (fun _ => Iff.rfl) fun r => ?_).finish hq⟩
  · rw [finishEvent_lanes, laneFault_lanes, hbroken, hlanes, Vector.set_set]
  · simp only [List.mem_cons, List.not_mem_nil, or_false]
    constructor
    · rintro (hr | hr | hr)
      · exact .inr hr
      · exact .inl hr
      · exact .inr (hrs r hr)
    · rintro (hr | hr)
      · exact .inr (.inl hr)
      · exact .inl hr

/-- A lane fault read from a base whose link has come to the same. -/
theorem laneFaults_base {t : State} {cause : FaultCause} {block : Word} {b : Bus} (h : LaneFaults l m t cause block)
    (hf : b.fate = m.bus.fate) (hi : b.interrupts = m.bus.interrupts) (hm : ∀ x, b.mem.read x = m.bus.mem.read x) :
    LaneFaults l { m with bus := b } t cause block := by
  obtain ⟨hothers, hlanes, hreported⟩ := h
  exact ⟨hothers, hlanes, reported_base hreported rfl rfl hf hi hm⟩

theorem cutEnding_eq (s : State) (block : Word) (e : Ending) (k landed : Nat) :
    cutEnding s block e k landed = { s with bus := (cutEnding s block e k landed).bus } := by
  unfold cutEnding
  rw [cutShort_eq]

/-- The ending's bytes depend on the clock, the work area and host memory alone. -/
theorem cutEnding_bus {s t : State} (hc : t.clock = s.clock) (hw : t.window = s.window) (hm : t.bus.mem = s.bus.mem)
    (hi : t.bus.interrupts = s.bus.interrupts) (block : Word) (e : Ending) (k landed : Nat) :
    (cutEnding t block e k landed).bus = (cutEnding s block e k landed).bus := by
  unfold cutEnding endingList areaBase
  rw [cutShort_eq, cutShort_eq, hc, hw, hm]
  dsimp only
  rw [hi]

/-- The link fails a write of the ending (R170). -/
theorem Walking.ending_fails {k landed : Nat} (h : Walking l m u) (hk : k < 4) (hf : m.bus.fate = failsAt k landed) (c : Chain)
    (notify hof : Bool) (next : Word) (e : Ending) :
    LaneFaults l (cutEnding m c.block e k landed) (finishEvent (endBlock l c notify hof next e u)) .hostWrite c.block := by
  obtain ⟨hfails, hfate, hinterrupts, hread⟩ := writeEnding_fails (s := u) hk ((congrArg Bus.fate h.bus).trans hf) c.block e
  have hcut := cutEnding_bus h.clock h.window (congrArg Bus.mem h.bus) (congrArg Bus.interrupts h.bus) c.block e k landed
  have hquiet : (cutEnding u c.block e k landed).bus.fate = [] := by
    unfold cutEnding
    rw [cutShort_eq]
  have hblock : endBlock l c notify hof next e u = laneFault l .hostWrite c.block (u.setBus (writeEnding u c.block e).1) := by
    unfold endBlock
    split
    · rename_i hw
      rw [hw] at hfails
      cases hfails
    · rename_i hw
      rw [hw]
  have hfaults := (h.setBus (writeEnding u c.block e).1).faults (hfate.trans hquiet) .hostWrite c.block
  rw [← hblock] at hfaults
  rw [cutEnding_eq, ← hcut]
  exact laneFaults_base (m := { m with bus := (writeEnding u c.block e).1 }) hfaults hfate.symm hinterrupts.symm hread

end Walking

/-! ## The block reached (R168, steps 1 and 2) -/

/-- The part with one transaction of the link done. -/
def linkAnswered (s : State) : State := { s with bus := { s.bus with fate := s.bus.fate.tail } }

theorem linkAnswered_quiet {s : State} (h : s.bus.fate = []) : linkAnswered s = s := by
  unfold linkAnswered
  rw [h, List.tail_nil, ← h]

/-- The part with a block's header read: its chain position is one more. -/
def blockReached (l : LaneId) (c : Chain) (s : State) : State := setChain l { c with position := c.position + 1 } (linkAnswered s)

/-- The link completes its next transaction. -/
def Answers (b : Bus) : Prop := ∀ landed, b.fate.head? ≠ some (.failed landed)

theorem answers_quiet {b : Bus} (h : b.fate = []) : Answers b := by
  unfold Answers
  rw [h]
  exact fun _ => nofun

theorem answers_failsAt {b : Bus} {k landed : Nat} (h : b.fate = failsAt (1 + k) landed) :
    Answers b ∧ b.fate.tail = failsAt k landed := by
  have hcons : b.fate = .completed :: failsAt k landed := by rw [h, Nat.add_comm, failsAt, List.replicate_succ]; rfl
  unfold Answers
  rw [hcons]
  exact ⟨fun _ => nofun, rfl⟩

theorem Bus.read_answered {b : Bus} (h : Answers b) (a n : Nat) :
    b.read a n = ({ b with fate := b.fate.tail }, some (b.mem.readBytes a n)) := by
  unfold Bus.read
  split
  · rename_i hf
    rw [hf, List.tail_nil, ← hf]
  · rename_i hf
    rw [hf, List.tail_cons]
  · rename_i hf
    exact absurd (congrArg List.head? hf) (h _)

theorem Bus.read_failed {b : Bus} {landed : Nat} (h : b.fate = failsAt 0 landed) (a n : Nat) :
    b.read a n = ({ b with fate := [] }, none) := by
  unfold Bus.read
  rw [h]
  rfl

section Reach
variable {s : State} {l : LaneId} {c : Chain} {phase : LanePhase} {rest : Chain → Header → State → State}

theorem chainIn_of_walks (h : Walks s l phase c) : chainIn s l phase = some c := by
  obtain ⟨hrun, hphase, -⟩ := h
  unfold chainIn
  rw [hrun]
  exact if_pos hphase

theorem exec_headerRead (h : Walks s l .reach c) :
    exec (.headerRead l) s = .next (finishEvent (reachBlock l c (examineBlock l) s)) := by
  show execHeaderRead l s = _
  unfold execHeaderRead
  rw [chainIn_of_walks h]

theorem exec_skipWalk (h : Walks s l .skip c) :
    exec (.skipWalk l) s = .next (finishEvent (reachBlock l c (skipBlock l) s)) := by
  show execSkipWalk l s = _
  unfold execSkipWalk
  rw [chainIn_of_walks h]

theorem reachBlock_misplaced (h : ¬ Placed s c.block) : reachBlock l c rest s = laneFault l .placement c.block s :=
  if_neg (mt placedWell_iff.1 h)

theorem reachBlock_unread {landed : Nat} (h : Placed s c.block) (hf : s.bus.fate = failsAt 0 landed) :
    reachBlock l c rest s = laneFault l .areaRead c.block (s.setBus { s.bus with fate := [] }) := by
  unfold reachBlock
  rw [if_pos (placedWell_iff.2 h), Bus.read_failed hf]

theorem reachBlock_read (h : Placed s c.block) (ha : Answers s.bus) :
    reachBlock l c rest s =
      rest { c with position := c.position + 1 } (blockHeader s c.block) (blockReached l c s) := by
  unfold reachBlock
  rw [if_pos (placedWell_iff.2 h), Bus.read_answered ha]
  dsimp only
  rw [headerOf_readBytes]
  rfl

theorem blockReached_lanes (l : LaneId) (c : Chain) (s : State) :
    (blockReached l c s).lanes = s.lanes.set l { s.lanes[l] with state := .running { c with position := c.position + 1 } } := by
  unfold blockReached setChain
  rw [updateLane_lanes]
  rfl

/-- The position shows in the lane record (R166). -/
theorem raised_blockReached (h : Walks s l phase c) : Raised (linkAnswered s) (blockReached l c s) [] [.lane l] := by
  obtain ⟨hrun, -, -, hn⟩ := h
  refine Raised.updateLane_shown (Raised.start (m := linkAnswered s) hn) l fun he => ?_
  obtain ⟨-, -, hposition⟩ := contents_low he
  have hposition := hposition rfl
  rw [LaneState.shown_position, LaneState.shown_position] at hposition
  have hrun' : (linkAnswered s).lanes[l].state = .running c := hrun
  rw [hrun'] at hposition
  dsimp only at hposition
  omega

theorem walking_of_walks (h : Walks s l phase c) : Walking l s s := by
  obtain ⟨hrun, -, hh, hn⟩ := h
  exact Walking.start hrun hh hn

theorem walking_blockReached (h : Walks s l phase c) : Walking l (linkAnswered s) (blockReached l c s) := by
  have hraised := raised_blockReached h
  obtain ⟨-, -, hh, -⟩ := h
  refine ⟨?_, ⟨_, blockReached_lanes l c s⟩, hh, _, hraised, fun r hr => List.mem_singleton.1 hr⟩
  exact setChain_unseen l _ (linkAnswered s) (fun x => { x with
    lanes := (blockReached l c s).lanes, reports := (blockReached l c s).reports, bus := (blockReached l c s).bus }) fun _ _ _ => rfl

/-! ## Steps 3 to 5 (R168), and the skip walk (R169) -/

section Examine
variable {u : State} {g : Header}

/-- The ending a lane gives a block whose header it reads, by the first of R168's steps 2 to 5 that the block fails. -/
def ExaminedEnding (s : State) (l : LaneId) (c : Chain) (g : Header) (e : Ending) : Prop :=
  let within := c.block.toNat + 32 + g.bodyLength ≤ areaBytes s
  c.position = 256 ∧ e = .failed .chainTooLong 0 ∨
  c.position < 256 ∧ g.status ≠ 0 ∧ e = .failed .notPending 0 ∨
  c.position < 256 ∧ g.status = 0 ∧ 288 < g.bodyLength ∧ e = .failed .badValue 255 ∨
  c.position < 256 ∧ g.status = 0 ∧ g.bodyLength ≤ 288 ∧ within ∧ ¬ kindOfLane l g.kind = true ∧ e = .failed .badKind 0

theorem examineBlock_ends {e : Ending} (h : ExaminedEnding u l c g e) :
    examineBlock l { c with position := c.position + 1 } g u =
      endBlock l { c with position := c.position + 1 } g.notify g.haltOnFail g.next e u := by
  unfold examineBlock
  dsimp only
  rcases h with ⟨hp, rfl⟩ | ⟨hp, hs, rfl⟩ | ⟨hp, hs, hn, rfl⟩ | ⟨hp, hs, hn, hw, hk, rfl⟩
  · rw [if_pos (by omega)]
  · rw [if_neg (by omega), if_pos hs]
  · rw [if_neg (by omega), if_neg (not_not.2 hs), if_pos hn]
  · rw [if_neg (by omega), if_neg (not_not.2 hs), if_neg (Nat.not_lt.2 hn), if_neg (Nat.not_lt.2 hw), if_neg hk]

theorem examineBlock_leavesArea (hp : c.position < 256) (hs : g.status = 0) (hn : g.bodyLength ≤ 288)
    (hw : ¬ c.block.toNat + 32 + g.bodyLength ≤ areaBytes u) :
    examineBlock l { c with position := c.position + 1 } g u = laneFault l .placement c.block u := by
  unfold examineBlock
  dsimp only
  rw [if_neg (by omega), if_neg (not_not.2 hs), if_neg (Nat.not_lt.2 hn), if_pos (Nat.lt_of_not_le hw)]

/-- A block that a lane takes: it fails none of R168's steps 2 to 5. -/
def ExaminedTake (s : State) (l : LaneId) (c : Chain) (g : Header) : Prop :=
  c.position < 256 ∧ g.status = 0 ∧ g.bodyLength ≤ 288 ∧ c.block.toNat + 32 + g.bodyLength ≤ areaBytes s ∧
  kindOfLane l g.kind = true

theorem examineBlock_takes (h : ExaminedTake u l c g) :
    examineBlock l { c with position := c.position + 1 } g u = takeBlock l { c with position := c.position + 1 } g u := by
  obtain ⟨hp, hs, hn, hw, hk⟩ := h
  unfold examineBlock
  dsimp only
  rw [if_neg (by omega), if_neg (not_not.2 hs), if_neg (Nat.not_lt.2 hn), if_neg (Nat.not_lt.2 hw), if_pos hk]

theorem skipBlock_ends {e : Ending}
    (h : c.position = 256 ∧ e = .failed .chainTooLong 0 ∨ c.position < 256 ∧ g.status = 0 ∧ e = .skipped) :
    skipBlock l { c with position := c.position + 1 } g u =
      endBlock l { c with position := c.position + 1 } g.notify g.haltOnFail g.next e u := by
  unfold skipBlock
  dsimp only
  rcases h with ⟨hp, rfl⟩ | ⟨hp, hs, rfl⟩
  · rw [if_pos (by omega)]
  · rw [if_neg (by omega), if_pos hs]

/-- A block that a skip walk passes is not counted: the lane goes on along its chain, or leaves it. -/
theorem skipBlock_passes (hp : c.position < 256) (hs : g.status ≠ 0) (hh : u.lanes[l].halting = none) :
    skipBlock l { c with position := c.position + 1 } g u =
      if g.next = 0 then leaveChain l u
      else setChain l { c with position := c.position + 1, block := g.next, phase := .skip } u := by
  unfold skipBlock
  dsimp only
  rw [if_neg (by omega), if_neg hs, advance, hh]

end Examine

/-! ## Steps 6 and 7: the body and TAKEN (R168) -/

section Take
variable {u : State} {g : Header}

theorem readBody_answered (ha : g.bodyLength ≠ 0 → Answers u.bus) :
    readBody u c.block g.bodyLength =
      (if g.bodyLength = 0 then u.bus else { u.bus with fate := u.bus.fate.tail },
        some (u.bus.mem.readBytes (areaBase u + c.block.toNat + 32) g.bodyLength)) := by
  unfold readBody
  by_cases hn : g.bodyLength = 0
  · rw [if_pos hn, if_pos hn, hn]
    rfl
  · rw [if_neg hn, if_neg hn, Bus.read_answered (ha hn)]
    rfl

/-- The block is taken on a quiet link. -/
theorem takeBlock_quiet (hq : u.bus.fate = []) :
    takeBlock l c g u = setChain l
      { c with phase := .taken (g.inHand (u.bus.mem.readBytes (areaBase u + c.block.toNat + 32) g.bodyLength)) }
      (hostWritten u (areaBase u + c.block.toNat) [1]) := by
  have hbody : (if g.bodyLength = 0 then u.bus else { u.bus with fate := u.bus.fate.tail }) = u.bus := by
    rw [hq, List.tail_nil, ← hq, ite_self]
  unfold takeBlock
  rw [readBody_answered fun _ => answers_quiet hq, hbody]
  dsimp only
  rw [Bus.write_quiet hq]
  rfl

/-- The link fails the read of the body. -/
theorem takeBlock_unread {landed : Nat} (hn : g.bodyLength ≠ 0) (hf : u.bus.fate = failsAt 0 landed) :
    takeBlock l c g u = laneFault l .areaRead c.block (u.setBus { u.bus with fate := [] }) := by
  unfold takeBlock readBody
  rw [if_neg hn, Bus.read_failed hf]

/-- The link fails the write of TAKEN. -/
theorem takeBlock_untaken {landed : Nat} (hf : u.bus.fate = failsAt (if g.bodyLength = 0 then 0 else 1) landed) :
    takeBlock l c g u = laneFault l .hostWrite c.block
      (u.setBus { u.bus with mem := u.bus.mem.write (areaBase u + c.block.toNat) ([1].take landed), fate := [] }) := by
  unfold takeBlock
  by_cases hn : g.bodyLength = 0
  · rw [if_pos hn] at hf
    rw [readBody_answered fun hne => absurd hn hne, if_pos hn]
    dsimp only
    rw [Bus.write_fails (rest := []) hf]
    rfl
  · rw [if_neg hn] at hf
    obtain ⟨hanswers, htail⟩ := answers_failsAt (k := 0) hf
    rw [readBody_answered fun _ => hanswers, if_neg hn]
    dsimp only
    rw [Bus.write_fails (rest := []) htail]
    rfl

end Take

end Reach

end Sys2Proof.Machine

namespace Sys2Proof.Proofs

open Sys2Proof Sys2Proof.Machine Sys2Proof.Safety

-- The proofs are elaborated in order: side by side, each would hold a thread of its own, and its memory.
set_option Elab.async false

/-- Settles O45: the header read (`reachBlock_read`) leads to the take (`examineBlock_takes`), which puts the block in hand
(`takeBlock_quiet`). -/
theorem headerReadTakesBlock : Obligations.HeaderReadTakesBlock := by
  unfold Obligations.HeaderReadTakesBlock
  refine ⟨fun s l c b => inHand_eq_some, fun k => by cases k <;> rfl, ?_⟩
  intro s l c a r n hwalks hq hplaced hp hs hn hw hk
  let g := blockHeader s c.block
  let c1 : Chain := { c with position := c.position + 1 }
  let b := g.inHand (s.bus.mem.readBytes (a + 32) n)
  let u := blockReached l c s
  have hwalking := walking_blockReached hwalks
  have hraised := raised_blockReached hwalks
  rw [linkAnswered_quiet hq] at hwalking hraised
  have hbase : areaBase u = areaBase s := hwalking.areaBase
  have harea : areaBytes u = areaBytes s := hwalking.areaBytes
  have htake : takeBlock l c1 g u = setChain l { c1 with phase := .taken b } (hostWritten u a [1]) := by
    rw [takeBlock_quiet (by rw [hwalking.bus]; exact hq), hbase, hwalking.bus]
    rfl
  have hexec : exec (.headerRead l) s = .next (finishEvent (setChain l { c1 with phase := .taken b } (hostWritten u a [1]))) := by
    rw [exec_headerRead hwalks, reachBlock_read hplaced (answers_quiet hq),
      examineBlock_takes ⟨hp, hs, hn, by rw [harea]; exact hw, kindOfLane_iff.2 hk⟩, ← htake]
  refine ⟨_, hexec, hwalking.finish_others fun f hf => ?_, ?_, ?_⟩
  · exact (setChain_unseen l _ _ f fun s l r => hf s l r s.bus).trans (hf u u.lanes u.reports _)
  · rw [finishEvent_lanes, setChain, updateLane_lanes]
    have hlanes : u.lanes = _ := blockReached_lanes l c s
    show u.lanes.set l { u.lanes[l] with state := _ } = _
    rw [hlanes, getElem_setLane, Vector.set_set]
    rfl
  · have hbus : Raised (hostWritten s a [1]) (hostWritten u a [1]) [] [.lane l] := by
      have hset := hraised.bus { s.bus with mem := s.bus.mem.write a [1] }
      have hsame : hostWritten u a [1] = u.setBus { s.bus with mem := s.bus.mem.write a [1] } := by
        unfold hostWritten
        rw [hwalking.bus]
        rfl
      rw [hsame]
      exact hset
    exact (hbus.lane l _ (List.mem_singleton_self _)).finish hq

/-- Settles O46: the block ends (`Walking.ends`) by the first step it fails (`examineBlock_ends`). -/
theorem headerReadEndsBlock : Obligations.HeaderReadEndsBlock := by
  unfold Obligations.HeaderReadEndsBlock
  refine ⟨fun e => ?_, ?_⟩
  · cases e with
    | done => rfl
    | skipped => rfl
    | failed r d => cases r <;> rfl
  · intro s l c e a r n within own hwalks hq hplaced hends
    have hwalking := walking_blockReached hwalks
    rw [linkAnswered_quiet hq] at hwalking
    have hexamined : ExaminedEnding (blockReached l c s) l c (blockHeader s c.block) e := by
      unfold ExaminedEnding
      rw [hwalking.areaBytes, kindOfLane_iff]
      exact hends
    have hexec := exec_headerRead hwalks
    rw [reachBlock_read hplaced (answers_quiet hq), examineBlock_ends hexamined] at hexec
    exact ⟨_, hexec, hwalking.ends hq { c with position := c.position + 1 } _ _ _ e⟩

/-- Settles O47: a skip walk ends a block (`Walking.ends`), or passes it, the lane going on or leaving its chain
(`skipBlock_passes`). -/
theorem skipWalkSkipsBlock : Obligations.SkipWalkSkipsBlock := by
  unfold Obligations.SkipWalkSkipsBlock
  intro s l c a r c1 next hwalks hq hplaced hp
  have hwalking := walking_blockReached hwalks
  have hraised := raised_blockReached hwalks
  have hlanes := blockReached_lanes l c s
  rw [linkAnswered_quiet hq] at hwalking hraised
  have hexec := exec_skipWalk hwalks
  rw [reachBlock_read hplaced (answers_quiet hq)] at hexec
  refine ⟨_, hexec, hwalking.finish_others fun f hf => skipBlock_unseen l _ _ _ f hf, fun hlast => ?_, fun hlt hs => ?_,
    fun hlt hs => ?_⟩
  · rw [skipBlock_ends (.inl ⟨hlast, rfl⟩)]
    exact (hwalking.ends hq c1 _ _ _ _).2
  · rw [skipBlock_ends (.inr ⟨hlt, hs, rfl⟩)]
    exact (hwalking.ends hq c1 _ _ _ _).2
  · obtain ⟨-, -, hh, -⟩ := hwalks
    generalize blockReached l c s = u at *
    have hlane : u.lanes[l] = { s.lanes[l] with state := .running c1 } := by rw [hlanes, getElem_setLane]
    have hnone : u.lanes[l].halting = none := by rw [hlane]; exact hh
    have hpasses : skipBlock l c1 (blockHeader s c.block) u =
        if next = 0 then leaveChain l u else setChain l { c1 with block := next, phase := .skip } u := skipBlock_passes hlt hs hnone
    rw [hpasses, finishEvent_lanes]
    have hleave := hraised.leaveChain l (List.mem_singleton_self _)
    have hsilent : haltNotices u.lanes[l] = [] := by unfold haltNotices; rw [hnone]
    rw [hsilent, List.append_nil] at hleave
    by_cases hnext : next = 0
    · rw [if_pos hnext, if_pos hnext, leaveChain_lanes, hnone, hlane, laneFree_state, hlanes, Vector.set_set]
      exact ⟨rfl, hleave.finish hq⟩
    · rw [if_neg hnext, if_neg hnext, setChain, updateLane_lanes, hlane, hlanes, Vector.set_set]
      exact ⟨rfl, (hraised.lane l _ (List.mem_singleton_self _)).finish hq⟩

end Sys2Proof.Proofs
end

section
/-! Lane faults: a block that is misplaced, and the reads and writes of the walk that the link fails (R168 to R170, R177). -/

namespace Sys2Proof.Machine

open Safety

-- The proofs are elaborated in order: side by side, each would hold a thread of its own, and its memory.
set_option Elab.async false

/-- An ending cut short is the same before and after the header's read. -/
theorem cutEnding_linkAnswered (s : State) (block : Word) (e : Ending) (k landed : Nat) :
    cutEnding (linkAnswered s) block e k landed = cutEnding s block e k landed := by
  unfold cutEnding
  rw [cutShort_eq, cutShort_eq]
  rfl

section Faults
variable {s : State} {l : LaneId} {c : Chain} {phase : LanePhase} {rest : Chain → Header → State → State} {landed : Nat}
  (h : Walks s l phase c)
include h

/-! ## Steps 1 and 2 (R168) -/

theorem reachBlock_faults_placement (hq : s.bus.fate = []) (hp : ¬ Placed s c.block) :
    LaneFaults l s (finishEvent (reachBlock l c rest s)) .placement c.block := by
  rw [reachBlock_misplaced hp]
  exact (walking_of_walks h).faults hq _ _

theorem reachBlock_faults_areaRead (hp : Placed s c.block) (hf : s.bus.fate = failsAt 0 landed) :
    LaneFaults l { s with bus := { s.bus with fate := [] } } (finishEvent (reachBlock l c rest s)) .areaRead c.block := by
  rw [reachBlock_unread hp hf]
  exact ((walking_of_walks h).setBus _).faults rfl _ _

/-! ## The ending of a block that is not taken (R169, R170) -/

theorem reachBlock_faults_ending {notify hof : Bool} {next : Word} {e : Ending} {k : Nat} (hp : Placed s c.block) (hk : k < 4)
    (hf : s.bus.fate = failsAt (1 + k) landed)
    (hrest : rest { c with position := c.position + 1 } (blockHeader s c.block) (blockReached l c s) =
      endBlock l { c with position := c.position + 1 } notify hof next e (blockReached l c s)) :
    LaneFaults l (cutEnding s c.block e k landed) (finishEvent (reachBlock l c rest s)) .hostWrite c.block := by
  obtain ⟨hanswers, htail⟩ := answers_failsAt hf
  have hfaults := (walking_blockReached h).ending_fails hk htail { c with position := c.position + 1 } notify hof next e
  rw [reachBlock_read hp hanswers, hrest, ← cutEnding_linkAnswered]
  exact hfaults

/-! ## The body and TAKEN (R168, steps 5 to 7) -/

theorem examineBlock_faults_placement (hq : s.bus.fate = []) (hp : Placed s c.block) (hlt : c.position < 256)
    (hs : (blockHeader s c.block).status = 0) (hn : (blockHeader s c.block).bodyLength ≤ 288)
    (hw : ¬ c.block.toNat + 32 + (blockHeader s c.block).bodyLength ≤ areaBytes s) :
    LaneFaults l s (finishEvent (reachBlock l c (examineBlock l) s)) .placement c.block := by
  have hwalking := walking_blockReached h
  rw [linkAnswered_quiet hq] at hwalking
  rw [reachBlock_read hp (answers_quiet hq), examineBlock_leavesArea hlt hs hn (by rw [hwalking.areaBytes]; exact hw)]
  exact hwalking.faults hq _ _

/-- A block that is to be taken, its header read. -/
theorem reachBlock_takes (hp : Placed s c.block) (ht : ExaminedTake s l c (blockHeader s c.block))
    (ha : Answers s.bus) :
    reachBlock l c (examineBlock l) s = takeBlock l { c with position := c.position + 1 } (blockHeader s c.block)
      (blockReached l c s) := by
  have harea : areaBytes (blockReached l c s) = areaBytes s := (walking_blockReached h).areaBytes
  rw [reachBlock_read hp ha, examineBlock_takes]
  unfold ExaminedTake at ht ⊢
  rw [harea]
  exact ht

theorem takeBlock_faults_areaRead (hp : Placed s c.block) (ht : ExaminedTake s l c (blockHeader s c.block))
    (hn : (blockHeader s c.block).bodyLength ≠ 0) (hf : s.bus.fate = failsAt 1 landed) :
    LaneFaults l { s with bus := { s.bus with fate := [] } } (finishEvent (reachBlock l c (examineBlock l) s)) .areaRead c.block := by
  obtain ⟨hanswers, htail⟩ := answers_failsAt (k := 0) hf
  have hwalking := walking_blockReached h
  rw [reachBlock_takes h hp ht hanswers, takeBlock_unread hn (by rw [hwalking.bus]; exact htail), hwalking.bus]
  exact (hwalking.setBus _).faults rfl _ _

theorem takeBlock_faults_hostWrite (hp : Placed s c.block) (ht : ExaminedTake s l c (blockHeader s c.block))
    (hf : s.bus.fate = failsAt (1 + if (blockHeader s c.block).bodyLength = 0 then 0 else 1) landed) :
    LaneFaults l (cutShort s [(areaBase s + c.block.toNat, [1])] 0 landed) (finishEvent (reachBlock l c (examineBlock l) s))
      .hostWrite c.block := by
  obtain ⟨hanswers, htail⟩ := answers_failsAt hf
  have hwalking := walking_blockReached h
  rw [reachBlock_takes h hp ht hanswers, takeBlock_untaken (by rw [hwalking.bus]; exact htail), hwalking.bus, hwalking.areaBase,
    cutShort_eq]
  exact (hwalking.setBus _).faults rfl _ _

end Faults

/-! ## CLEAR LAYOUT whose ending fails (R78, R170) -/

/-- The action stands: the slot is EMPTY. -/
theorem clearLayout_faults {s : State} {c : Chain} {b : InHand} {y : LayoutId} {k landed : Nat} (hin : inHand s 0 = some (c, b))
    (hkind : b.kind = Kind.clearLayout.code) (ht : b.target = y.val) (hbody : b.body = []) (hk : k < 4)
    (hh : s.lanes[(0 : LaneId)].halting = none) (hn : NothingDue s) (hf : s.bus.fate = failsAt k landed) :
    ∃ t, exec .clearLayout s = .next t ∧
      LaneFaults 0 { cutEnding s c.block .done k landed with layouts := s.layouts.set y none } t .hostWrite c.block := by
  have hact : actClearLayout b s = (setLayout y none s, .done) := actClearLayout_done ht (by rw [hbody]; rfl)
  have hexec : exec .clearLayout s =
      .next (finishEvent (endBlock 0 c b.notify b.haltOnFail b.next .done (setLayout y none s))) := by
    show lane0Block .clearLayout actClearLayout s = _
    unfold lane0Block
    rw [hin]
    dsimp only
    rw [if_pos hkind, hact]
  have hwalking : Walking 0 (setLayout y none s) (setLayout y none s) := Walking.start (running_of_inHand hin) hh hn
  have hcut : cutEnding (setLayout y none s) c.block .done k landed =
      { cutEnding s c.block .done k landed with layouts := s.layouts.set y none } := by
    unfold cutEnding
    rw [cutShort_eq, cutShort_eq]
    rfl
  rw [← hcut]
  exact ⟨_, hexec, hwalking.ending_fails hk hf c _ _ _ _⟩

end Sys2Proof.Machine

namespace Sys2Proof.Proofs

open Sys2Proof Sys2Proof.Machine Sys2Proof.Safety

-- The proofs are elaborated in order: side by side, each would hold a thread of its own, and its memory.
set_option Elab.async false

/-- Settles O48: each fault of the walk by the transaction the link fails, for HEADER_READ and for SKIP_WALK, and that of CLEAR
LAYOUT (`clearLayout_faults`). -/
theorem misplacedBlockFaultsLane : Obligations.MisplacedBlockFaultsLane := by
  unfold Obligations.MisplacedBlockFaultsLane
  refine ⟨fun s l c i => ?_, fun s c b y k landed hin hkind ht hbody hk hh hn hf =>
    clearLayout_faults hin hkind ht hbody hk hh hn hf⟩
  intro a r n within own takes body ends
  rintro (⟨hwalks, rfl⟩ | ⟨hwalks, rfl⟩)
  · have hexec := exec_headerRead hwalks
    have htakes (h : takes) : ExaminedTake s l c (blockHeader s c.block) := by
      obtain ⟨-, hp, hs, hn, hw, hk⟩ := h
      exact ⟨hp, hs, hn, hw, kindOfLane_iff.2 hk⟩
    have hends {e : Ending} (h : ends e) : ExaminedEnding s l c (blockHeader s c.block) e := by
      unfold ExaminedEnding
      rw [kindOfLane_iff]
      rcases h with h | ⟨hi, -⟩ | ⟨-, hp, ⟨hs, he⟩ | ⟨hs, hn, he⟩ | ⟨hs, hn, hw, hk, he⟩⟩
      · exact .inl h
      · cases hi
      · exact .inr (.inl ⟨hp, hs, he⟩)
      · exact .inr (.inr (.inl ⟨hp, hs, hn, he⟩))
      · exact .inr (.inr (.inr ⟨hp, hs, hn, hw, hk, he⟩))
    refine ⟨fun hp hq => ⟨_, hexec, reachBlock_faults_placement hwalks hq hp⟩, fun hp => ⟨?_, ?_, ?_, ?_, ?_⟩⟩
    · exact fun _ hlt hq hs hn hw => ⟨_, hexec, examineBlock_faults_placement hwalks hq hp hlt hs hn hw⟩
    · exact fun landed hf => ⟨_, hexec, reachBlock_faults_areaRead hwalks hp hf⟩
    · exact fun landed ht hn hf => ⟨_, hexec, takeBlock_faults_areaRead hwalks hp (htakes ht) hn hf⟩
    · exact fun landed ht hf => ⟨_, hexec, takeBlock_faults_hostWrite hwalks hp (htakes ht) hf⟩
    · refine fun e k landed he hk hf => ⟨_, hexec, reachBlock_faults_ending hwalks hp hk hf (examineBlock_ends ?_)⟩
      unfold ExaminedEnding
      rw [(walking_blockReached hwalks).areaBytes]
      exact hends he
  · have hexec := exec_skipWalk hwalks
    refine ⟨fun hp hq => ⟨_, hexec, reachBlock_faults_placement hwalks hq hp⟩, fun hp => ⟨?_, ?_, ?_, ?_, ?_⟩⟩
    · exact fun hi => nomatch hi
    · exact fun landed hf => ⟨_, hexec, reachBlock_faults_areaRead hwalks hp hf⟩
    · exact fun landed ⟨hi, _⟩ => nomatch hi
    · exact fun landed ⟨hi, _⟩ => nomatch hi
    · refine fun e k landed he hk hf => ⟨_, hexec, reachBlock_faults_ending hwalks hp hk hf (skipBlock_ends ?_)⟩
      rcases he with he | ⟨-, hlt, hs, he⟩ | ⟨hi, -⟩
      · exact .inl he
      · exact .inr ⟨hlt, hs, he⟩
      · cases hi

end Sys2Proof.Proofs
end

section
/-! Host memory, frame memory and the notice word as one invariant of the part within an event (R172, R174 to R176), and how each
operation of the model keeps it. -/

namespace Sys2Proof.Machine

open Safety

-- The proofs are elaborated in order: side by side, each would hold a thread of its own, and its memory.
set_option Elab.async false

/-- Both memories have their canonical form, and IV stands only over a notice. -/
structure Intact (s : State) : Prop where
  frames : s.frameMem.wf
  host : s.bus.mem.wf
  iv : IvHasNotice s

section Frame
variable {s t : State}

/-- The invariant reads the two memories and the Report Writer. -/
theorem Intact.of (h : Intact s) (frames : t.frameMem = s.frameMem := by simp) (host : t.bus.mem = s.bus.mem := by simp)
    (reports : t.reports = s.reports := by simp) : Intact t := by
  obtain ⟨hframes, hhost, hiv⟩ := h
  refine ⟨frames ▸ hframes, host ▸ hhost, ?_⟩
  unfold IvHasNotice
  rw [reports]
  exact hiv

/-- The Report Writer takes a value in which IV does not stand. -/
theorem Intact.quiet (h : Intact s) (iv : t.reports.iv = false) (frames : t.frameMem = s.frameMem := by simp)
    (host : t.bus.mem = s.bus.mem := by simp) : Intact t :=
  ⟨frames ▸ h.frames, host ▸ h.host, fun hiv => absurd (iv.symm.trans hiv) Bool.false_ne_true⟩

/-- The link has written to host memory. -/
theorem Intact.setBus (h : Intact s) {b : Bus} (hb : b.mem.wf) : Intact (s.setBus b) := ⟨h.frames, hb, h.iv⟩

/-- The Report Writer takes a value with the same notice word and IV. -/
theorem Intact.setReports (h : Intact s) {v : Reports} (iv : v.iv = s.reports.iv := by rfl)
    (notice : v.notice = s.reports.notice := by rfl) : Intact (s.setReports v) := by
  refine ⟨h.frames, h.host, fun hiv => ?_⟩
  rw [State.setReports_reports, notice]
  exact h.iv (iv.symm.trans hiv)

theorem Intact.mark (h : Intact s) (r : Record) : Intact (mark r s) := ⟨h.frames, h.host, h.iv⟩

/-- A notice that is raised leaves a notice over which IV may stand (R174). -/
theorem Intact.raise (h : Intact s) (n : Notice) : Intact (raise n s) := by
  refine ⟨by simpa using h.frames, by simpa using h.host, fun hiv => ?_⟩
  rw [raise_notice]
  cases s.window.areaValid with
  | true => exact or_mask_ne_zero _ _
  | false => exact h.iv (by simpa using hiv)

theorem Intact.recordFault (h : Intact s) (c : FaultCause) (l : Option LaneId) (a : Nat) : Intact (recordFault c l a s) :=
  ((h.setReports (v := { s.reports with fault := some (nextFault c l a s.clock s.reports.fault) })).mark _).raise _

end Frame

variable {s : State}

/-! ## The Soil Monitor (chapter 3) -/

theorem Intact.updateSoil (h : Intact s) (p : PortId) (always : Bool) (m : Soil) : Intact (updateSoil p always m s) := by
  have h1 : Intact (Machine.mark (.soil p) (s.setSoil p m)) := Intact.mark h.of _
  unfold Machine.updateSoil
  dsimp only
  split
  · exact h1.raise _
  · exact h1

theorem Intact.abandonLearning (h : Intact s) (p : PortId) : Intact (abandonLearning p s) := by
  unfold Machine.abandonLearning
  dsimp only
  split
  · exact h
  · exact h.updateSoil p _ _

theorem Intact.learnSample (h : Intact s) (e : EvalEntry) (r : Learning) : Intact (learnSample e r s) := by
  unfold Machine.learnSample
  dsimp only
  split
  · exact (h.updateSoil _ _ _).mark _
  · exact h.updateSoil _ _ _

theorem Intact.evaluate (h : Intact s) (e : EvalEntry) : Intact (evaluate e s) := by
  unfold Machine.evaluate
  dsimp only
  split
  · exact h.of
  · exact h.updateSoil _ _ _

theorem Intact.serveEntry (h : Intact s) (e : EvalEntry) : Intact (serveEntry e s) := by
  unfold Machine.serveEntry
  dsimp only
  split
  · exact h.evaluate e
  · split
    · exact h.learnSample e _
    · exact h

theorem Intact.discardReference (h : Intact s) (p : PortId) : Intact (discardReference p s) := (h.updateSoil p _ _).mark _

theorem Intact.soilClose (h : Intact s) (p : PortId) (clean due : Bool) (stamp : Stamp) (sums : Vector CellSums 48) :
    Intact (soilClose p clean due stamp sums s) := by
  unfold Machine.soilClose
  dsimp only
  split
  · exact h
  · split
    · exact h.of
    · split
      · exact h.of
      · exact Intact.mark h.of _

theorem Intact.setLimits (h : Intact s) (p : PortId) (limits : SoilLimits) : Intact (setLimits p limits s) := by
  unfold Machine.setLimits
  extract_lets m m1
  split
  · exact h.of
  · exact h.updateSoil p _ _

/-! ## Ports (chapter 1) -/

theorem Intact.announceCamera (h : Intact s) (p : PortId) : Intact (announceCamera p s) := (h.mark _).raise _

theorem Intact.abortFrame (h : Intact s) (p : PortId) : Intact (abortFrame p s) := by
  unfold Machine.abortFrame
  split
  · exact h
  · exact Intact.mark h.of _

theorem Intact.takeOpen (h : Intact s) (p : PortId) (count width height : Half) : Intact (takeOpen p count width height s) := by
  have h1 := h.abortFrame p
  unfold Machine.takeOpen
  dsimp only
  split
  · exact h1.of
  · exact Intact.mark h1.of _

/-- A line stored is a run of bytes written to frame memory (R14). -/
theorem Intact.storeLine (h : Intact s) (p : PortId) (f : FrameInProgress) (bytes : List Byte) : Intact (storeLine p f bytes s) :=
  ⟨Memory.write_wf h.frames _ _, h.host, h.iv⟩

theorem Intact.patchLine (h : Intact s) (p : PortId) : Intact (patchLine p s) := by
  unfold Machine.patchLine
  split
  · exact h
  · rename_i f _
    exact (h.storeLine p { f with patched := f.patched + 1 } (patchBytes p f s)).of

theorem Intact.patchLines (p : PortId) (n : Nat) {s : State} (h : Intact s) : Intact (patchLines p n s) := by
  induction n generalizing s with
  | zero => exact h
  | succ n ih => exact ih (h.patchLine p)

theorem Intact.takeLine (h : Intact s) (p : PortId) (f : FrameInProgress) (n : Nat) (payload : List Byte) (check : Half) :
    Intact (takeLine p f n payload check s) := by
  have h1 := h.patchLines p (n - f.next)
  unfold Machine.takeLine
  dsimp only
  split
  · exact Intact.mark h.of _
  · split
    · exact h1
    · split
      · exact h1.storeLine p _ _
      · exact h1.patchLine p

theorem Intact.closeGood (h : Intact s) (p : PortId) (f : FrameInProgress) : Intact (closeGood p f s) := by
  have h1 := h.soilClose p (decide (f.patched = 0)) f.due s.store[p].slots[f.slot].stamp s.ports[p].sums
  unfold Machine.closeGood
  dsimp only
  split
  · exact h1.of
  · exact Intact.announceCamera h1.of p

theorem Intact.takeClose (h : Intact s) (p : PortId) (f : FrameInProgress) (count : Half) : Intact (takeClose p f count s) := by
  have h1 := h.patchLines p (s.ports[p].camera.height - f.next)
  unfold Machine.takeClose
  dsimp only
  split
  · exact h1
  · split
    · exact h1.closeGood p _
    · exact Intact.mark h1.of _

theorem Intact.losePort (h : Intact s) (p : PortId) : Intact (losePort p s) :=
  (Intact.abandonLearning h.of p).announceCamera p

theorem Intact.stopPort (h : Intact s) (p : PortId) : Intact (stopPort p s) := h.of

theorem Intact.parkPort (h : Intact s) (p : PortId) : Intact (parkPort p s) :=
  (Intact.abandonLearning (s := State.setPort _ _ _) (h.stopPort p).of p).announceCamera p

theorem Intact.restartPort (h : Intact s) (p : PortId) : Intact (restartPort p s) :=
  Intact.announceCamera (s := State.setPort _ _ _) (h.stopPort p).of p

theorem Intact.seekPort (h : Intact s) (p : PortId) : Intact (seekPort p s) := Intact.announceCamera h.of p

theorem Intact.defineCamera (h : Intact s) (p : PortId) (c : CameraRecord) : Intact (defineCamera p c s) := by
  unfold Machine.defineCamera
  dsimp only
  split
  · exact (Intact.discardReference h.of p).announceCamera p
  · exact Intact.announceCamera h.of p

/-! ## Sides and doors (chapters 6 and 7), mode (chapter 11) -/

theorem Intact.recomputeLines (h : Intact s) : Intact (recomputeLines s) := by
  unfold Machine.recomputeLines
  split
  · exact h
  · exact (Intact.mark h.of _).raise _

theorem Intact.reportDoor (h : Intact s) (before : Vector Door 8) (k : DoorId) : Intact (reportDoor before s k) := by
  have h1 : Intact (if s.doors[k].reported = before[k].reported then s else Machine.mark (.door k) s) := by
    split
    · exact h
    · exact h.mark _
  unfold Machine.reportDoor
  dsimp only
  split
  · exact h1
  · exact h1.raise _

theorem Intact.reportDoorList (before : Vector Door 8) (ks : List DoorId) {s : State} (h : Intact s) :
    Intact (ks.foldl (Machine.reportDoor before) s) := by
  induction ks generalizing s with
  | nil => exact h
  | cons k ks ih => exact ih (h.reportDoor before k)

theorem Intact.reportDoors (h : Intact s) (before : Vector Door 8) : Intact (reportDoors before s) :=
  Intact.reportDoorList before _ h

theorem Intact.doorsChanged (h : Intact s) (before : Vector Door 8) : Intact (doorsChanged before s) :=
  (Intact.recomputeLines (s := recomputeCalling s) h.of).reportDoors before

theorem Intact.wakePort (h : Intact s) (p : PortId) : Intact (wakePort s p) := by
  unfold Machine.wakePort
  split
  · exact h.seekPort p
  · exact h

theorem Intact.wakePorts (ps : List PortId) {s : State} (h : Intact s) : Intact (ps.foldl Machine.wakePort s) := by
  induction ps generalizing s with
  | nil => exact h
  | cons p ps ih => exact ih (h.wakePort p)

theorem Intact.leaveStabling (h : Intact s) (cause : WakeCause) : Intact (leaveStabling cause s) := by
  have hw := Intact.wakePorts (List.finRange 12) h
  unfold Machine.leaveStabling
  generalize (List.finRange 12).foldl Machine.wakePort s = u at hw
  exact hw.of

theorem Intact.announceWake (h : Intact s) : Intact (announceWake s) := (h.mark _).raise _

theorem Intact.wakePart (h : Intact s) (cause : WakeCause) : Intact (wakePart cause s) := by
  unfold Machine.wakePart
  split
  · exact h
  · exact (h.leaveStabling cause).recomputeLines.announceWake

theorem Intact.changeDoor (h : Intact s) (k : DoorId) (level : Bool) : Intact (changeDoor k level s) :=
  Intact.doorsChanged (s := s.setDoor k _) h.of _

theorem Intact.doorLevel (h : Intact s) (k : DoorId) (level : Bool) : Intact (doorLevel k level s) := by
  unfold Machine.doorLevel
  split
  · exact h.changeDoor k level
  · exact ((h.leaveStabling (.door k)).changeDoor k level).announceWake

theorem Intact.parkRunning (h : Intact s) (p : PortId) : Intact (parkRunning s p) := by
  unfold Machine.parkRunning
  split
  · exact h
  · exact h.parkPort p

theorem Intact.parkPorts (ps : List PortId) {s : State} (h : Intact s) : Intact (ps.foldl Machine.parkRunning s) := by
  induction ps generalizing s with
  | nil => exact h
  | cons p ps ih => exact ih (h.parkRunning p)

/-! ## The lanes (chapter 9) -/

theorem Intact.updateLane (h : Intact s) (l : LaneId) (v : Lane) : Intact (updateLane l v s) := by
  unfold Machine.updateLane
  split
  · exact h.of
  · exact Intact.mark h.of _

theorem Intact.takeUp (h : Intact s) (l : LaneId) : Intact (takeUp l s) := by
  unfold Machine.takeUp
  dsimp only
  split
  · exact h.updateLane l _
  · exact h

theorem Intact.stopLane (h : Intact s) (l : LaneId) (k : Halt) : Intact (stopLane l k s) := by
  unfold Machine.stopLane
  dsimp only
  split
  · exact ((h.updateLane l _).raise _).takeUp l
  · exact (h.updateLane l _).takeUp l

/-- A lane whose halt may wait stops at it, or goes on as it was. -/
theorem Intact.halted (h : Intact s) (l : LaneId) :
    Intact (match s.lanes[l].halting with | some k => Machine.stopLane l k s | none => s) := by
  split
  · exact h.stopLane l _
  · exact h

theorem Intact.leaveChain (h : Intact s) (l : LaneId) : Intact (leaveChain l s) := by
  unfold Machine.leaveChain
  split
  · exact h.stopLane l _
  · exact (h.updateLane l _).takeUp l

theorem Intact.laneFault (h : Intact s) (l : LaneId) (cause : FaultCause) (offset : Word) : Intact (laneFault l cause offset s) :=
  ((h.recordFault cause (some l) offset.toNat).updateLane l _).halted l

theorem Intact.faultLane1 (h : Intact s) : Intact (faultLane1 s) := (h.updateLane 1 _).halted 1

theorem Intact.countEnding (h : Intact s) (l : LaneId) (notify : Bool) (e : Ending) : Intact (countEnding l notify e s) := by
  unfold Machine.countEnding
  dsimp only
  split
  · exact (h.updateLane l _).raise _
  · exact h.updateLane l _

theorem Intact.advance (h : Intact s) (l : LaneId) (c : Chain) (hof : Bool) (next : Word) (e : Ending) :
    Intact (advance l c hof next e s) := by
  have hgo (c : Chain) : Intact (setChain l c s) := h.updateLane l _
  have hleave := h.leaveChain l
  unfold Machine.advance
  split
  · exact h.stopLane l _
  · split
    · exact hleave
    all_goals
      split
      · exact hleave
      · exact hgo _

/-- The ending of a block reaches host memory by four writes (R167). -/
theorem Intact.writeEnding (h : Intact s) (block : Word) (e : Ending) : (writeEnding s block e).1.mem.wf := by
  obtain ⟨hwf, -⟩ := writeEnding_spec s block e
  exact hwf h.host

theorem Intact.endBlock (h : Intact s) (l : LaneId) (c : Chain) (notify hof : Bool) (next : Word) (e : Ending) :
    Intact (endBlock l c notify hof next e s) := by
  have hbus := h.setBus (h.writeEnding c.block e)
  unfold Machine.endBlock
  generalize Machine.writeEnding s c.block e = r at hbus ⊢
  obtain ⟨b, ok⟩ := r
  cases ok with
  | true => exact (hbus.countEnding l notify e).advance l c hof next e
  | false => exact hbus.laneFault l _ _

/-- A read over the link leaves host memory as it was. -/
theorem Intact.read (h : Intact s) (a n : Nat) : (s.bus.read a n).1.mem.wf := by
  obtain ⟨hmem, -⟩ := Bus.read_spec s.bus a n
  exact hmem ▸ h.host

theorem Intact.reachBlock (h : Intact s) (l : LaneId) (c : Chain) (rest : Chain → Header → State → State)
    (hr : ∀ c g u, Intact u → Intact (rest c g u)) : Intact (reachBlock l c rest s) := by
  have hbus := h.setBus (h.read (blockAddress s c.block 0) 32)
  unfold Machine.reachBlock
  split
  · generalize s.bus.read (blockAddress s c.block 0) 32 = r at hbus ⊢
    obtain ⟨b, _ | bs⟩ := r
    · exact hbus.laneFault l _ _
    · exact hr _ _ _ (hbus.updateLane l _)
  · exact h.laneFault l _ _

theorem Intact.readBody (h : Intact s) (block : Word) (n : Nat) : (readBody s block n).1.mem.wf := by
  unfold Machine.readBody
  split
  · exact h.host
  · exact h.read _ _

theorem Intact.takeBlock (h : Intact s) (l : LaneId) (c : Chain) (g : Header) : Intact (takeBlock l c g s) := by
  have hread := h.readBody c.block g.bodyLength
  unfold Machine.takeBlock
  generalize Machine.readBody s c.block g.bodyLength = r at hread ⊢
  obtain ⟨b, _ | body⟩ := r
  · exact (h.setBus hread).laneFault l _ _
  · obtain ⟨hwrite, -⟩ := Bus.write_spec b (blockAddress s c.block 0) [1]
    have hbus := h.setBus (hwrite hread)
    dsimp only
    generalize b.write (blockAddress s c.block 0) [1] = w at hbus ⊢
    obtain ⟨b', ok⟩ := w
    cases ok with
    | true => exact hbus.updateLane l _
    | false => exact hbus.laneFault l _ _

theorem Intact.examineBlock (h : Intact s) (l : LaneId) (c : Chain) (g : Header) : Intact (examineBlock l c g s) := by
  have hfail (r : Reason) (d : Nat) := h.endBlock l c g.notify g.haltOnFail g.next (.failed r d)
  unfold Machine.examineBlock
  dsimp only
  split
  · exact hfail _ _
  · split
    · exact hfail _ _
    · split
      · exact hfail _ _
      · split
        · exact h.laneFault l _ _
        · split
          · exact h.takeBlock l c g
          · exact hfail _ _

theorem Intact.skipBlock (h : Intact s) (l : LaneId) (c : Chain) (g : Header) : Intact (skipBlock l c g s) := by
  unfold Machine.skipBlock
  split
  · exact h.endBlock l _ _ _ _ _
  · split
    · exact h.endBlock l _ _ _ _ _
    · exact h.advance l _ _ _ _

/-! ## The Export Mover (chapter 8) -/

theorem Intact.endExport (h : Intact s) (e : Ending) : Intact (endExport e s) := by
  have hdrop : Intact (dropExport s) := h.of
  unfold Machine.endExport
  split
  · exact hdrop
  · exact hdrop.endBlock 1 _ _ _ _ _

theorem Intact.exportWriteError (h : Intact s) : Intact (exportWriteError s) := by
  have hdrop : Intact (dropExport s) := h.of
  unfold Machine.exportWriteError
  split
  · exact hdrop
  · rename_i c b _
    have hfault := hdrop.recordFault .hostWrite (some 1) c.block.toNat
    have hbus := hfault.setBus (hfault.writeEnding c.block (.failed .hostWrite 0))
    dsimp only
    generalize Machine.writeEnding _ c.block _ = r at hbus ⊢
    obtain ⟨b', ok⟩ := r
    cases ok with
    | true => exact (hbus.countEnding 1 b.notify _).faultLane1
    | false => exact (hbus.recordFault .hostWrite (some 1) c.block.toNat).faultLane1

theorem Intact.haltLane (h : Intact s) (l : LaneId) (k : Halt) : Intact (haltLane l k s) := by
  have hempty := h.updateLane l { s.lanes[l] with queue := [] }
  unfold Machine.haltLane
  dsimp only
  split
  · exact hempty.stopLane l _
  · have hwait (v : Lane) := hempty.updateLane l v
    split
    · exact hwait _
    · split
      · exact (hwait _).endExport _
      · exact (hwait _).endBlock l _ _ _ _ _

theorem Intact.completeExport (h : Intact s) (count : Nat) (stamp : Stamp) (width height : Nat) :
    Intact (completeExport count stamp width height s) := by
  obtain ⟨hwrite, -⟩ := Bus.writeAll_spec s.bus (fieldWrites s count stamp width height)
  have hbus := h.setBus (hwrite h.host)
  unfold Machine.completeExport
  generalize s.bus.writeAll (fieldWrites s count stamp width height) = r at hbus ⊢
  obtain ⟨b, ok⟩ := r
  cases ok with
  | true => exact hbus.endExport _
  | false => exact hbus.exportWriteError

theorem Intact.exportAtStart (h : Intact s) (d : DisplayId) : Intact (exportAtStart d s) := by
  unfold Machine.exportAtStart
  split
  · split
    · dsimp only
      split
      · split
        · exact h.endExport _
        · exact h.of
      · exact h.endExport _
    · exact h
  · exact h
  · exact h
  · exact h

theorem Intact.exportAtEnd (h : Intact s) (d : DisplayId) : Intact (exportAtEnd d s) := by
  unfold Machine.exportAtEnd
  split
  · split
    · exact h.completeExport _ _ _ _
    · exact h
  · exact h
  · exact h
  · exact h

theorem Intact.stopForeignExport (h : Intact s) : Intact (stopForeignExport s) := by
  unfold Machine.stopForeignExport
  split
  · split
    · exact h
    · exact h.endExport _
  · split
    · exact h
    · exact h.endExport _
  · exact h
  · exact h

theorem Intact.stopCopying (h : Intact s) : Intact (stopCopying s) := by
  unfold Machine.stopCopying
  split
  · exact h.endExport _
  · exact h
  · exact h
  · exact h

theorem Intact.takeExportFrame (h : Intact s) (p : PortId) (ops : ExportOperands) : Intact (takeExportFrame p ops s) := by
  have hlock (i : SlotId) : Intact (lockExport p ops i s) := h.of
  unfold Machine.takeExportFrame
  dsimp only
  split
  · exact h.endExport _
  · split
    · exact h.endExport _
    · split
      · exact (hlock _).endExport _
      · exact hlock _

theorem Intact.takeExportScreen (h : Intact s) (d : DisplayId) (ops : ExportOperands) : Intact (takeExportScreen d ops s) := by
  unfold Machine.takeExportScreen
  split
  · split
    · exact h.endExport _
    · exact h.of
  · exact h.endExport _

/-! ## Frame starts, the blocks of the displays, the doors and the cab, and entry to stabling -/

theorem Intact.doorSteps (h : Intact s) (d : DisplayId) : Intact (doorSteps d s) := by
  unfold Machine.doorSteps
  split
  · exact Intact.doorsChanged h.of _
  · exact h

theorem Intact.takeFrameStart (h : Intact s) (d : DisplayId) : Intact (takeFrameStart d s) := by
  have hpipe : Intact (pipeStarted d s) := h.of (by simp [pipeStarted]) (by simp [pipeStarted]) (by simp [pipeStarted])
  have hstart := (hpipe.exportAtStart d).doorSteps d
  rw [takeFrameStart_eq]
  split
  · exact hstart.mark _
  · exact hstart

theorem Intact.setDisplay (h : Intact s) (d : DisplayId) (settings : DisplaySettings) : Intact (setDisplay d settings s) := by
  unfold Machine.setDisplay
  dsimp only
  split
  · exact h.of
  · exact Intact.takeFrameStart h.of d

theorem Intact.handover (h : Intact s) (cab : Option AB) : Intact (handover cab s) := by
  have hdoors : Intact (recomputeOverrides (handoverDoors { s with cab })) := h.of
  exact ((hdoors.recomputeLines.reportDoors s.doors).stopForeignExport.mark _).raise _

theorem Intact.setDoorPolicy (h : Intact s) (body : List Byte) : Intact (setDoorPolicy body s) :=
  Intact.doorsChanged h.of _

theorem Intact.enterStabling (h : Intact s) : Intact (enterStabling s) := by
  have hrecord : Intact { s with wakeRecord := Vector.ofFn fun p => decide (s.ports[p].state ≠ .parked) } := h.of
  have hparked := Intact.parkPorts (List.finRange 12) hrecord
  unfold Machine.enterStabling
  dsimp only
  generalize (List.finRange 12).foldl Machine.parkRunning _ = u at hparked ⊢
  have hstabled : Intact { u with mode := .stabled } := hparked.of
  exact hstabled.recomputeLines.stopCopying.mark _

/-! ## The attention words and the full report (chapters 9 and 10) -/

theorem Intact.runChain (h : Intact s) (w head : Word) : Intact (runChain w head s) := by
  unfold Machine.runChain
  split
  · exact h.of
  · split
    · exact h.of
    · split
      · exact h.of
      · exact ((h.wakePart .runChain).updateLane _ _).takeUp _

theorem Intact.haltByWord (h : Intact s) (w head : Word) : Intact (haltByWord w head s) := by
  unfold Machine.haltByWord
  split
  · exact h.of
  · exact h.haltLane _ _

/-- ACKNOWLEDGE clears IV, so that no notice need be left (R176). -/
theorem Intact.acknowledge (h : Intact s) (w head : Word) : Intact (acknowledge w head s) :=
  h.quiet rfl

theorem Intact.fullReport (h : Intact s) (always : Bool) : Intact (fullReport always s) := by
  have hall {u : State} (hu : Intact u) : Intact (markAll u) := hu.setReports
  have hflows : Intact (s.setReports { s.reports with suspended := false }) := h.setReports
  unfold Machine.fullReport
  dsimp only
  split
  · exact hall (Intact.raise (Intact.setReports hflows) _)
  · exact hall hflows

/-- RESTART 15 clears the notice word and IV before the full report (R164). -/
theorem Intact.restartAll (h : Intact s) : Intact (restartAll s) := by
  have hhalted := (h.haltLane 0 { announce := false, zero := true }).haltLane 1 { announce := false, zero := true }
  unfold Machine.restartAll
  dsimp only
  generalize Machine.haltLane 1 _ _ = u at hhalted ⊢
  split
  · exact Intact.fullReport (hhalted.quiet rfl) true
  · exact hhalted.quiet rfl

theorem Intact.restartByWord (h : Intact s) (w head : Word) : Intact (restartByWord w head s) := by
  unfold Machine.restartByWord
  split
  · exact h.restartPort _
  · split
    · exact h.haltLane _ _
    · split
      · exact h.haltLane _ _
      · split
        · exact h.restartAll
        · exact h.of

end Sys2Proof.Machine
end

section
/-! Every command keeps the memories canonical and IV over a notice, and leaves no record due (R172, R175, R176). -/

namespace Sys2Proof.Machine

open Safety

-- The proofs are elaborated in order: side by side, each would hold a thread of its own, and its memory.
set_option Elab.async false

/-- Between two events the part is intact, and no record is left to be written. -/
structure Rested (s : State) : Prop extends Intact s where
  due : NothingDue s

theorem rested_iff (s : State) : Rested s ↔ MemoryCanonical s ∧ IvHasNotice s ∧ NothingDue s := by
  constructor
  · rintro ⟨⟨hframes, hhost, hiv⟩, hdue⟩
    exact ⟨⟨hframes, hhost⟩, hiv, hdue⟩
  · rintro ⟨⟨hframes, hhost⟩, hiv, hdue⟩
    exact ⟨⟨hframes, hhost, hiv⟩, hdue⟩

/-- Every state that an outcome can go on to is one between two events. -/
def KeepsRested (o : Host.Outcome State Fault Refusal) : Prop := ∀ t, o = .next t → Rested t

variable {s t : State}

/-- The end of an event writes what is due and settles IV (R172, R175). -/
theorem Intact.finish (h : Intact s) : Rested (finishEvent s) := by
  obtain ⟨hmem, -, -, hiv, hdue, -⟩ := finishEvent_spec s
  exact ⟨⟨by simpa using h.frames, hmem h.host, hiv h.iv⟩, hdue⟩

/-- A command that leaves the two memories and the Report Writer. -/
theorem Rested.of (h : Rested s) (frames : t.frameMem = s.frameMem := by simp) (host : t.bus.mem = s.bus.mem := by simp)
    (reports : t.reports = s.reports := by simp) : Rested t := by
  refine ⟨h.toIntact.of frames host reports, ?_⟩
  unfold NothingDue
  rw [reports]
  exact h.due

theorem Rested.keeps (h : Rested s) : KeepsRested (.next s) := by
  rintro _ ⟨⟩
  exact h

/-- A command that is an event ends with its reports written. -/
theorem Intact.ends (h : Intact s) : KeepsRested (.next (finishEvent s)) := h.finish.keeps

theorem keepsRested_fault (f : Fault) : KeepsRested (.fault f) := by
  intro t h
  cases h

/-! ## Packets, timers and frames -/

theorem Rested.frameOpen (h : Rested s) (p : PortId) (count width height : Half) :
    KeepsRested (execFrameOpen p count width height s) := by
  unfold execFrameOpen
  split
  · exact h.keeps
  · exact (h.takeOpen p count width height).ends

theorem Rested.line (h : Rested s) (p : PortId) (n : Half) (payload : List Byte) (check : Half) :
    KeepsRested (execLine p n payload check s) := by
  unfold execLine
  split
  · exact h.keeps
  · split
    · exact h.keeps
    · split
      · exact (h.takeLine p _ _ _ _).ends
      · exact keepsRested_fault _

theorem Rested.frameClose (h : Rested s) (p : PortId) (count : Half) : KeepsRested (execFrameClose p count s) := by
  unfold execFrameClose
  split
  · exact h.keeps
  · split
    · exact h.keeps
    · split
      · exact (h.takeClose p _ _).ends
      · exact keepsRested_fault _

theorem Rested.silenceTimerExpiry (h : Rested s) (p : PortId) : KeepsRested (execSilenceTimerExpiry p s) := by
  unfold execSilenceTimerExpiry
  split
  · exact (h.losePort p).ends
  · exact h.keeps

theorem Rested.evaluationService (h : Rested s) : KeepsRested (execEvaluationService s) := by
  unfold execEvaluationService
  split
  · exact h.keeps
  · exact (Intact.serveEntry (s := { s with evalQueue := _ }) h.toIntact.of _).ends

theorem Rested.frameStart (h : Rested s) (d : DisplayId) : KeepsRested (execFrameStart d s) := by
  unfold execFrameStart
  split
  · exact (h.takeFrameStart d).ends
  · exact h.keeps

theorem Rested.frameEnd (h : Rested s) (d : DisplayId) : KeepsRested (execFrameEnd d s) := by
  have hended : Intact (frameEnded d s) := h.toIntact.of (by simp [frameEnded]) (by simp [frameEnded]) (by simp [frameEnded])
  unfold execFrameEnd
  split
  · exact (hended.exportAtEnd d).ends
  · exact h.keeps

theorem Rested.holdExpiry (h : Rested s) (d : DisplayId) (side : CabSide) : KeepsRested (execHoldExpiry d side s) := by
  unfold execHoldExpiry
  cases side with
  | left => exact Rested.keeps h.of
  | right => exact Rested.keeps h.of

theorem Rested.doorLineEdge (h : Rested s) (k : DoorId) (level : Bool) : KeepsRested (execDoorLineEdge k level s) := by
  have hd (r : Door) : Rested (s.setDoor k r) := h.of
  unfold execDoorLineEdge
  dsimp only
  split
  · exact h.keeps
  · split
    · exact (hd _).keeps
    · split
      · exact ((hd _).doorLevel k level).ends
      · exact (hd _).keeps

theorem Rested.debounceExpiry (h : Rested s) (k : DoorId) : KeepsRested (execDebounceExpiry k s) := by
  have hd (r : Door) : Rested (s.setDoor k r) := h.of
  unfold execDebounceExpiry
  dsimp only
  split
  · exact h.keeps
  · split
    · split
      · exact (hd _).keeps
      · exact ((hd _).doorLevel k _).ends
    · exact h.keeps

/-! ## The register window and the attention words -/

/-- Of the register writes, the one that validates the area is an event with reports (R158). -/
theorem Rested.writeAreaSize (h : Rested s) (value : Word) : Rested (writeAreaSize value s) := by
  unfold Machine.writeAreaSize
  split
  · exact h.of
  · dsimp only
    split
    · exact (Intact.fullReport (s := s.setWindow _) h.toIntact.of false).finish
    · exact h.of

theorem Rested.writeRegister (h : Rested s) (value : Word) (r : HostRegister) : Rested (writeRegister value s r) := by
  cases r with
  | ident => exact h
  | areaLo =>
    show Rested (writeAreaLo value s)
    unfold writeAreaLo
    split <;> exact h.of
  | areaHi =>
    show Rested (writeAreaHi value s)
    unfold writeAreaHi
    split <;> exact h.of
  | areaSize => exact h.writeAreaSize value
  | command => exact h.of (t := s.setWindow _)
  | attention =>
    show Rested (writeAttention value s)
    unfold writeAttention
    split <;> exact h.of
  | status => exact h
  | resetCause => exact h.of (t := s.setWindow _)

/-- A captured word is taken, and its effect is an event. -/
theorem Rested.takeWord (h : Rested s) (code : Nat) (effect : Word → Word → State → State)
    (he : ∀ w head u, Intact u → Intact (effect w head u)) : KeepsRested (takeWord code effect s) := by
  unfold Machine.takeWord
  split
  · exact h.keeps
  · split
    · exact (he _ _ _ h.toIntact.of).ends
    · exact h.keeps

theorem Rested.badCode (h : Rested s) : KeepsRested (execBadCode s) := by
  unfold execBadCode
  split
  · exact h.keeps
  · split
    · exact h.keeps
    · exact Rested.keeps h.of

/-! ## The lanes -/

theorem Rested.headerRead (h : Rested s) (l : LaneId) : KeepsRested (execHeaderRead l s) := by
  unfold execHeaderRead
  split
  · exact h.keeps
  · exact (h.reachBlock l _ _ fun _ _ _ hu => hu.examineBlock l _ _).ends

theorem Rested.skipWalk (h : Rested s) (l : LaneId) : KeepsRested (execSkipWalk l s) := by
  unfold execSkipWalk
  split
  · exact h.keeps
  · exact (h.reachBlock l _ _ fun _ _ _ hu => hu.skipBlock l _ _).ends

theorem Rested.exportFrame (h : Rested s) : KeepsRested (execExportFrame s) := by
  unfold execExportFrame
  split
  · exact h.keeps
  · split
    · exact (h.endExport _).ends
    · split
      · exact (h.endExport _).ends
      · exact (h.takeExportFrame _ _).ends

theorem Rested.exportScreen (h : Rested s) : KeepsRested (execExportScreen s) := by
  unfold execExportScreen
  split
  · exact h.keeps
  · split
    · exact (h.endExport _).ends
    · split
      · exact (h.endExport _).ends
      · exact (h.takeExportScreen _ _).ends

/-- A row of an Export reaches host memory by one write; where it is not the last one, nothing is reported (R147, R151). -/
theorem Rested.rowWritten (h : Rested s) (a : Nat) (row : List Byte) (m : Export) :
    Rested { s.setBus (s.bus.write a row).1 with mover := m } := by
  obtain ⟨hwrite, -⟩ := Bus.write_spec s.bus a row
  exact ⟨(h.setBus (hwrite h.host)).of, h.due⟩

theorem Rested.exportFrameRow (h : Rested s) : KeepsRested (execExportFrameRow s) := by
  unfold execExportFrameRow
  split
  · rename_i p ops i width height count stamp rows _
    split
    · split
      · have hrow := h.rowWritten (ops.dest + rows * ops.stride) (s.frameMem.readBytes (lineBase p i width rows) (2 * width))
        generalize s.bus.write _ _ = r at hrow ⊢
        obtain ⟨b, ok⟩ := r
        cases ok with
        | false => exact (hrow s.mover).exportWriteError.ends
        | true =>
          dsimp only
          split
          · exact ((hrow _).completeExport _ _ _ _).ends
          · exact (hrow _).keeps
      · exact h.keeps
    · exact keepsRested_fault _
  · exact h.keeps
  · exact h.keeps
  · exact h.keeps

theorem Rested.exportScreenRow (h : Rested s) : KeepsRested (execExportScreenRow s) := by
  unfold execExportScreenRow
  split
  · rename_i d ops width height stamp count rows _
    split
    · split
      · have hrow := h.rowWritten (ops.dest + rows * ops.stride) (outputRow s s.displays[d] width rows)
        generalize s.bus.write _ _ = r at hrow ⊢
        obtain ⟨b, ok⟩ := r
        cases ok with
        | false => exact (hrow s.mover).exportWriteError.ends
        | true => exact (hrow _).keeps
      · exact h.keeps
    · exact keepsRested_fault _
  · exact h.keeps
  · exact h.keeps
  · exact h.keeps

/-! ## The lane 0 blocks -/

/-- A lane 0 block acts and ends, in one event. -/
theorem Rested.lane0Block (h : Rested s) (kind : Kind) (act : InHand → State → State × Ending)
    (ha : ∀ b, Intact (act b s).1) : KeepsRested (lane0Block kind act s) := by
  unfold Machine.lane0Block
  split
  · exact h.keeps
  · rename_i c b _
    split
    · have hb := ha b
      generalize act b s = r at hb
      obtain ⟨u, e⟩ := r
      exact (hb.endBlock 0 _ _ _ _ _).ends
    · exact h.keeps

theorem Intact.actDefineCamera (h : Intact s) (b : InHand) : Intact (actDefineCamera b s).1 := by
  unfold Machine.actDefineCamera
  split
  · exact h
  · split
    · exact h
    · split
      · exact h
      · split
        · exact h
        · exact h.defineCamera _ _

theorem Intact.actParkCamera (h : Intact s) (b : InHand) : Intact (actParkCamera b s).1 := by
  unfold Machine.actParkCamera
  split
  · exact h
  · split
    · exact h
    · split
      · exact h
      · exact h.parkPort _

theorem Intact.actUnparkCamera (h : Intact s) (b : InHand) : Intact (actUnparkCamera b s).1 := by
  unfold Machine.actUnparkCamera
  split
  · exact h
  · split
    · exact h
    · split
      · exact h
      · split
        · exact h.seekPort _
        · exact h

theorem Intact.actLoadLayout (h : Intact s) (b : InHand) : Intact (actLoadLayout b s).1 := by
  unfold Machine.actLoadLayout
  split
  · exact h
  · split
    · split
      · exact h
      · exact h.of
    · exact h

theorem Intact.actClearLayout (h : Intact s) (b : InHand) : Intact (actClearLayout b s).1 := by
  unfold Machine.actClearLayout
  split
  · exact h
  · split
    · exact h
    · exact h.of

theorem Intact.actSelectLayout (h : Intact s) (b : InHand) : Intact (actSelectLayout b s).1 := by
  unfold Machine.actSelectLayout
  split
  · exact h
  · split
    · exact h
    · split
      · exact h
      · exact h.of

theorem Intact.actSetDisplay (h : Intact s) (b : InHand) : Intact (actSetDisplay b s).1 := by
  unfold Machine.actSetDisplay
  split
  · exact h
  · split
    · exact h
    · split
      · exact h
      · split
        · exact h
        · dsimp only
          exact h.setDisplay _ _

theorem Intact.actSetCab (h : Intact s) (b : InHand) : Intact (actSetCab b s).1 := by
  unfold Machine.actSetCab
  split
  · exact h
  · split
    · exact h
    · split
      · exact h
      · dsimp only
        exact h.handover _

theorem Intact.actSetDoorPolicy (h : Intact s) (b : InHand) : Intact (actSetDoorPolicy b s).1 := by
  unfold Machine.actSetDoorPolicy
  split
  · exact h
  · split
    · dsimp only
      exact h.setDoorPolicy _
    · exact h

theorem Intact.actEnterStabling (h : Intact s) (b : InHand) : Intact (actEnterStabling b s).1 := by
  unfold Machine.actEnterStabling
  split
  · exact h
  · split
    · exact h
    · split
      · dsimp only
        exact h.enterStabling
      · exact h

theorem Intact.actLearnReference (h : Intact s) (b : InHand) : Intact (actLearnReference b s).1 := by
  unfold Machine.actLearnReference
  split
  · exact h
  · dsimp only
    split
    · exact h
    · split
      · exact h
      · split
        · exact h.updateSoil _ _ _
        · exact h

theorem Intact.actSetReference (h : Intact s) (b : InHand) : Intact (actSetReference b s).1 := by
  unfold Machine.actSetReference
  split
  · exact h
  · split
    · exact h
    · split
      · exact h
      · exact (h.updateSoil _ _ _).mark _

theorem Intact.actMeasureOnce (h : Intact s) (b : InHand) : Intact (actMeasureOnce b s).1 := by
  unfold Machine.actMeasureOnce
  split
  · exact h
  · split
    · exact h
    · split
      · exact h
      · exact h.of

theorem Intact.actSetSoilLimits (h : Intact s) (b : InHand) : Intact (actSetSoilLimits b s).1 := by
  unfold Machine.actSetSoilLimits
  split
  · exact h
  · split
    · exact h
    · split
      · exact h.setLimits _ _
      · exact h

/-! ## Every command -/

/-- At power-on IV is clear and nothing is due; the two memories keep what they hold (R23, R171). -/
theorem Rested.powerOn (h : Rested s) : Rested (powerOn s) :=
  ⟨h.toIntact.quiet (t := Machine.powerOn s) rfl rfl rfl, rfl⟩

/-- A link reset clears IV and the notice word (R171). -/
theorem Rested.linkReset (h : Rested s) : Rested (linkReset s) :=
  ⟨h.toIntact.quiet (t := Machine.linkReset s) rfl rfl rfl, rfl⟩

/-- Every command that has an outcome leaves the part as it is between two events. -/
theorem Rested.exec (h : Rested s) (i : Instr) : KeepsRested (exec i s) := by
  cases i with
  | powerOn => exact h.powerOn.keeps
  | linkReset => exact h.linkReset.keeps
  | frameOpen p count width height => exact h.frameOpen p count width height
  | line p n payload check => exact h.line p n payload check
  | frameClose p count => exact h.frameClose p count
  | unknownPacket p => exact h.keeps
  | silenceTimerExpiry p => exact h.silenceTimerExpiry p
  | evaluationService => exact h.evaluationService
  | frameStart d => exact h.frameStart d
  | frameEnd d => exact h.frameEnd d
  | holdExpiry d side => exact h.holdExpiry d side
  | doorLineEdge k level => exact h.doorLineEdge k level
  | debounceExpiry k => exact h.debounceExpiry k
  | areaLoWrite v => exact (h.writeRegister v .areaLo).keeps
  | areaHiWrite v => exact (h.writeRegister v .areaHi).keeps
  | areaSizeWrite v => exact (h.writeRegister v .areaSize).keeps
  | statusRead => exact Rested.keeps h.of
  | resetCauseWrite v => exact (h.writeRegister v .resetCause).keeps
  | registerWrite r v => exact (h.writeRegister v r).keeps
  | attentionWrite v => exact (h.writeRegister v .attention).keeps
  | runChain => exact h.takeWord 1 _ fun _ _ _ hu => hu.runChain _ _
  | haltLane => exact h.takeWord 2 _ fun _ _ _ hu => hu.haltByWord _ _
  | acknowledge => exact h.takeWord 3 _ fun _ _ _ hu => hu.acknowledge _ _
  | restart => exact h.takeWord 4 _ fun _ _ _ hu => hu.restartByWord _ _
  | wake => exact h.takeWord 5 _ fun _ _ _ hu => hu.wakePart .wake
  | badCode => exact h.badCode
  | headerRead l => exact h.headerRead l
  | skipWalk l => exact h.skipWalk l
  | defineCamera => exact h.lane0Block .defineCamera Machine.actDefineCamera h.actDefineCamera
  | parkCamera => exact h.lane0Block .parkCamera Machine.actParkCamera h.actParkCamera
  | unparkCamera => exact h.lane0Block .unparkCamera Machine.actUnparkCamera h.actUnparkCamera
  | loadLayout => exact h.lane0Block .loadLayout Machine.actLoadLayout h.actLoadLayout
  | clearLayout => exact h.lane0Block .clearLayout Machine.actClearLayout h.actClearLayout
  | selectLayout => exact h.lane0Block .selectLayout Machine.actSelectLayout h.actSelectLayout
  | setDisplay => exact h.lane0Block .setDisplay Machine.actSetDisplay h.actSetDisplay
  | setCab => exact h.lane0Block .setCab Machine.actSetCab h.actSetCab
  | learnReference => exact h.lane0Block .learnReference Machine.actLearnReference h.actLearnReference
  | setReference => exact h.lane0Block .setReference Machine.actSetReference h.actSetReference
  | measureOnce => exact h.lane0Block .measureOnce Machine.actMeasureOnce h.actMeasureOnce
  | setSoilLimits => exact h.lane0Block .setSoilLimits Machine.actSetSoilLimits h.actSetSoilLimits
  | setDoorPolicy => exact h.lane0Block .setDoorPolicy Machine.actSetDoorPolicy h.actSetDoorPolicy
  | enterStabling => exact h.lane0Block .enterStabling Machine.actEnterStabling h.actEnterStabling
  | exportFrame => exact h.exportFrame
  | exportScreen => exact h.exportScreen
  | exportFrameRow => exact h.exportFrameRow
  | exportScreenRow => exact h.exportScreenRow

/-- Every step leaves the part as it is between two events. -/
theorem Rested.step (h : Rested s) (hs : step s = .next t) : Rested t := by
  unfold Machine.step at hs
  split at hs
  · cases hs
    exact h.of rfl rfl rfl
  · exact Rested.exec h.of _ t hs

end Sys2Proof.Machine

namespace Sys2Proof.Proofs

open Sys2Proof Sys2Proof.Machine Sys2Proof.Safety

-- The proofs are elaborated in order: side by side, each would hold a thread of its own, and its memory.
set_option Elab.async false

/-- Settles O6: the three invariants are one, `Rested`, which every command keeps; the bytes of a write and of a run by the laws of
the memories. -/
theorem memoryAndReportsStaySettled : Obligations.MemoryAndReportsStaySettled := by
  unfold Obligations.MemoryAndReportsStaySettled
  refine ⟨fun s t h hs => ?_, fun m a bs x n => ⟨Memory.read_write m a bs x, Memory.readBytes_eq m a n⟩⟩
  exact (rested_iff t).1 (Rested.step ((rested_iff s).2 h) hs)

end Sys2Proof.Proofs
end

section
/-! A record write that the link fails, within the records of an event (R172, R173, R177, R178). -/

namespace Sys2Proof.Machine

open Safety

-- The proofs are elaborated in order: side by side, each would hold a thread of its own, and its memory.
set_option Elab.async false

/-! ## The records of an event in their order (R172) -/

/-- One record is written before another: the part record last, the others by their offsets. -/
def WrittenBefore (p q : Record) : Prop := p ≠ .part ∧ (q = .part ∨ recordPlace p < recordPlace q)

theorem WrittenBefore.asymm {p q : Record} (h : WrittenBefore p q) : ¬ WrittenBefore q p := by
  obtain ⟨hp, hpq⟩ := h
  rintro ⟨hq, rfl | hqp⟩
  · exact hp rfl
  · rcases hpq with rfl | hpq
    · exact hq rfl
    · omega

theorem nodup_of_writtenBefore {rs : List Record} (h : rs.Pairwise WrittenBefore) : rs.Nodup :=
  h.imp fun hpq => by
    rintro rfl
    exact hpq.asymm hpq

theorem recordsBeforePart_rising : recordsBeforePart.Pairwise fun p q => recordPlace p < recordPlace q := by decide

/-- The records an event writes, in the order it writes them. -/
def eventRecords (s : State) : List Record := dueRecords s ++ if .part ∈ s.reports.due then [.part] else []

theorem mem_eventRecords (s : State) (r : Record) : r ∈ eventRecords s ↔ r ∈ s.reports.due := by
  unfold eventRecords
  rw [List.mem_append, mem_dueRecords]
  by_cases hr : r = .part
  · subst hr
    simp
  · simp [hr]

theorem eventRecords_rising (s : State) : (eventRecords s).Pairwise WrittenBefore := by
  have hpart {p : Record} (hp : p ∈ dueRecords s) : p ≠ .part := ((mem_dueRecords s p).1 hp).2
  unfold eventRecords
  refine List.pairwise_append.2 ⟨?_, ?_, fun p hp q hq => ?_⟩
  · refine List.Pairwise.imp_of_mem (fun hp _ hpq => ⟨hpart hp, .inr hpq⟩) ?_
    exact recordsBeforePart_rising.filter _
  · split <;> simp
  · refine ⟨hpart hp, .inl ?_⟩
    split at hq
    · exact List.mem_singleton.1 hq
    · cases hq

/-- A list that holds the due records in the order of R172 is the list of them. -/
theorem eventRecords_eq {s : State} {written : List Record} (hmem : ∀ q, q ∈ s.reports.due ↔ q ∈ written)
    (hrising : written.Pairwise WrittenBefore) : eventRecords s = written := by
  have hevent := eventRecords_rising s
  have hperm : (eventRecords s).Perm written :=
    (List.perm_ext_iff_of_nodup (nodup_of_writtenBefore hevent) (nodup_of_writtenBefore hrising)).2 fun q =>
      (mem_eventRecords s q).trans (hmem q)
  exact hperm.eq_of_pairwise (fun _ _ _ _ hpq hqp => absurd hqp hpq.asymm) hevent hrising

/-! ## What the writes leave due -/

/-- The records `rs` written one after another. -/
abbrev recordsWritten (rs : List Record) (s : State) : State := rs.foldl (fun t r => writeRecord r t) s

theorem recordsWritten_still {s : State} (hf : reportsFlow s = false) (rs : List Record) : recordsWritten rs s = s := by
  induction rs with
  | nil => rfl
  | cons r rs ih => rw [recordsWritten, List.foldl_cons, writeRecord_still hf]; exact ih

theorem raise_due {n : Notice} {s : State} {q : Record} (hq : q ∈ s.reports.due) : q ∈ (raise n s).reports.due := by
  unfold raise
  split
  · split
    · exact hq
    · exact List.mem_cons_of_mem _ hq
  · exact hq

/-- A report write error stops the reports, and what was due stays so (R178). -/
theorem reportError_stops (r : Record) (s : State) :
    reportsFlow (reportError r s) = false ∧ ∀ q ∈ s.reports.due, q ∈ (reportError r s).reports.due := by
  refine ⟨?_, fun q hq => raise_due (List.mem_cons_of_mem _ hq)⟩
  obtain ⟨-, -, -, -, hsuspended, -⟩ := reportError_reports_fields r s
  rw [reportsFlow, hsuspended, Bool.not_true, Bool.and_false]

/-- The write of a record leaves what is due, unless it stops the reports. -/
theorem writeRecord_due (r : Record) (s : State) :
    (∀ q ∈ s.reports.due, q ∈ (writeRecord r s).reports.due) ∧
    (reportsFlow (writeRecord r s) = true → (writeRecord r s).reports.due = s.reports.due) := by
  unfold writeRecord
  split
  · dsimp only
    split
    · exact ⟨fun _ hq => hq, fun _ => rfl⟩
    · obtain ⟨hstops, hdue⟩ := reportError_stops r
        ((s.setReports { s.reports with
          editions := s.reports.editions.set r.index (s.reports.editions[r.index] + 1)
          lastOverride := noteOverride s r }).setBus _)
      exact ⟨hdue, fun hf => absurd (hstops.symm.trans hf) Bool.false_ne_true⟩
  · exact ⟨fun _ hq => hq, fun _ => rfl⟩

theorem recordsWritten_due (rs : List Record) (s : State) :
    (∀ q ∈ s.reports.due, q ∈ (recordsWritten rs s).reports.due) ∧
    (reportsFlow (recordsWritten rs s) = true → (recordsWritten rs s).reports.due = s.reports.due) := by
  induction rs generalizing s with
  | nil => exact ⟨fun _ hq => hq, fun _ => rfl⟩
  | cons r rs ih =>
    obtain ⟨hdue, hsame⟩ := writeRecord_due r s
    obtain ⟨hdues, hsames⟩ := ih (writeRecord r s)
    refine ⟨fun q hq => hdues q (hdue q hq), fun hf => (hsames hf).trans (hsame ?_)⟩
    by_contra hstopped
    have hstill := recordsWritten_still (Bool.eq_false_iff.2 hstopped) rs
    exact hstopped (hstill ▸ hf)

/-- The end of an event: its records in their order, then IV (R172, R175). -/
theorem finishEvent_eq (s : State) :
    finishEvent s = settleIv ((recordsWritten (eventRecords s) s).setReports
      { (recordsWritten (eventRecords s) s).reports with due := [] }) := by
  obtain ⟨hdue, hsame⟩ := recordsWritten_due (dueRecords s) s
  have hpart : (if (recordsWritten (dueRecords s) s).reports.due.contains .part = true then
      writeRecord .part (recordsWritten (dueRecords s) s) else recordsWritten (dueRecords s) s) =
      recordsWritten (eventRecords s) s := by
    unfold eventRecords recordsWritten
    rw [List.foldl_append]
    change (if (recordsWritten (dueRecords s) s).reports.due.contains .part = true then _ else _) = _
    by_cases hp : Record.part ∈ s.reports.due
    · rw [if_pos hp, if_pos (List.contains_iff_mem.2 (hdue _ hp))]
      rfl
    · rw [if_neg hp]
      by_cases hf : reportsFlow (recordsWritten (dueRecords s) s) = true
      · rw [if_neg fun hc => hp (hsame hf ▸ List.contains_iff_mem.1 hc)]
        rfl
      · rw [writeRecord_still (Bool.eq_false_iff.2 hf), ite_self]
        rfl
  unfold finishEvent
  dsimp only
  rw [hpart]

/-! ## Records that are written whole (R173) -/

/-- The state with the outcomes of the link to come. -/
def fated (f : List LinkOutcome) (s : State) : State := { s with bus := { s.bus with fate := f } }

section Link
variable {b : Bus} {ws : List (Nat × List Byte)} {rest : List LinkOutcome}

theorem Bus.writeSealed_completes (hf : b.fate = List.replicate ws.length .completed ++ rest) :
    b.writeSealed ws = ({ b with mem := b.mem.writeAll ws, fate := rest }, true) := by
  induction ws generalizing b with
  | nil =>
    have hf : b.fate = rest := hf
    subst hf
    rfl
  | cons w ws ih =>
    have hcons : b.fate = .completed :: (List.replicate ws.length .completed ++ rest) := hf
    cases ws with
    | nil =>
      unfold Bus.writeSealed Bus.writeWhole
      rw [hcons]
      exact Bus.write_completes hcons
    | cons v ws =>
      unfold Bus.writeSealed
      rw [Bus.write_completes hcons]
      exact ih (b := { b with mem := b.mem.write w.1 w.2, fate := _ }) rfl

end Link

variable {s : State} {r : Record} {rest : List LinkOutcome}

/-- A record's three writes that complete leave what a quiet link would, and the outcomes after them. -/
theorem writeRecord_completes (hf : s.bus.fate = List.replicate 3 .completed ++ rest) (hflow : reportsFlow s = true) :
    writeRecord r s = fated rest (writeRecord r (fated [] s)) := by
  rw [writeRecord_quiet (s := fated [] s) rfl hflow]
  unfold writeRecord
  dsimp only
  rw [if_pos hflow, Bus.writeSealed_completes (ws := recordWrites s r _) hf]
  cases r <;> rfl

theorem recordsWritten_complete (rs : List Record) (hf : s.bus.fate = List.replicate (3 * rs.length) .completed ++ rest)
    (hflow : reportsFlow s = true) : recordsWritten rs s = fated rest (recordsWritten rs (fated [] s)) := by
  induction rs generalizing s with
  | nil =>
    have hf : s.bus.fate = rest := hf
    subst hf
    rfl
  | cons r rs ih =>
    have hthree : s.bus.fate = List.replicate 3 .completed ++ (List.replicate (3 * rs.length) .completed ++ rest) := by
      rw [hf, ← List.append_assoc, List.replicate_append_replicate, List.length_cons]
      congr 2
      omega
    have hquiet := writeRecord_quiet (r := r) (s := fated [] s) rfl hflow
    have hrest : fated [] (writeRecord r (fated [] s)) = writeRecord r (fated [] s) := by rw [hquiet]; rfl
    have hnext := ih (s := fated (List.replicate (3 * rs.length) .completed ++ rest) (writeRecord r (fated [] s))) rfl
      (by rw [hquiet]; exact hflow)
    calc recordsWritten (r :: rs) s
        = recordsWritten rs (fated (List.replicate (3 * rs.length) .completed ++ rest) (writeRecord r (fated [] s))) := by
          rw [recordsWritten, List.foldl_cons, writeRecord_completes hthree hflow]
      _ = fated rest (recordsWritten rs (fated [] (writeRecord r (fated [] s)))) := hnext
      _ = fated rest (recordsWritten (r :: rs) (fated [] s)) := by rw [hrest]; rfl

/-! ## The record whose write fails (R173, R178) -/

variable {k landed : Nat}

/-- What host memory takes of a record's three writes where the link completes `k` of them and fails the next; a tail edition that
fails lands nothing. -/
def recordCut (s : State) (r : Record) (edition : Half) (k landed : Nat) : List (Nat × List Byte) :=
  if k + 1 = 3 then (recordWrites s r edition).take k else cutWrites (recordWrites s r edition) k landed

/-- What a report write error leaves in the fault record (R177, R178). -/
theorem reportError_fault (r : Record) (s : State) :
    (reportError r s).reports.fault = faultTaken s .reportWrite none (recordPlace r) := by
  obtain ⟨hplace, -⟩ := record_place r
  rw [faultTaken_eq, ← hplace]
  simp [reportError]

/-- What the failed write of a record leaves of the Report Writer and of the link. -/
theorem writeRecord_fails (hk : k < 3) (hflow : reportsFlow s = true) (hf : s.bus.fate = failsAt k landed ++ rest) :
    (writeRecord r s).reports.editions = s.reports.editions.set r.index (s.reports.editions[r.index] + 1) ∧
    (writeRecord r s).reports.suspended = true ∧ (writeRecord r s).reports.notice = noticed s [.fault] ∧
    (writeRecord r s).reports.iv = s.reports.iv ∧ (writeRecord r s).reports.announce = s.reports.announce ∧
    (writeRecord r s).reports.fault = faultTaken s .reportWrite none (recordPlace r) ∧
    (writeRecord r s).bus =
      { s.bus with
        mem := s.bus.mem.writeAll (recordCut s r (s.reports.editions[r.index] + 1) k landed), fate := rest } := by
  unfold writeRecord
  dsimp only
  rw [if_pos hflow, Bus.writeSealed_fails (ws := recordWrites s r _) hk hf]
  dsimp only
  obtain ⟨hiv, heditions, hannounce, -, hsuspended, hnotice⟩ := reportError_reports_fields r
    ((s.setReports { s.reports with
      editions := s.reports.editions.set r.index (s.reports.editions[r.index] + 1)
      lastOverride := noteOverride s r }).setBus _)
  exact ⟨heditions, hsuspended, hnotice, hiv, hannounce, reportError_fault r _, by simp only [reportError_keeps]; rfl⟩

/-- Two runs written one behind the other read as one run. -/
theorem Memory.read_write_append (m : Memory) (a : Nat) (bs cs : List Byte) (x : Nat) :
    ((m.write a bs).write (a + bs.length) cs).read x = (m.write a (bs ++ cs)).read x := by
  simp only [Memory.read_write, List.length_append]
  rcases Nat.lt_or_ge x (a + bs.length) with hx | hx
  · rw [if_neg (by omega)]
    by_cases ha : a ≤ x
    · rw [if_pos ⟨ha, hx⟩, if_pos (by omega), List.getD_append _ _ _ _ (by omega)]
    · rw [if_neg (by omega), if_neg (by omega)]
  · rw [if_neg (c := a ≤ x ∧ x < a + bs.length) (by omega)]
    by_cases hc : x < a + bs.length + cs.length
    · rw [if_pos ⟨hx, hc⟩, if_pos (by omega), List.getD_append_right _ _ _ _ (by omega), Nat.sub_add_eq]
    · rw [if_neg (by omega), if_neg (by omega)]

theorem recordLength_eq (r : Record) : recordLength r = r.size := by
  obtain ⟨-, hsize⟩ := record_place r
  exact hsize.symm

/-- A record has room for its two editions and for contents between them. -/
theorem length_contents_add (s : State) (r : Record) : (recordContents s r).length + 4 = recordLength r :=
  (length_recordContents s r).trans (recordLength_eq r).symm

theorem length_recordBytes (s : State) (r : Record) (edition : Half) : (recordBytes s r edition).length = recordLength r := by
  have hlength := length_contents_add s r
  simp only [recordBytes, List.length_append, length_leBytes]
  omega

theorem recordLength_ge (r : Record) : 32 ≤ recordLength r := by cases r <;> simp [recordLength]

/-- What the link has taken of a record holds none of its tail edition, and past the first write all of its head edition. -/
theorem recordTaken_bounds (r : Record) (k landed : Nat) :
    Safety.recordTaken r k landed ≤ recordLength r - 2 ∧ (1 ≤ k → 2 ≤ Safety.recordTaken r k landed) := by
  have hlong := recordLength_ge r
  unfold Safety.recordTaken
  split <;> omega

/-- The bytes of a record that the link has taken before a write of it failed. -/
theorem read_recordCut (hk : k < 3) (edition : Half) (m : Memory) (x : Nat) :
    (m.writeAll (recordCut s r edition k landed)).read x =
      (m.write (areaBase s + recordPlace r) ((recordBytes s r edition).take (Safety.recordTaken r k landed))).read x := by
  obtain ⟨hplace, -⟩ := record_place r
  have hcontents := length_contents_add s r
  have hhead := length_leBytes 2 edition.toNat
  rw [← hplace]
  unfold recordCut recordBytes recordWrites
  generalize leBytes 2 edition.toNat = e at hhead ⊢
  match k, hk with
  | 0, _ =>
    have htaken : (e ++ recordContents s r ++ e).take (min landed 2) =
        e.take landed := by
      rw [List.append_assoc, List.take_append_of_le_length (by omega), ← List.take_take, List.take_of_length_le (i := 2) (by omega)]
    exact congrArg (fun bs => (m.write (areaBase s + r.offset) bs).read x) htaken.symm
  | 1, _ =>
    have htaken : (e ++ recordContents s r ++ e).take
        (2 + min landed (recordLength r - 4)) = e ++ (recordContents s r).take landed := by
      rw [List.append_assoc, ← hhead, List.take_length_add_append, List.take_append_of_le_length (by omega), ← List.take_take,
        List.take_of_length_le (i := recordLength r - 4) (by omega)]
    refine Eq.trans ?_ (congrArg (fun bs => (m.write (areaBase s + r.offset) bs).read x) htaken.symm)
    rw [← Memory.read_write_append, hhead]
    rfl
  | 2, _ =>
    have htaken : (e ++ recordContents s r ++ e).take (recordLength r - 2) =
        e ++ recordContents s r := by
      rw [List.take_append_of_le_length (by rw [List.length_append]; omega), List.take_of_length_le (by rw [List.length_append]; omega)]
    refine Eq.trans ?_ (congrArg (fun bs => (m.write (areaBase s + r.offset) bs).read x) htaken.symm)
    rw [← Memory.read_write_append, hhead]
    rfl

end Sys2Proof.Machine
end

section
/-! A record write that fails leaves the records before it whole, its own cut short, and reports suspended (R172, R173, R177, R178). -/

namespace Sys2Proof.Machine

open Safety

-- The proofs are elaborated in order: side by side, each would hold a thread of its own, and its memory.
set_option Elab.async false

/-- Two records share no byte of the report region (section 10.1). -/
theorem records_apart {p q : Record} (h : p ≠ q) :
    recordPlace p + recordLength p ≤ recordPlace q ∨ recordPlace q + recordLength q ≤ recordPlace p := by
  obtain ⟨hp, hp'⟩ := record_place p
  obtain ⟨hq, hq'⟩ := record_place q
  rw [← hp, ← hp', ← hq, ← hq']
  exact Record.apart h

/-! ## The records before it (R172, R173) -/

/-- The state `u` differs from `s` in the editions, the overrides noted and the link alone. -/
def SameDuty (s u : State) : Prop :=
  u = { s with
    reports := { s.reports with editions := u.reports.editions, lastOverride := u.reports.lastOverride }, bus := u.bus }

section Duty
variable {s u : State}

theorem SameDuty.recordBytes (h : SameDuty s u) (r : Record) (edition : Half) : recordBytes u r edition = recordBytes s r edition := by
  rw [h]
  cases r <;> rfl

end Duty

section Whole
variable {s : State} {before : List Record} {rest : List LinkOutcome}

/-- Records that the link lets through: each stands with its next edition, and no other byte has changed. -/
theorem recordsWritten_whole (hnodup : before.Nodup) (hflow : reportsFlow s = true)
    (hf : s.bus.fate = List.replicate (3 * before.length) .completed ++ rest) :
    let u := recordsWritten before s
    SameDuty s u ∧ u.bus.fate = rest ∧ u.bus.interrupts = s.bus.interrupts ∧
    (∀ q : Record, u.reports.editions[q.index] =
      if q ∈ before then s.reports.editions[q.index] + 1 else s.reports.editions[q.index]) ∧
    (∀ q ∈ before, u.bus.mem.readBytes (areaBase s + recordPlace q) (recordLength q) =
      recordBytes s q (s.reports.editions[q.index] + 1)) ∧
    ∀ x, (∀ q ∈ before, x < areaBase s + recordPlace q ∨ areaBase s + recordPlace q + recordLength q ≤ x) →
      u.bus.mem.read x = s.bus.mem.read x := by
  obtain ⟨eds, last, mem, hquiet, heds, -, hstand, helse⟩ := writeRecords_quiet before (fated [] s) hnodup rfl hflow
  intro u
  have hu : u = { s with
      reports := { s.reports with editions := eds, lastOverride := last }, bus := { s.bus with mem, fate := rest } } := by
    unfold u
    rw [recordsWritten_complete before hf hflow, recordsWritten, hquiet]
    rfl
  rw [hu]
  refine ⟨rfl, rfl, rfl, heds, fun q hq => ?_, fun x hx => helse x fun q hq => ?_⟩
  · obtain ⟨hplace, hlength⟩ := record_place q
    rw [← hplace, ← hlength]
    refine (hstand q hq).trans ?_
    cases q <;> rfl
  · obtain ⟨hplace, hlength⟩ := record_place q
    rw [hplace, hlength]
    exact hx q hq

end Whole

/-! ## The record that is cut short (R173) -/

section Cut
variable {s : State} {r : Record} {edition : Half} {m m' : Memory} {n : Nat}

/-- Memory that has taken the first `n` bytes of a record, none of its tail edition. -/
theorem taken_reads (hm : ∀ x, m'.read x = (m.write (areaBase s + recordPlace r) ((recordBytes s r edition).take n)).read x)
    (hn : n ≤ recordLength r - 2) :
    m'.readBytes (areaBase s + recordPlace r) n = (recordBytes s r edition).take n ∧
    (2 ≤ n → m'.readBytes (areaBase s + recordPlace r) 2 = leBytes 2 edition.toNat) ∧
    ∀ x, x < areaBase s + recordPlace r ∨ areaBase s + recordPlace r + n ≤ x → m'.read x = m.read x := by
  have hlength : ((recordBytes s r edition).take n).length = n := by
    rw [List.length_take, length_recordBytes]
    omega
  have hbytes : m'.readBytes (areaBase s + recordPlace r) n = (recordBytes s r edition).take n :=
    (Memory.readBytes_congr fun x _ _ => hm x).trans (Memory.readBytes_write_of m _ hlength)
  refine ⟨hbytes, fun h2 => ?_, fun x hx => (hm x).trans (Memory.read_write_outside (by rw [hlength]; exact hx))⟩
  obtain ⟨j, rfl⟩ := Nat.exists_eq_add_of_le h2
  have hhead := congrArg (List.take 2) hbytes
  rw [Memory.readBytes_add, List.take_left' (Memory.length_readBytes _ _ _), List.take_take, Nat.min_eq_left h2, recordBytes,
    List.append_assoc, List.take_left' (length_leBytes _ _)] at hhead
  exact hhead

end Cut

/-! ## Both (R172, R173, R177, R178) -/

section Fails
variable {s : State} {before : List Record} {r : Record} {k landed : Nat} {rest : List LinkOutcome}

/-- The records `before` written whole, and then a record whose write fails. -/
theorem recordWriteFails_after (hr : r ∉ before) (hnodup : before.Nodup) (hk : k < 3) (hflow : reportsFlow s = true)
    (hf : s.bus.fate = failsAt (3 * before.length + k) landed ++ rest) :
    RecordWriteFails s (writeRecord r (recordsWritten before s)) before r k landed rest := by
  have hsplit : s.bus.fate = List.replicate (3 * before.length) .completed ++ (failsAt k landed ++ rest) := by
    rw [hf, failsAt, failsAt, List.replicate_add, List.append_assoc, List.append_assoc, List.append_assoc]
  obtain ⟨hsame, hfate, hinterrupts, heds, hstand, helse⟩ := recordsWritten_whole hnodup hflow hsplit
  have hothers (x : State) : { writeRecord r (recordsWritten before s) with reports := x.reports, bus := x.bus } =
      { s with reports := x.reports, bus := x.bus } :=
    (writeRecord_unseen r _ (fun v => { v with reports := x.reports, bus := x.bus }) fun _ _ _ => rfl).trans
      (writeRecords_unseen before s (fun v => { v with reports := x.reports, bus := x.bus }) fun _ _ _ => rfl)
  generalize recordsWritten before s = u at *
  have hwindow : u.window = s.window := by rw [hsame]
  have hbase : areaBase u = areaBase s := by unfold areaBase; rw [hwindow]
  obtain ⟨heditions, hsuspended, hnotice, hiv, hannounce, hfault, hbus⟩ :=
    writeRecord_fails (r := r) hk (by rw [hsame]; exact hflow) hfate
  have hedition : u.reports.editions[r.index] = s.reports.editions[r.index] := (heds r).trans (if_neg hr)
  rw [hedition] at hbus heditions
  have hcut (x : Nat) : (writeRecord r u).bus.mem.read x =
      (u.bus.mem.write (areaBase s + recordPlace r)
        ((recordBytes s r (s.reports.editions[r.index] + 1)).take (Safety.recordTaken r k landed))).read x := by
    rw [hbus, ← hbase, ← hsame.recordBytes]
    exact read_recordCut hk _ _ x
  obtain ⟨hle, htwo⟩ := recordTaken_bounds r k landed
  obtain ⟨htaken, hhead, hout⟩ := taken_reads hcut hle
  have hapart {q : Record} (hq : q ∈ before) := records_apart (p := q) (q := r) fun he => hr (he ▸ hq)
  unfold RecordWriteFails
  dsimp only
  refine ⟨hothers _, fun q => ?_, hsuspended, ?_, hnotice.trans ?_, hiv.trans ?_, hannounce.trans ?_, hfault.trans ?_, ?_, ?_,
    fun q hq => ?_, htaken, fun h1 => ⟨hhead ?_, ?_⟩, fun x hbefore hx => ?_⟩
  · rw [heditions, getElem_set_fin]
    by_cases hqr : q = r
    · subst hqr
      simp
    · rw [if_neg fun he => hqr (Record.index_inj he).symm, heds q]
      simp [hqr]
  · rw [reject, hsuspended, Bool.or_true]
  · rw [hsame]; rfl
  · rw [hsame]
  · rw [hsame]
  · rw [hsame]; rfl
  · rw [hbus]
  · rw [hbus]; exact hinterrupts
  · rw [← hstand q hq]
    exact Memory.readBytes_congr fun x hx1 hx2 => hout x (by have := hapart hq; omega)
  · exact htwo h1
  · have hlong := recordLength_ge r
    refine Memory.readBytes_congr fun x hx1 hx2 => (hout x ?_).trans (helse x fun q hq => ?_)
    · omega
    · have := hapart hq
      omega
  · exact (hout x hx).trans (helse x hbefore)

/-- Nothing that the failure of a record write leaves speaks of the records still due. -/
theorem recordWriteFails_cleared {t : State} (h : RecordWriteFails s t before r k landed rest) :
    RecordWriteFails s (t.setReports { t.reports with due := [] }) before r k landed rest := by
  obtain ⟨hothers, hrest⟩ := h
  refine ⟨?_, hrest⟩
  rw [hothers]
  rfl

/-- Once reports are suspended, the end of an event writes nothing more (R178). -/
theorem finishEvent_suspends {after : List Record} (hdue : ∀ q, q ∈ s.reports.due ↔ q ∈ before ++ r :: after)
    (hrising : (before ++ r :: after).Pairwise WrittenBefore)
    (hsuspended : (writeRecord r (recordsWritten before s)).reports.suspended = true) :
    finishEvent s = (writeRecord r (recordsWritten before s)).setReports
      { (writeRecord r (recordsWritten before s)).reports with due := [] } := by
  have hstopped {t : State} (h : t.reports.suspended = true) : reportsFlow t = false := by
    rw [reportsFlow, h, Bool.not_true, Bool.and_false]
  have hwritten : recordsWritten (before ++ r :: after) s = writeRecord r (recordsWritten before s) := by
    rw [recordsWritten, List.foldl_append, List.foldl_cons]
    exact recordsWritten_still (hstopped hsuspended) after
  rw [finishEvent_eq, eventRecords_eq hdue hrising, hwritten]
  unfold settleIv
  refine if_neg fun ⟨_, hflow, _⟩ => ?_
  exact absurd ((hstopped hsuspended).symm.trans hflow) Bool.false_ne_true

end Fails

end Sys2Proof.Machine

namespace Sys2Proof.Proofs

open Sys2Proof Sys2Proof.Machine Sys2Proof.Safety

-- The proofs are elaborated in order: side by side, each would hold a thread of its own, and its memory.
set_option Elab.async false

/-- Settles O17: a record alone, and a record within those of an event, fail in one way (`recordWriteFails_after`), after which the
event writes nothing more (`finishEvent_suspends`). -/
theorem failedRecordWriteSuspendsReports : Obligations.FailedRecordWriteSuspendsReports := by
  unfold Obligations.FailedRecordWriteSuspendsReports
  refine ⟨fun s r k landed rest hk hflow hf => ?_, fun s before r after k landed rest => ?_⟩
  · exact recordWriteFails_after (before := []) List.not_mem_nil List.nodup_nil hk hflow (by simpa using hf)
  · intro written hdue hrising hk hflow hf
    obtain ⟨hnodup, -, hdisjoint⟩ := List.nodup_append.1 (nodup_of_writtenBefore hrising)
    have hfails := recordWriteFails_after (fun hr => hdisjoint r hr r List.mem_cons_self rfl) hnodup hk hflow hf
    have ⟨_, _, hsuspended, _⟩ := hfails
    rw [finishEvent_suspends hdue hrising hsuspended]
    exact ⟨recordWriteFails_cleared hfails, rfl⟩

end Sys2Proof.Proofs
end

section
/-! ACKNOWLEDGE (R165, R176). -/

namespace Sys2Proof.Machine

open Safety

-- The proofs are elaborated in order: side by side, each would hold a thread of its own, and its memory.
set_option Elab.async false

/-- The notice word after ACKNOWLEDGE. -/
def wordAcknowledged (notice : BitVec 11) (argument : Nat) : BitVec 11 := notice &&& ~~~(BitVec.ofNat 11 argument)

theorem hasNotice_wordAcknowledged (notice : BitVec 11) (argument : Nat) (n : Notice) :
    hasNotice (wordAcknowledged notice argument) n = (hasNotice notice n && !argument.testBit n.bit) := by
  unfold hasNotice wordAcknowledged
  rw [BitVec.getLsbD_and, BitVec.getLsbD_not, BitVec.getLsbD_ofNat, decide_eq_true n.bit_lt, Bool.true_and, Bool.true_and]

/-- The state with the notices named and IV cleared, nothing written yet. -/
def acknowledged (s : State) (word : BitVec 11) : State :=
  { wordTaken s with reports := { s.reports with notice := word, iv := false } }

/-- ACKNOWLEDGE reports nothing but the part record with the new word. -/
theorem raised_acknowledge {s : State} (hcalm : Calm s) (w head : Word) :
    Raised (acknowledged s (wordAcknowledged s.reports.notice (attentionArgument w))) (acknowledge w head (wordTaken s)) []
      [.part] :=
  (Raised.start (m := acknowledged s _) hcalm.1).mark .part

end Sys2Proof.Machine

namespace Sys2Proof.Proofs

open Sys2Proof Sys2Proof.Machine Sys2Proof.Safety

-- The proofs are elaborated in order: side by side, each would hold a thread of its own, and its memory.
set_option Elab.async false

/-- Settles O40: the bits by `hasNotice_wordAcknowledged`, IV and the interrupt by what an event with no notice of its own settles
over the word that is left. -/
theorem acknowledgeClearsNotices : Obligations.AcknowledgeClearsNotices := by
  unfold Obligations.AcknowledgeClearsNotices
  intro s w head hword hcalm
  have hexec : exec .acknowledge s = .next (finishEvent (acknowledge w head (wordTaken s))) := takeWord_captured hword acknowledge
  have hreported := (raised_acknowledge hcalm w head).finish hcalm.2
  have ⟨_, _, _, _, _, _, hiv, hinterrupts, _⟩ := hreported
  let others (v x : State) : State := { x with reports := v.reports, bus := v.bus }
  have hset : (finishEvent (acknowledge w head (wordTaken s))).reports.iv = true ↔
      wordAcknowledged s.reports.notice (attentionArgument w) ≠ 0 ∧ reportsFlow s = true := by
    rw [hiv, noticed_nil, Bool.or_eq_true, Bool.and_eq_true, decide_eq_true_iff]
    simp only [acknowledged, Bool.false_eq_true, false_or]
    exact and_comm
  refine ⟨_, wordAcknowledged s.reports.notice (attentionArgument w), hexec, ?_, hasNotice_wordAcknowledged _ _, hreported, hset, ?_⟩
  · exact finishEvent_others (s := wordTaken s) others (fun _ => rfl) (fun _ _ _ _ => rfl) fun _ => rfl
  · simp only [← hset]
    rw [hinterrupts]
    show s.bus.interrupts + (_ && !false).toNat = _
    rw [Bool.not_false, Bool.and_true]
    cases (finishEvent (acknowledge w head (wordTaken s))).reports.iv <;> rfl

end Sys2Proof.Proofs
end

section
/-! Every command answers a next state and leaves the queue of those that wait (section 1.3). -/

namespace Sys2Proof.Machine

open Safety

-- The proofs are elaborated in order: side by side, each would hold a thread of its own, and its memory.
set_option Elab.async false

/-- The outcome is a next state, with the same commands waiting. -/
def Completes (s : State) (o : Host.Outcome State Fault Refusal) : Prop := ∃ t, o = .next t ∧ t.pending = s.pending

variable {s : State}

theorem completes_next {t : State} (h : t.pending = s.pending := by simp) : Completes s (.next t) := ⟨t, rfl, h⟩

theorem completes_same : Completes s (.next s) := completes_next rfl

/-! ## Packets, timers and frames -/

theorem frameOpen_completes (p : PortId) (count width height : Half) : Completes s (execFrameOpen p count width height s) := by
  unfold execFrameOpen
  split
  · exact completes_same
  · exact completes_next

/-- A frame of the size in its camera record fits its slot, so its lines have their place in frame memory (R23). -/
theorem line_completes {p : PortId} (hsize : FrameSize s.ports[p].camera.width s.ports[p].camera.height)
    (n : Half) (payload : List Byte) (check : Half) : Completes s (execLine p n payload check s) := by
  unfold execLine
  split
  · exact completes_same
  · split
    · exact completes_same
    · rw [if_pos (frameFits_of_size p _ hsize)]
      exact completes_next

theorem frameClose_completes {p : PortId} (hsize : FrameSize s.ports[p].camera.width s.ports[p].camera.height) (count : Half) :
    Completes s (execFrameClose p count s) := by
  unfold execFrameClose
  split
  · exact completes_same
  · split
    · exact completes_same
    · rw [if_pos (frameFits_of_size p _ hsize)]
      exact completes_next

theorem silenceTimerExpiry_completes (p : PortId) : Completes s (execSilenceTimerExpiry p s) := by
  unfold execSilenceTimerExpiry
  split
  · exact completes_next
  · exact completes_same

theorem evaluationService_completes : Completes s (execEvaluationService s) := by
  unfold execEvaluationService
  split
  · exact completes_same
  · exact completes_next

theorem frameStart_completes (d : DisplayId) : Completes s (execFrameStart d s) := by
  unfold execFrameStart
  split
  · exact completes_next
  · exact completes_same

theorem frameEnd_completes (d : DisplayId) : Completes s (execFrameEnd d s) := by
  unfold execFrameEnd
  split
  · exact completes_next
  · exact completes_same

/-! ## Doors and holds -/

theorem holdExpiry_completes (d : DisplayId) (side : CabSide) : Completes s (execHoldExpiry d side s) := by
  cases side with
  | left => exact completes_next
  | right => exact completes_next

theorem doorLineEdge_completes (k : DoorId) (level : Bool) : Completes s (execDoorLineEdge k level s) := by
  unfold execDoorLineEdge
  dsimp only
  split
  · exact completes_same
  · split
    · exact completes_next
    · split
      · exact completes_next
      · exact completes_next

theorem debounceExpiry_completes (k : DoorId) : Completes s (execDebounceExpiry k s) := by
  unfold execDebounceExpiry
  dsimp only
  split
  · exact completes_same
  · split
    · split
      · exact completes_next
      · exact completes_next
    · exact completes_same

/-! ## The register window and the attention words -/

/-- A write of a register reaches the window, the reports and the link. -/
theorem writeRegister_pending (value : Word) (s : State) (r : HostRegister) : (writeRegister value s r).pending = s.pending := by
  cases r with
  | ident => rfl
  | areaLo =>
    show (writeAreaLo value s).pending = s.pending
    unfold writeAreaLo
    split <;> simp
  | areaHi =>
    show (writeAreaHi value s).pending = s.pending
    unfold writeAreaHi
    split <;> simp
  | areaSize =>
    show (writeAreaSize value s).pending = s.pending
    unfold writeAreaSize
    split
    · simp
    · dsimp only
      split <;> simp
  | command => rfl
  | attention =>
    show (writeAttention value s).pending = s.pending
    unfold writeAttention
    split <;> simp
  | status => rfl
  | resetCause => rfl

theorem takeWord_completes (code : Nat) {effect : Word → Word → State → State}
    (he : ∀ w head u, (effect w head u).pending = u.pending := by simp) : Completes s (takeWord code effect s) := by
  unfold takeWord
  split
  · exact completes_same
  · split
    · exact completes_next (by simp [he])
    · exact completes_same

theorem badCode_completes : Completes s (execBadCode s) := by
  unfold execBadCode
  split
  · exact completes_same
  · split
    · exact completes_same
    · exact completes_next

/-! ## The lanes and their blocks -/

theorem reachBlock_pending (l : LaneId) (c : Chain) {rest : Chain → Header → State → State}
    (hr : ∀ c g u, (rest c g u).pending = u.pending) (s : State) : (reachBlock l c rest s).pending = s.pending := by
  unfold reachBlock
  split
  · split
    · simp
    · simp [hr]
  · simp

theorem headerRead_completes (l : LaneId) : Completes s (execHeaderRead l s) := by
  unfold execHeaderRead
  split
  · exact completes_same
  · exact completes_next (by simp [reachBlock_pending])

theorem skipWalk_completes (l : LaneId) : Completes s (execSkipWalk l s) := by
  unfold execSkipWalk
  split
  · exact completes_same
  · exact completes_next (by simp [reachBlock_pending])

theorem lane0Block_completes (kind : Kind) (act : InHand → State → State × Ending)
    (ha : ∀ b, (act b s).1.pending = s.pending) : Completes s (lane0Block kind act s) := by
  unfold lane0Block
  split
  · exact completes_same
  · split
    · exact completes_next (by simp [ha])
    · exact completes_same

theorem actDefineCamera_pending (b : InHand) : (actDefineCamera b s).1.pending = s.pending := by
  unfold actDefineCamera
  split
  · rfl
  · split
    · rfl
    · split
      · rfl
      · split <;> simp

theorem actParkCamera_pending (b : InHand) : (actParkCamera b s).1.pending = s.pending := by
  unfold actParkCamera
  split
  · rfl
  · split
    · rfl
    · split <;> simp

theorem actUnparkCamera_pending (b : InHand) : (actUnparkCamera b s).1.pending = s.pending := by
  unfold actUnparkCamera
  split
  · rfl
  · split
    · rfl
    · split
      · rfl
      · split <;> simp

theorem actLoadLayout_pending (b : InHand) : (actLoadLayout b s).1.pending = s.pending := by
  unfold actLoadLayout
  split
  · rfl
  · split
    · split <;> simp
    · rfl

theorem actClearLayout_pending (b : InHand) : (actClearLayout b s).1.pending = s.pending := by
  unfold actClearLayout
  split
  · rfl
  · split <;> simp

theorem actSelectLayout_pending (b : InHand) : (actSelectLayout b s).1.pending = s.pending := by
  unfold actSelectLayout
  split
  · rfl
  · split
    · rfl
    · split <;> simp

theorem actSetDisplay_pending (b : InHand) : (actSetDisplay b s).1.pending = s.pending := by
  unfold actSetDisplay
  split
  · rfl
  · split
    · rfl
    · split
      · rfl
      · split <;> simp

theorem actSetCab_pending (b : InHand) : (actSetCab b s).1.pending = s.pending := by
  unfold actSetCab
  split
  · rfl
  · split
    · rfl
    · split <;> simp

theorem actSetDoorPolicy_pending (b : InHand) : (actSetDoorPolicy b s).1.pending = s.pending := by
  unfold actSetDoorPolicy
  split
  · rfl
  · split <;> simp

theorem actEnterStabling_pending (b : InHand) : (actEnterStabling b s).1.pending = s.pending := by
  unfold actEnterStabling
  split
  · rfl
  · split
    · rfl
    · split <;> simp

theorem actLearnReference_pending (b : InHand) : (actLearnReference b s).1.pending = s.pending := by
  unfold actLearnReference
  split
  · rfl
  · dsimp only
    split
    · rfl
    · split
      · rfl
      · split <;> simp

theorem actSetReference_pending (b : InHand) : (actSetReference b s).1.pending = s.pending := by
  unfold actSetReference
  split
  · rfl
  · split
    · rfl
    · split <;> simp

theorem actMeasureOnce_pending (b : InHand) : (actMeasureOnce b s).1.pending = s.pending := by
  unfold actMeasureOnce
  split
  · rfl
  · split
    · rfl
    · split <;> simp

theorem actSetSoilLimits_pending (b : InHand) : (actSetSoilLimits b s).1.pending = s.pending := by
  unfold actSetSoilLimits
  split
  · rfl
  · split
    · rfl
    · split <;> simp

/-! ## Exports -/

theorem exportFrame_completes : Completes s (execExportFrame s) := by
  unfold execExportFrame
  split
  · exact completes_same
  · split
    · exact completes_next
    · split
      · exact completes_next
      · exact completes_next

theorem exportScreen_completes : Completes s (execExportScreen s) := by
  unfold execExportScreen
  split
  · exact completes_same
  · split
    · exact completes_next
    · split
      · exact completes_next
      · exact completes_next

/-- The frame being moved fits its slot, so each of its rows has its place in frame memory (R23). -/
theorem exportFrameRow_completes (hsize : ∀ p o i w h c t n, s.mover = .moving p o i w h c t n → FrameSize w h) :
    Completes s (execExportFrameRow s) := by
  unfold execExportFrameRow
  split
  · rename_i hm
    rw [if_pos (frameFits_of_size _ _ (hsize _ _ _ _ _ _ _ _ hm))]
    split
    · split
      · exact completes_next
      · dsimp only
        split
        · exact completes_next
        · exact completes_next
    · exact completes_same
  · exact completes_same
  · exact completes_same
  · exact completes_same

/-- The frames shown on a display fit their slots, so each line of its output has its pixels in frame memory (R23). -/
theorem exportScreenRow_completes (hb : FramesInBounds s) : Completes s (execExportScreenRow s) := by
  unfold execExportScreenRow
  split
  · rw [if_pos (tilesFit_of_bounds hb _)]
    split
    · split
      · exact completes_next
      · exact completes_next
    · exact completes_same
  · exact completes_same
  · exact completes_same
  · exact completes_same

/-! ## Every command -/

/-- Every command completes where frames fit their slots, which only lines, closes and rows of exports ask. -/
theorem exec_completes (hb : FramesInBounds s) (i : Instr) : Completes s (exec i s) := by
  have ⟨hcamera, _, hmoving, _⟩ := hb
  cases i with
  | powerOn => exact completes_next rfl
  | linkReset => exact completes_next (by simp [linkReset])
  | frameOpen p count width height => exact frameOpen_completes p count width height
  | line p n payload check => exact line_completes (hcamera p) n payload check
  | frameClose p count => exact frameClose_completes (hcamera p) count
  | unknownPacket p => exact completes_same
  | silenceTimerExpiry p => exact silenceTimerExpiry_completes p
  | evaluationService => exact evaluationService_completes
  | frameStart d => exact frameStart_completes d
  | frameEnd d => exact frameEnd_completes d
  | holdExpiry d side => exact holdExpiry_completes d side
  | doorLineEdge k level => exact doorLineEdge_completes k level
  | debounceExpiry k => exact debounceExpiry_completes k
  | areaLoWrite v => exact completes_next (writeRegister_pending v s .areaLo)
  | areaHiWrite v => exact completes_next (writeRegister_pending v s .areaHi)
  | areaSizeWrite v => exact completes_next (writeRegister_pending v s .areaSize)
  | statusRead => exact completes_next rfl
  | resetCauseWrite v => exact completes_next (writeRegister_pending v s .resetCause)
  | registerWrite r v => exact completes_next (writeRegister_pending v s r)
  | attentionWrite v => exact completes_next (writeRegister_pending v s .attention)
  | runChain => exact takeWord_completes 1
  | haltLane => exact takeWord_completes 2
  | acknowledge => exact takeWord_completes 3
  | restart => exact takeWord_completes 4
  | wake => exact takeWord_completes 5
  | badCode => exact badCode_completes
  | headerRead l => exact headerRead_completes l
  | skipWalk l => exact skipWalk_completes l
  | defineCamera => exact lane0Block_completes .defineCamera actDefineCamera actDefineCamera_pending
  | parkCamera => exact lane0Block_completes .parkCamera actParkCamera actParkCamera_pending
  | unparkCamera => exact lane0Block_completes .unparkCamera actUnparkCamera actUnparkCamera_pending
  | loadLayout => exact lane0Block_completes .loadLayout actLoadLayout actLoadLayout_pending
  | clearLayout => exact lane0Block_completes .clearLayout actClearLayout actClearLayout_pending
  | selectLayout => exact lane0Block_completes .selectLayout actSelectLayout actSelectLayout_pending
  | setDisplay => exact lane0Block_completes .setDisplay actSetDisplay actSetDisplay_pending
  | setCab => exact lane0Block_completes .setCab actSetCab actSetCab_pending
  | learnReference => exact lane0Block_completes .learnReference actLearnReference actLearnReference_pending
  | setReference => exact lane0Block_completes .setReference actSetReference actSetReference_pending
  | measureOnce => exact lane0Block_completes .measureOnce actMeasureOnce actMeasureOnce_pending
  | setSoilLimits => exact lane0Block_completes .setSoilLimits actSetSoilLimits actSetSoilLimits_pending
  | setDoorPolicy => exact lane0Block_completes .setDoorPolicy actSetDoorPolicy actSetDoorPolicy_pending
  | enterStabling => exact lane0Block_completes .enterStabling actEnterStabling actEnterStabling_pending
  | exportFrame => exact exportFrame_completes
  | exportScreen => exact exportScreen_completes
  | exportFrameRow => exact exportFrameRow_completes hmoving
  | exportScreenRow => exact exportScreenRow_completes hb

end Sys2Proof.Machine

namespace Sys2Proof.Proofs

open Sys2Proof Sys2Proof.Machine Sys2Proof.Safety

-- The proofs are elaborated in order: side by side, each would hold a thread of its own, and its memory.
set_option Elab.async false

/-- Settles O2: command by command (`exec_completes`); the one fault needs a frame that does not fit its slot. -/
theorem everyCommandCompletes : Obligations.EveryCommandCompletes := by
  unfold Obligations.EveryCommandCompletes
  exact fun i _ hb => exec_completes hb i

end Sys2Proof.Proofs
end

section
/-! A step on a queue and on an empty one, the arithmetic of stamps (section 2.3), and the invariants right after power-on. -/

namespace Sys2Proof.Machine

-- The proofs are elaborated in order: side by side, each would hold a thread of its own, and its memory.
set_option Elab.async false

theorem step_front {s : State} {i : Instr} {rest : List Instr} (h : s.pending = i :: rest) :
    step s = exec i { s with pending := rest } := by
  unfold step
  rw [h]

theorem step_empty {s : State} (h : s.pending = []) : step s = .next (tick s) := by
  unfold step
  rw [h]

theorem stamp_sub_toNat (a b : Stamp) : (b - a).toNat = (b.toNat + 2 ^ 32 - a.toNat) % 2 ^ 32 := by
  rw [BitVec.toNat_sub]
  omega

theorem stampAfter_toNat (a : Stamp) (n : Nat) : (stampAfter a n).toNat = (a.toNat + n) % 2 ^ 32 := by
  unfold stampAfter
  rw [BitVec.toNat_add, BitVec.toNat_ofNat, Nat.add_mod_mod]

/-- The low 31 bits of a difference modulo 2^32 are the difference modulo 2^31. -/
theorem since_eq (a b : Stamp) : since b a = (b.toNat + 2 ^ 32 - a.toNat) % 2 ^ 31 := by
  unfold since
  rw [stamp_sub_toNat]
  omega

theorem reached_iff (a b : Stamp) : reached b a = true ↔ (b.toNat + 2 ^ 32 - a.toNat) % 2 ^ 32 < 2 ^ 31 := by
  unfold reached
  rw [decide_eq_true_iff, stamp_sub_toNat]
  omega

/-- The state after reset is the one a power-on of it leaves, so what holds at every power-on holds there. -/
theorem powerOn_reset : powerOn State.reset = State.reset := powerOn_eq powerOn_reset_doors

/-- No notice stands and no record is due after reset, and neither memory lists a byte. -/
theorem rested_reset : Rested State.reset :=
  (rested_iff _).2 ⟨⟨by decide, by decide⟩, nofun, rfl⟩

end Sys2Proof.Machine

namespace Sys2Proof.Proofs

open Sys2Proof Sys2Proof.Machine Sys2Proof.Safety

-- The proofs are elaborated in order: side by side, each would hold a thread of its own, and its memory.
set_option Elab.async false

/-- Settles O1: the two branches of a step, and the arithmetic of stamps modulo 2^32. -/
theorem stepRunsFrontCommand : Obligations.StepRunsFrontCommand := by
  unfold Obligations.StepRunsFrontCommand
  refine ⟨fun i rest s h => step_front h, fun s h => ⟨tick s, step_empty h, rfl, ?_⟩, fun a b n => ?_⟩
  · exact stampAfter_toNat s.clock 1
  · exact ⟨stampAfter_toNat a n, since_eq a b, reached_iff a b⟩

/-- Settles O3: each invariant that every command keeps holds at a power-on, and the state after reset is a power-on's. -/
theorem resetMeetsInvariants : Obligations.ResetMeetsInvariants := by
  unfold Obligations.ResetMeetsInvariants
  obtain ⟨hmemory, hnotice, hdue⟩ := (rested_iff _).1 rested_reset
  obtain ⟨hframes, hsoil⟩ := (ranged_iff _).1 (powerOn_reset ▸ ranged_powerOn State.reset)
  obtain ⟨hslots, hholders⟩ : Coherent State.reset := powerOn_reset ▸ coherent_powerOn State.reset
  obtain ⟨hviews, hverdicts, hoverrides⟩ := (screensFollow_iff _).1 (powerOn_reset ▸ screensFollow_powerOn State.reset)
  obtain ⟨hlanes, hblocks, hhalts, hmover⟩ := (lanesCoherent_iff State.reset).1 (lanesCoherent_fresh rfl rfl)
  have hlines := (linesExact_iff _).2 (powerOn_reset ▸ linesFollow_powerOn State.reset)
  have hparked := (offParked_iff _).1 (powerOn_reset ▸ offParked_powerOn State.reset)
  exact ⟨hmemory, hlines, hviews, hframes, hsoil, hlanes, hnotice, hdue, hparked, hslots, hholders, hmover, hblocks, hhalts,
    hverdicts, hoverrides⟩

end Sys2Proof.Proofs
end
